-- ==== Sys2Proof/Word.lean ====
section
/-! DEFINITION. The word types of the part and their plainest arithmetic. -/

namespace Sys2Proof

/-- A byte of the Shelf Area, of a blade's identity store or of a link frame. -/
abbrev Byte := BitVec 8

/-- A 16-bit count or field: generations, update counts, journal counts, order tags. -/
abbrev Word16 := BitVec 16

/-- A 32-bit word of the memory window. -/
abbrev Word := BitVec 32

/-- Shelf time: milliseconds since power-on reset, modulo 2^32 (00_scope.md, Conventions). -/
abbrev Time := BitVec 32

end Sys2Proof
end

