-- ==== Sys2Proof/Syntax.lean ====
section
/-! DEFINITION. The commands of the part: one constructor of `Instr` for each row of
spec/opcode_table.json. The table gives its rows no operands ("fields": []); the operands here are
what the row's rule needs from outside: which slot, cell, port or feed, the word of a host write,
the bytes of a frame, the levels sampled at power-on (log 1). -/

namespace Sys2Proof

/-- A slot. Slot number s of the manual, 1 to 16, is index s - 1. -/
abbrev SlotId := Fin 16

/-- An order cell, 0 to 31. -/
abbrev CellId := Fin 32

/-- A node slot. Slot number n of the manual, 1 to 14, is index n - 1. -/
abbrev NodeId := Fin 14

/-- A hub slot: index 0 is hub slot 15, index 1 is hub slot 16. -/
abbrev HubId := Fin 2

/-- A fabric port, written "port n/h" in the manual (00_scope.md, Conventions). -/
structure PortId where
  node : NodeId
  hub  : HubId
deriving DecidableEq, Repr

/-- The two presence contacts of a slot (R3). -/
inductive Contact where
  | long
  | short
deriving DecidableEq, Repr

/-- The two feeds (R76). -/
inductive Feed where
  | a
  | b
deriving DecidableEq, Repr

/-- The two reference times of a slot (R94). -/
inductive RefKind where
  | on
  | off
deriving DecidableEq, Repr

/-- A slot's handle response (R30). -/
inductive HandleResponse where
  | notify
  | selfRetire
deriving DecidableEq, Repr

/-- A slot's fault response (R30). -/
inductive FaultResponse where
  | cut
  | notify
deriving DecidableEq, Repr

/-- The six board straps (R189). -/
structure Straps where
  shelfNumber   : BitVec 6
  budgetCode    : BitVec 2
  feedLevel     : BitVec 2
  feedHold      : Bool
  handleDefault : HandleResponse
  faultDefault  : FaultResponse
deriving DecidableEq, Repr

/-- The raw levels of a slot's inputs: contacts (true is MADE), handle switch (true is OPEN), the
power stage's power-good input and the agent's ALERT input (R3, R4, R87, R138). -/
structure SlotPins where
  long       : Bool
  short      : Bool
  handleOpen : Bool
  powerGood  : Bool
  alert      : Bool
deriving DecidableEq, Repr

/-- Everything the part finds outside itself at power-on reset: the straps, each slot's inputs,
the two feed measurements (true is below the threshold), the RESET line and the endpoint's message
enable (R189, R191, R76, R193, R187). -/
structure BoardInputs where
  straps        : Straps
  slots         : Vector SlotPins 16
  feedALow      : Bool
  feedBLow      : Bool
  resetAsserted : Bool
  messageEnable : Bool
deriving DecidableEq, Repr

/-- What is told of a debounced input: its raw level, and whether it has held that level for its debounce
time (R3, R4, R76, log 18). -/
structure RawInput where
  level : Bool
  held  : Bool
deriving DecidableEq, Repr

/-- What a host write brings to one word: a value, and which of its bytes are enabled (R175). -/
structure WordData where
  value  : Word
  enable : BitVec 4
deriving DecidableEq, Repr

/-- One word of a host write request, at an offset in the window (R175). -/
structure WordWrite where
  addr : Nat
  data : WordData
deriving DecidableEq, Repr

/-- The commands and events of the part, one constructor for each row of spec/opcode_table.json, in
the table's order. Where a host write has `more`, its row names one word of a request and `more` holds the
other words of the same request, none for a request of one word (R175, logs 1 and 22). -/
inductive Instr where
  /-- POWER_ON_RESET (R190). -/
  | powerOnReset (board : BoardInputs)
  /-- RESET_LINE_ASSERT (R193): the RESET line asserts; it is taken once it has held for 1 ms. -/
  | resetLineAssert
  /-- RESET_LINE_RELEASE (R193, R194): the RESET line is released. -/
  | resetLineRelease
  /-- RESTART (R194): a host write of CONTROL with RESTART 1. -/
  | restart
  /-- CELL_POST (R178): a host write of POSTED to the state word of a cell. -/
  | cellPost (cell : CellId)
  /-- CELL_WITHDRAW (R41): a host write of FREE to the state word of a cell. -/
  | cellWithdraw (cell : CellId)
  /-- CELL_RETURN (R178): a host write of FREE to the state word of a cell. -/
  | cellReturn (cell : CellId)
  /-- CELL_BODY_WRITE (R179): a host write to word 1 to 31 of a cell. -/
  | cellBodyWrite (cell : CellId) (word : Nat) (data : WordData) (more : List WordWrite)
  /-- READ_COUNT_WRITE (R181): a host write of the word at 0x0104. -/
  | readCountWrite (data : WordData) (more : List WordWrite)
  /-- SHELF_AREA_WRITE_REFUSED (R177): a host write to a word of the Shelf Area. -/
  | shelfAreaWriteRefused (addr : Nat) (data : WordData) (more : List WordWrite)
  /-- RUN_SET (R171): a host write of CONTROL with RUN 1 and RESTART 0. -/
  | runSet (noticeEnable : Bool)
  /-- RUN_CLEAR (R37): a host write of CONTROL with RUN 0 and RESTART 0. -/
  | runClear (noticeEnable : Bool)
  /-- NOTICE_ENABLE_WRITE (R184): a host write of CONTROL that leaves RUN as it is. -/
  | noticeEnableWrite (noticeEnable : Bool)
  /-- ATTENTION_CLEAR (R186): a host write of ATTENTION. -/
  | attentionClear (data : WordData) (more : List WordWrite)
  /-- ATTENTION_ENABLE_WRITE (R187): a host write of ATTENTION-ENABLE. -/
  | attentionEnableWrite (data : WordData) (more : List WordWrite)
  /-- REGISTER_WRITE_REFUSED (R188): a host write at 0x4000 or above. -/
  | registerWriteRefused (addr : Nat) (data : WordData) (more : List WordWrite)
  /-- MESSAGE_ENABLE_CHANGE (R187). -/
  | messageEnableChange (enabled : Bool)
  /-- ADMIT (R48): the intake takes an ADMIT cell. -/
  | admitBlade
  /-- RETIRE (R49). -/
  | retire
  /-- SURVEY (R50). -/
  | survey
  /-- READ_IDENTITY (R51). -/
  | readIdentity
  /-- CLEAR_FAULT (R52). -/
  | clearFault
  /-- CUT (R53). -/
  | cut
  /-- CANCEL (R54). -/
  | cancel
  /-- HOLD (R55). -/
  | hold
  /-- UNHOLD (R55). -/
  | unhold
  /-- SET_POLICY (R56). -/
  | setPolicy
  /-- SET_BUDGET (R57). -/
  | setBudget
  /-- SET_TIMING (R57). -/
  | setTiming
  /-- BAD_KIND_TAKE (R38). -/
  | badKindTake
  /-- CONTACT_DEBOUNCE (R3): a contact's raw level, true is MADE, has held; or it has only changed (log
  18). -/
  | contactDebounce (slot : SlotId) (contact : Contact) (input : RawInput)
  /-- HANDLE_DEBOUNCE (R4): the handle's raw level, true is OPEN, has held; or it has only changed (log
  18). -/
  | handleDebounce (slot : SlotId) (input : RawInput)
  /-- SETTLE_EXPIRY (R5). -/
  | settleExpiry (slot : SlotId)
  /-- WAIT_DEADLINE_EXPIRY (R70). -/
  | waitDeadlineExpiry (slot : SlotId)
  /-- REEXAMINATION_EXPIRY (R67). -/
  | reexaminationExpiry
  /-- FEED_DEBOUNCE (R77): a feed's measured level, true is LOST, has held; or it has only changed (log
  18). -/
  | feedDebounce (feed : Feed) (input : RawInput)
  /-- POWER_GOOD (R87): the power-good input rises. -/
  | powerGood (slot : SlotId)
  /-- RAMP_LIMIT_EXPIRY (R88). -/
  | rampLimitExpiry (slot : SlotId)
  /-- TRIP (R90): the trip input asserts. -/
  | trip (slot : SlotId)
  /-- POWER_GOOD_LOSS (R90): the power-good input falls. -/
  | powerGoodLoss (slot : SlotId)
  /-- RESET_HOLD_EXPIRY (R89). -/
  | resetHoldExpiry (slot : SlotId)
  /-- DEFERRAL_EXPIRY (R92). -/
  | deferralExpiry (slot : SlotId)
  /-- MINUTE_EXPIRY (R96). -/
  | minuteExpiry (slot : SlotId)
  /-- HORIZON_EXPIRY (R94). -/
  | horizonExpiry (slot : SlotId) (ref : RefKind)
  /-- HISTORY_ENTRY_AGE (R82). -/
  | historyEntryAge
  /-- BOOT_LIMIT_EXPIRY (R10). -/
  | bootLimitExpiry (slot : SlotId)
  /-- QUIESCE_DEADLINE_EXPIRY (R16). -/
  | quiesceDeadlineExpiry (slot : SlotId)
  /-- OFFER_DEADLINE_EXPIRY (R110). -/
  | offerDeadlineExpiry (port : PortId)
  /-- DRAIN_DEADLINE_EXPIRY (R116). -/
  | drainDeadlineExpiry (port : PortId)
  /-- FRAME_ARRIVAL (R127): the bytes of one frame, the check byte last. -/
  | frameArrival (slot : SlotId) (frame : List Byte)
  /-- REPLY_DEADLINE_EXPIRY (R128). -/
  | replyDeadlineExpiry (slot : SlotId)
  /-- NOT_BEFORE_EXPIRY (R132). -/
  | notBeforeExpiry (slot : SlotId)
  /-- POLL_DEADLINE_EXPIRY (R139). -/
  | pollDeadlineExpiry (slot : SlotId)
  /-- ALERT (R138): the ALERT input takes the level `asserted`. -/
  | alert (slot : SlotId) (asserted : Bool)
  /-- RECOVERY_DEADLINE_EXPIRY (R145). -/
  | recoveryDeadlineExpiry (slot : SlotId)
  /-- PROBE_PAUSE_EXPIRY (R158). -/
  | probePauseExpiry (slot : SlotId)
  /-- PROGRAM_LIMIT_EXPIRY (R159). -/
  | programLimitExpiry (slot : SlotId)
  /-- INDICATOR_BLINK_PHASE (R31). -/
  | indicatorBlinkPhase (slot : SlotId)
deriving DecidableEq, Repr

end Sys2Proof
end

