-- ==== Sys2Proof/Decode.lean ====
section
/-! DEFINITION. The command a table word spells. The rows of spec/opcode_table.json give no bits
(each row's "fields" is empty and none has a pattern), so no word spells a command. -/

namespace Sys2Proof

/-- No row of the table gives bits, so a word spells no command, whatever its length. -/
def decodeTableWord (_nbits _w : Nat) : Option Instr := none

end Sys2Proof
end

