-- ==== Sys2Proof/Config.lean ====
section
/-! DEFINITION. What the part fixes: its limits in milliseconds and watts, taken from the numbered
rules, and the one bound of the model's own. No value of the model is left open by the spec, so
there is no free value here. -/

namespace Sys2Proof.Config

/-- SEAT-SETTLE, the settle time of a seated blade (R5). -/
def seatSettle : Nat := 200

/-- The presence debounce (R3). -/
def presenceDebounce : Nat := 5

/-- The handle debounce (R4). -/
def handleDebounce : Nat := 20

/-- The feed debounce (R76). -/
def feedDebounce : Nat := 10

/-- How long the RESET line is asserted without a break before the part takes it (R193). -/
def resetTake : Nat := 1

/-- One phase of a BLINK indicator (R31). -/
def blinkPhase : Nat := 500

/-- The boot limit in seconds when neither the ADMIT nor the identity gives one (R10). -/
def bootLimitDefault : Nat := 90

/-- The blade reset hold after power good (R89). -/
def resetHold : Nat := 50

/-- One powered minute (R96). -/
def minute : Nat := 60000

/-- The horizon of the on- and off-references (R94). -/
def horizon : Nat := 60000

/-- The age at which a ramp history entry is removed (R82). -/
def historyAge : Nat := 2147483648

/-- How many starts the ramp history remembers (R82). -/
def historyDepth : Nat := 4

/-- OFFER-LIMIT (R104, R110). -/
def offerLimit : Nat := 2000

/-- The reply limit of one attempt (R128). -/
def replyLimit : Nat := 25

/-- How many attempts one request has (R128). -/
def maxAttempts : Nat := 3

/-- The recovery interval of a LOST link (R143, R145). -/
def recoveryInterval : Nat := 1000

/-- Re-ask time after LATER (R131). -/
def laterReask : Nat := 200

/-- Re-ask time after PENDING (R131). -/
def pendingReask : Nat := 100

/-- Re-ask time after BUSY (R131). -/
def busyReask : Nat := 5

/-- The program limit of a stamp (R157). -/
def programLimit : Nat := 30

/-- The probe pause of a stamp in PROGRAMMING (R158). -/
def probePause : Nat := 5

/-- How many orders a slot order list or the shelf order list holds (R38 step 5, R42, R43). -/
def listDepth : Nat := 4

/-- The reason code of a handle retirement (R14, R153). -/
def handleReason : Byte := 240

/-- The part revision STATUS shows (11_formats.md, Registers). -/
def partRevision : Byte := 1

/-- DESIGN CHOICE (log 3): how many pieces of follow-up work one event may take. The model's own
bound, far above what any event of the spec brings; what is left over stays in `State.work`. -/
def workBound : Nat := 4096

end Sys2Proof.Config
end

