-- ==== Sys2Proof/Machine/State.lean ====
section
/-! DEFINITION. The state of the part as plain data, and its state after power-on reset. The types
follow the blocks of 00_scope.md; each field's docstring cites the rule that names it. -/

namespace Sys2Proof.Machine

/-! ### Named values of the manual -/

/-- The fifteen slot states (R1). -/
inductive SlotState where
  | vacant | seating | surveying | parked | awaitPower | ramping | booting | joining | inService
  | leaving | quiescing | stamping | poweringOff | faulted | resuming
deriving DecidableEq, Repr

/-- The causes a STATE notice names (R2). -/
inductive StateDetail where
  | seated | settled | surveyed | removed | order | granted | waitLimit | powerGood | ready
  | joined | handle | isolated | drainAbort | drained | quiesceLimit | stamped | poweredOff
  | fault | restart
deriving DecidableEq, Repr

/-- The presence field (R3). -/
inductive Presence where
  | none | longOnly | both
deriving DecidableEq, Repr

/-- The seven fault causes (R19); an absent cause is `none` of `Option`. -/
inductive FaultCause where
  | rampSlow | rampTrip | overcurrent | powerLost | bootTimeout | agentFault | linkLost
deriving DecidableEq, Repr

/-- The states an agent reports (R127). -/
inductive AgentState where
  | standby | booting | ready | draining | drained | fault | programming
deriving DecidableEq, Repr

/-- The link states (R125). -/
inductive LinkState where
  | absent | up | lost
deriving DecidableEq, Repr

/-- The identity status (R152). -/
inductive IdStatus where
  | none | valid | invalid
deriving DecidableEq, Repr

/-- The identity reason (R150, R152). -/
inductive IdReason where
  | none | link | check | format | range | kind
deriving DecidableEq, Repr

/-- The wait reasons (R65, R66). -/
inductive WaitReason where
  | budget | feed | cooling | pacing | setting | behind
deriving DecidableEq, Repr

/-- The results of a stamp (R156). -/
inductive StampResult where
  | written | failed | skipped
deriving DecidableEq, Repr

/-- The states of an order cell (R33). -/
inductive CellState where
  | free | posted | taken | finished | refused
deriving DecidableEq, Repr

/-- The twelve order kinds (02_orders.md). -/
inductive OrderKind where
  | admitBlade | retire | survey | readIdentity | clearFault | cut | cancel | hold | unhold | setPolicy
  | setBudget | setTiming
deriving DecidableEq, Repr

/-- The thirteen outcomes of a finished order (R58). -/
inductive OrderOutcome where
  | done | cancelled | overtaken | slotVacated | powerTimeout | rampFault | bootTimeout | bladeFault
  | linkLost | drainTimeout | overCommitted | abandoned | nothing
deriving DecidableEq, Repr

/-- The ten refusal codes of a refused order (R58). -/
inductive OrderRefusal where
  | badKind | badSlot | badParam | slotEmpty | listFull | stale | wrongState | identityInvalid
  | kindMismatch | lastHub
deriving DecidableEq, Repr

/-- The six port states (R99). -/
inductive PortState where
  | isolated | offered | opening | opened | closing | withdrawing
deriving DecidableEq, Repr

/-- The details of a PORT notice (R103). -/
inductive PortDetail where
  | refused | offerTimeout | drainTimeout | abrupt | link
deriving DecidableEq, Repr

/-- The details of a HANDLE notice (R27). -/
inductive HandleDetail where
  | opened | retracted | closed
deriving DecidableEq, Repr

/-- The details of a RESUMED notice (R201). -/
inductive ResumedDetail where
  | powerLost | service | booting | agentFault | linkLost
deriving DecidableEq, Repr

/-- The answers of a reply frame (R130, 11 Code values). -/
inductive Answer where
  | ok | busy | noLoad | pending | accept | refuse | later | clear | report
deriving DecidableEq, Repr

/-- The reset causes of STATUS (R185). -/
inductive ResetCause where
  | powerOn | resetLine | restartBit
deriving DecidableEq, Repr

/-! ### Slot sequencer -/

/-- The slot policy (R30). -/
structure Policy where
  handle        : HandleResponse
  fault         : FaultResponse
  stampOnHandle : Bool
deriving DecidableEq, Repr

/-- The identity copy of the slot record (R149). -/
structure Identity where
  format   : Byte
  kind     : Byte
  vendor   : Word16
  draw     : Word16
  inrush   : Byte
  bootHint : Byte
  serial   : List Byte
deriving DecidableEq, Repr

/-- The identity copy when it is cleared (R6, R25). -/
def Identity.zero : Identity := ⟨0, 0, 0, 0, 0, 0, List.replicate 8 0⟩

/-- An entry of a slot order list (R42) or of the shelf order list (R43). -/
structure OrderEntry where
  cell  : CellId
  kind  : OrderKind
  taken : Time
deriving DecidableEq, Repr

/-- The retirement context (R14). -/
structure Retirement where
  reason : Byte
  gentle : Bool
  stamp  : Bool
  cell   : Option CellId
deriving DecidableEq, Repr

/-- The step of a survey (R151). -/
inductive SurveyStep where
  | page0 | page6 | page7
deriving DecidableEq, Repr

/-- A survey in progress (R151): its step, the judgement of page 0 once returned (`none` for the
reason means a good page) and page 6 once returned. -/
structure Survey where
  step      : SurveyStep
  judgement : Option IdReason
  page6     : List Byte
deriving DecidableEq, Repr

/-- A READ-IDENTITY in progress (R155): the page it waits for, how many pages are still to come and
the bytes returned so far. -/
structure PageRead where
  page : Fin 8
  left : Nat
  data : List Byte
deriving DecidableEq, Repr

/-- The step of a stamp (R156). -/
inductive StampStep where
  | load | commit | programming | verify
deriving DecidableEq, Repr

/-- A stamp in progress (R156). -/
structure Stamp where
  step  : StampStep
  row   : Fin 8
  bytes : List Byte
  limit : Option Time
  pause : Option Time
deriving DecidableEq, Repr

/-- The phase of a BLINK indicator (R31). -/
structure Blink where
  lit      : Bool
  deadline : Time
deriving DecidableEq, Repr

/-- One slot sequencer: the fields of its slot record that it owns (R32) and what else it holds. -/
structure Slot where
  /-- slot state, previous state, entry time, generation (R1) -/
  state : SlotState
  prev  : SlotState
  entry : Time
  gen   : Word16
  /-- update count (R2) -/
  upd : Word16
  /-- debounced contact levels, true is MADE (R3) -/
  long  : Bool
  short : Bool
  /-- debounced handle level, true is OPEN (R4) -/
  handleOpen : Bool
  /-- handle request latch (R27) and HOLD flag (R29) -/
  latch : Bool
  hold  : Bool
  /-- slot policy (R30) -/
  policy : Policy
  /-- identity status, reason and copy (R149, R152) -/
  idStatus : IdStatus
  idReason : IdReason
  ident    : Identity
  /-- the record's claim in W (R32) -/
  claim : Nat
  /-- wait reason and queue position as last reported (R65) -/
  waitReason : Option WaitReason
  queuePos   : Nat
  /-- fault field and fault time (R19) -/
  fault     : Option FaultCause
  faultTime : Time
  /-- last agent state and its fault cause byte (R137) -/
  lastAgent : Option AgentState
  lastCause : Byte
  /-- the last answer taken since the slot last entered RAMPING or RESUMING was FAULT (R19) -/
  agentFault : Bool
  /-- service row pointers (R154) -/
  nextRow : Fin 8
  nextSeq : Byte
  /-- last stamp result (R17) -/
  lastStamp : Option StampResult
  /-- seating counters (R162) -/
  admissions : Nat
  minutes    : Nat
  /-- slot order list, oldest first (R42); `active`: its head has started -/
  orders : List OrderEntry
  active : Bool
  /-- retirement context (R14), survey (R151), READ-IDENTITY (R155) and stamp (R156) in progress -/
  retire : Option Retirement
  survey : Option Survey
  read   : Option PageRead
  stamp  : Option Stamp
  /-- settle deadline (R5), boot limit deadline (R10), quiesce deadline (R16) -/
  settle  : Option Time
  boot    : Option Time
  quiesce : Option Time
  /-- phase of a BLINK indicator, absent while the indicator is steady (R31) -/
  blink : Option Blink
deriving DecidableEq, Repr

/-! ### Power Allocator and Payload Power Control -/

/-- An entry of the Power Wait Queue (R63); the class is the slot's own. -/
structure QueueEntry where
  slot     : SlotId
  urgency  : Nat
  arrival  : Time
  deadline : Option Time
  claim    : Nat
deriving DecidableEq, Repr

/-- The Power Allocator. -/
structure Allocator where
  /-- budget: capacity, hub reserve, granted total and claim table, in W (R60) -/
  capacity   : Nat
  hubReserve : Nat
  granted    : Nat
  claims     : Vector Nat 16
  /-- Power Wait Queue, head first (R63, R64) -/
  queue : List QueueEntry
  /-- re-examination deadline (R67) -/
  reexam : Option Time
  /-- shelf order list, front first (R43, R73) -/
  shelf : List OrderEntry
  /-- ramping set (R74) -/
  ramping : List SlotId
  /-- feed states, true is LOST (R76) -/
  feedALost : Bool
  feedBLost : Bool
deriving DecidableEq, Repr

/-- The seven timing settings, in milliseconds but for WINDOW-LIMIT (R80). -/
structure Settings where
  rampGap      : Nat
  rampWindow   : Nat
  windowLimit  : Nat
  minOn        : Nat
  minOff       : Nat
  drainLimit   : Nat
  quiesceLimit : Nat
deriving DecidableEq, Repr

/-- The power-on values of the settings (R80). -/
def Settings.powerOn : Settings := ⟨40, 500, 4, 3000, 1500, 5000, 10000⟩

/-- Payload Power Control's state of one slot. -/
structure Power where
  /-- switch output latch (R85) -/
  switchOn : Bool
  /-- blade reset output, true is asserted (R89) -/
  resetAsserted : Bool
  /-- ramp limit (R86), reset hold (R89), deferral (R92) and minute (R96) deadlines -/
  rampLimit : Option Time
  resetHold : Option Time
  deferral  : Option Time
  minute    : Option Time
  /-- power-good time and power-off time (R94) -/
  goodTime : Time
  offTime  : Time
  /-- on- and off-reference: the horizon while RECENT, absent while CLEAR (R94) -/
  onRef  : Option Time
  offRef : Option Time
deriving DecidableEq, Repr

/-- A slot's payload power at power-on reset (R97). -/
def Power.powerOn : Power := ⟨false, true, none, none, none, none, 0, 0, none, none⟩

/-! ### Fabric Coordinator -/

/-- One entry of the Port Map (R99) with its gate latch (R100), true is open. -/
structure Port where
  state    : PortState
  declined : Bool
  attempts : Nat
  deadline : Option Time
  gate     : Bool
deriving DecidableEq, Repr

/-- A port at power-on reset (R99, R100). -/
def Port.powerOn : Port := ⟨.isolated, false, 0, none, false⟩

/-! ### Slot Link Engine -/

/-- The eleven messages (R130). -/
inductive Msg where
  | probe
  | identPage (page : Fin 8)
  | rowLoad (row : Fin 8) (bytes : List Byte)
  | rowCommit (row : Fin 8)
  | quiesce
  | pathOpen (hub : HubId)
  | pathClose (hub : HubId)
  | pathLost (hub : HubId)
  | admitNode (node : NodeId)
  | withdraw (node : NodeId)
  | drop (node : NodeId)
deriving DecidableEq, Repr

/-- The blocks that place messages on a slot link (R130): the slot's sequencer, the Fabric Coordinator,
and the engine itself for a PROBE of polling, ALERT or recovery. -/
inductive Placer where
  | sequencer
  | coordinator
  | engine
deriving DecidableEq, Repr

/-- The blocks that place a message (R130). -/
def Msg.placers : Msg → List Placer
  | .probe => [.sequencer, .engine]
  | .identPage _ | .rowLoad _ _ | .rowCommit _ | .quiesce => [.sequencer]
  | .pathOpen _ | .pathClose _ | .pathLost _ | .admitNode _ | .withdraw _ | .drop _ => [.coordinator]

/-- A queued message, with its placer, and its not-before time when it waits for a re-ask (R125,
R131). -/
structure QueuedMsg where
  msg       : Msg
  placer    : Placer
  notBefore : Option Time
deriving DecidableEq, Repr

/-- The outstanding request (R125), a message with the placer it had in the queue, to which it goes back
(R131); `recovery` marks a recovery probe (R145). -/
structure Outstanding where
  msg      : Msg
  placer   : Placer
  seq      : BitVec 4
  attempt  : Nat
  deadline : Time
  live     : Bool
  recovery : Bool
deriving DecidableEq, Repr

/-- One Slot Link Engine (R125). -/
structure Engine where
  link     : LinkState
  nextSeq  : BitVec 4
  queue    : List QueuedMsg
  out      : Option Outstanding
  poll     : Option Time
  recovery : Option Time
deriving DecidableEq, Repr

/-- An engine at power-on reset (R125). -/
def Engine.powerOn : Engine := ⟨.absent, 0, [], none, none, none⟩

/-! ### Journal Writer -/

/-- What a notice says: its kind with the detail of its kind (R165, R166). -/
inductive NoticeBody where
  | state (detail : StateDetail)
  | surprise
  | handle (detail : HandleDetail)
  | fault (cause : FaultCause)
  | port (detail : PortDetail) (hub : HubId) (portState : PortState)
  | link (recovered : Bool)
  | feed (feed : Feed) (lost : Bool)
  | stamp (result : StampResult)
  | resumed (detail : ResumedDetail)
  | settings (timing : Bool)
  | gap (mask : BitVec 17)
deriving DecidableEq, Repr

/-- A notice (R165); a shelf notice has no slot, generation 0 and states NONE. -/
structure Notice where
  body  : NoticeBody
  slot  : Option SlotId
  time  : Time
  gen   : Word16
  state : Option SlotState
  prev  : Option SlotState
  tag   : Option Word16
deriving DecidableEq, Repr

/-- The Journal Writer and its ring (R163, R169); bit 0 of the gap mask is the shelf, bit s slot s.
An entry that no notice has been written to is absent and reads as zeros. -/
structure Journal where
  entries    : Vector (Option Notice) 128
  writeCount : Word16
  readCount  : Word16
  gapMask    : BitVec 17
  gapPending : Bool
deriving DecidableEq, Repr

/-- The journal at power-on reset (R163, R169). -/
def Journal.powerOn : Journal := ⟨Vector.replicate 128 none, 0, 0, 0, false⟩

/-! ### Management Port -/

/-- The registers the Management Port stores (R184 to R187). Bits of `attention` and `enable`:
0 ORDER-DONE, 1 JOURNAL, 2 JOURNAL-FULL, 3 GUARD, 4 FEED, 5 RESTARTED. -/
structure MgmtPort where
  run           : Bool
  noticeEnable  : Bool
  attention     : BitVec 6
  enable        : BitVec 6
  cause         : ResetCause
  messageEnable : Bool
  /-- how many NOTICE messages have been sent: the model's own account of an output (log 21) -/
  messages      : Nat
deriving DecidableEq, Repr

/-! ### Work inside one event -/

/-- A piece of follow-up work that one block brings to another inside one event (log 3). -/
inductive Job where
  /-- test the head of a slot's order list (R13, R44) -/
  | start (slot : SlotId)
  /-- test a slot's handle response (R28) -/
  | handle (slot : SlotId)
  /-- examine the head of the Power Wait Queue (R66) -/
  | examine
  /-- serve the front of the shelf order list (R73) -/
  | serve
  /-- take a power-good input already asserted at the grant (R86) -/
  | powerGood (slot : SlotId)
  /-- take Payload Power Control's report of an orderly power-off (R18, R92) -/
  | switchOpened (slot : SlotId)
deriving DecidableEq, Repr

/-- A job with the tag of the order whose start or act brought it, if an order did (R103, log 13). -/
structure Work where
  job       : Job
  broughtBy : Option Word16
deriving DecidableEq, Repr

/-- A slot whose join and leave tests are due at the end of the event (R102), with the tag of the order
whose start or act brought the first change of its ports (R103, log 13). -/
structure LateTest where
  slot      : SlotId
  broughtBy : Option Word16
deriving DecidableEq, Repr
/-- Since when each debounced input of a slot has stood at its raw level, or since the last reset, when
that is later (R3, R4, R197). -/
structure InputTimes where
  long   : Time
  short  : Time
  handle : Time
deriving DecidableEq, Repr

/-- The same for every slot and for the two feeds (R76). -/
structure DebounceTimes where
  slots : Vector InputTimes 16
  feedA : Time
  feedB : Time
deriving DecidableEq, Repr

/-- Every debounce runs from one time: that of a reset (R76, R191, R197). -/
def DebounceTimes.all (t : Time) : DebounceTimes := ⟨Vector.replicate 16 ⟨t, t, t⟩, t, t⟩

/-! ### The state -/

/-- The state of the part. -/
structure State where
  /-- commands waiting, first in, first out -/
  pending : List Instr
  /-- shelf time (R190) -/
  time : Time
  /-- the RESET line is taken as asserted (R193) -/
  held : Bool
  /-- since when the RESET line is asserted without a break; none while it is released (R193) -/
  resetLine : Option Time
  /-- the straps as sampled (R189) -/
  straps : Straps
  /-- raw input levels of each slot (R3, R4, R87, R138) -/
  pins : Vector SlotPins 16
  /-- measured feed levels, true is below the threshold (R76) -/
  feedALow : Bool
  feedBLow : Bool
  /-- from when the debounce of each raw input runs (R3, R4, R76, R191, R197) -/
  debounceFrom : DebounceTimes
  /-- Management Port -/
  port : MgmtPort
  /-- state fields of the order cells (R33) -/
  cells : Vector CellState 32
  /-- bytes of the order cell bodies, by Shelf Area offset (R176) -/
  mem : List Host.Cell
  /-- shelf revision (R183) -/
  shelfRevision : Word16
  /-- the intake's pointer (R36) -/
  pointer : CellId
  /-- slot sequencers -/
  slots : Vector Slot 16
  /-- Power Allocator -/
  alloc : Allocator
  /-- Payload Power Control: each slot, the settings (R80) and the ramp history (R82) -/
  power    : Vector Power 16
  settings : Settings
  history  : List Time
  /-- Fabric Coordinator: the Port Map in the order of R99 -/
  ports : Vector Port 28
  /-- Slot Link Engines -/
  engines : Vector Engine 16
  /-- Journal Writer -/
  journal : Journal
  /-- the model's own: work of the event being taken, slots whose join and leave tests are due at
  its end (R102), and whether it has written the shelf record (log 3, log 7) -/
  work       : List Work
  late       : List LateTest
  shelfDirty : Bool
  /-- the model's own: the slots of whose records a field has changed in the event being taken (R2,
  log 6), and the tag of the order whose start or act brought what is done now (R103, log 13) -/
  changed   : List SlotId
  broughtBy : Option Word16
deriving DecidableEq, Repr

/-- Why the machine stops with a fault: never. The part has no machine fault; a slot's fault (R19)
and a refused host write (R177) are next states. No constructor, so nothing raises it (safe). -/
inductive Fault where
deriving DecidableEq, Repr

/-- Why a command has no meaning. -/
inductive Refusal where
  /-- raised by `exec` for a command with no meaning yet; none is left (safe) -/
  | notModelled (mnemonic : String)
deriving DecidableEq, Repr

/-! ### Power-on reset -/

/-- The capacity a BUDGET-CODE strap selects (R60, R189). -/
def budgetOf (code : BitVec 2) : Nat := 800 * (code.toNat + 1)

/-- A slot sequencer after the initialization of R190. The first samples of R191 are its debounced
levels, unless the RESET line holds the part (R193, log 20). -/
def Slot.powerOn (straps : Straps) (hold : Bool) (pins : SlotPins) : Slot where
  state := .vacant
  prev := .vacant
  entry := 0
  gen := 1
  upd := 0
  long := pins.long && !hold
  short := pins.short && !hold
  handleOpen := pins.handleOpen && !hold
  latch := false
  hold := false
  policy := ⟨straps.handleDefault, straps.faultDefault, false⟩
  idStatus := .none
  idReason := .none
  ident := Identity.zero
  claim := 0
  waitReason := none
  queuePos := 0
  fault := none
  faultTime := 0
  lastAgent := none
  lastCause := 0
  agentFault := false
  nextRow := 0
  nextSeq := 0
  lastStamp := none
  admissions := 0
  minutes := 0
  orders := []
  active := false
  retire := none
  survey := none
  read := none
  stamp := none
  settle := none
  boot := none
  quiesce := none
  blink := none

/-- The Power Allocator at power-on reset (R60, R63, R67, R73, R74, R76). -/
def Allocator.powerOn (straps : Straps) : Allocator where
  capacity := budgetOf straps.budgetCode
  hubReserve := 0
  granted := 0
  claims := Vector.replicate 16 0
  queue := []
  reexam := none
  shelf := []
  ramping := []
  feedALost := false
  feedBLost := false

/-- The state after power-on reset has initialized every block (R190), before a first sample has
brought a presence arrival (R191). -/
def State.powerOn (board : BoardInputs) : State where
  pending := []
  time := 0
  held := board.resetAsserted
  resetLine := if board.resetAsserted then some 0 else none
  straps := board.straps
  pins := board.slots
  feedALow := board.feedALow
  feedBLow := board.feedBLow
  debounceFrom := DebounceTimes.all 0
  port := ⟨false, false, 0, 0, .powerOn, board.messageEnable, 0⟩
  cells := Vector.replicate 32 .free
  mem := []
  shelfRevision := 0
  pointer := 0
  slots := board.slots.map (Slot.powerOn board.straps board.resetAsserted)
  alloc := Allocator.powerOn board.straps
  power := Vector.replicate 16 Power.powerOn
  settings := Settings.powerOn
  history := []
  ports := Vector.replicate 28 Port.powerOn
  engines := Vector.replicate 16 Engine.powerOn
  journal := Journal.powerOn
  work := []
  late := []
  shelfDirty := false
  changed := []
  broughtBy := none

/-- DESIGN CHOICE (log 5): the board of `State.reset`: an empty shelf with every strap at 0, both
feeds good, the RESET line released and messages not enabled. -/
def BoardInputs.empty : BoardInputs where
  straps := ⟨0, 0, 0, false, .notify, .cut⟩
  slots := Vector.replicate 16 ⟨false, false, false, false, false⟩
  feedALow := false
  feedBLow := false
  resetAsserted := false
  messageEnable := false

/-- The machine right after power-on reset (R190). -/
def State.reset : State := State.powerOn BoardInputs.empty

end Sys2Proof.Machine
end

