-- ==== Sys2Proof/WellFormed.lean ====
section
/-! DEFINITION. Which commands are well-formed: the checks on operands whose types do not already
say them. Every constructor is named. -/

namespace Sys2Proof

/-- The offset of cell c in the window: 0x0400 plus 128 times c (R176). -/
def cellOffset (c : CellId) : Nat := 0x0400 + 128 * c.val

/-- The addresses in the window of the words a command writes, for the commands that are host writes:
first the word its row names, then the other words of its request (R175, R176, R188). -/
def Instr.hostAddresses : Instr → List Nat
  | .restart => [0x4000]
  | .cellPost c => [cellOffset c]
  | .cellWithdraw c => [cellOffset c]
  | .cellReturn c => [cellOffset c]
  | .cellBodyWrite c w _ more => (cellOffset c + 4 * w) :: more.map (·.addr)
  | .readCountWrite _ more => 0x0104 :: more.map (·.addr)
  | .shelfAreaWriteRefused a _ more => a :: more.map (·.addr)
  | .runSet _ => [0x4000]
  | .runClear _ => [0x4000]
  | .noticeEnableWrite _ => [0x4000]
  | .attentionClear _ more => 0x4008 :: more.map (·.addr)
  | .attentionEnableWrite _ more => 0x400C :: more.map (·.addr)
  | .registerWriteRefused a _ more => a :: more.map (·.addr)
  | .powerOnReset _ => []
  | .resetLineAssert => []
  | .resetLineRelease => []
  | .messageEnableChange _ => []
  | .admitBlade => []
  | .retire => []
  | .survey => []
  | .readIdentity => []
  | .clearFault => []
  | .cut => []
  | .cancel => []
  | .hold => []
  | .unhold => []
  | .setPolicy => []
  | .setBudget => []
  | .setTiming => []
  | .badKindTake => []
  | .contactDebounce _ _ _ => []
  | .handleDebounce _ _ => []
  | .settleExpiry _ => []
  | .waitDeadlineExpiry _ => []
  | .reexaminationExpiry => []
  | .feedDebounce _ _ => []
  | .powerGood _ => []
  | .rampLimitExpiry _ => []
  | .trip _ => []
  | .powerGoodLoss _ => []
  | .resetHoldExpiry _ => []
  | .deferralExpiry _ => []
  | .minuteExpiry _ => []
  | .horizonExpiry _ _ => []
  | .historyEntryAge => []
  | .bootLimitExpiry _ => []
  | .quiesceDeadlineExpiry _ => []
  | .offerDeadlineExpiry _ => []
  | .drainDeadlineExpiry _ => []
  | .frameArrival _ _ => []
  | .replyDeadlineExpiry _ => []
  | .notBeforeExpiry _ => []
  | .pollDeadlineExpiry _ => []
  | .alert _ _ => []
  | .recoveryDeadlineExpiry _ => []
  | .probePauseExpiry _ => []
  | .programLimitExpiry _ => []
  | .indicatorBlinkPhase _ => []

/-- The words of a request are a run of 32-bit words of the window: they are distinct, each is at a
multiple of four below 0x8000, and no two of n words are n words apart or more (R175). -/
def isRun (addrs : List Nat) : Bool :=
  decide addrs.Nodup && addrs.all fun a =>
    decide (a % 4 = 0) && decide (a < 0x8000) && addrs.all fun b => decide (a < b + 4 * addrs.length)

/-- The operands of a row are well-formed: a body word is one of words 1 to 31 of its cell (R176), a host
write into the Shelf Area names a word of it (R177), a write to the register side that is refused names
STATUS, SHELF-TIME or a word beyond the registers (R188), and a frame has at least its check byte
(06_slot_links.md, Frames). -/
def Instr.operandsWellFormed : Instr → Bool
  | .cellBodyWrite _ w _ _ => decide (1 ≤ w) && decide (w ≤ 31)
  | .shelfAreaWriteRefused a _ _ => decide (a % 4 = 0) && decide (a < 0x4000)
  | .registerWriteRefused a _ _ =>
    decide (a % 4 = 0) && (decide (a = 0x4004) || decide (a = 0x4010)
      || (decide (0x4014 ≤ a) && decide (a < 0x8000)))
  | .frameArrival _ frame => !frame.isEmpty
  | .powerOnReset _ => true
  | .resetLineAssert => true
  | .resetLineRelease => true
  | .restart => true
  | .cellPost _ => true
  | .cellWithdraw _ => true
  | .cellReturn _ => true
  | .readCountWrite _ _ => true
  | .runSet _ => true
  | .runClear _ => true
  | .noticeEnableWrite _ => true
  | .attentionClear _ _ => true
  | .attentionEnableWrite _ _ => true
  | .messageEnableChange _ => true
  | .admitBlade => true
  | .retire => true
  | .survey => true
  | .readIdentity => true
  | .clearFault => true
  | .cut => true
  | .cancel => true
  | .hold => true
  | .unhold => true
  | .setPolicy => true
  | .setBudget => true
  | .setTiming => true
  | .badKindTake => true
  | .contactDebounce _ _ _ => true
  | .handleDebounce _ _ => true
  | .settleExpiry _ => true
  | .waitDeadlineExpiry _ => true
  | .reexaminationExpiry => true
  | .feedDebounce _ _ => true
  | .powerGood _ => true
  | .rampLimitExpiry _ => true
  | .trip _ => true
  | .powerGoodLoss _ => true
  | .resetHoldExpiry _ => true
  | .deferralExpiry _ => true
  | .minuteExpiry _ => true
  | .horizonExpiry _ _ => true
  | .historyEntryAge => true
  | .bootLimitExpiry _ => true
  | .quiesceDeadlineExpiry _ => true
  | .offerDeadlineExpiry _ => true
  | .drainDeadlineExpiry _ => true
  | .replyDeadlineExpiry _ => true
  | .notBeforeExpiry _ => true
  | .pollDeadlineExpiry _ => true
  | .alert _ _ => true
  | .recoveryDeadlineExpiry _ => true
  | .probePauseExpiry _ => true
  | .programLimitExpiry _ => true
  | .indicatorBlinkPhase _ => true

/-- A command is well-formed: its row's operands are, and the words of a host write are a run of words
of the window (R175). -/
def Instr.wellFormed (i : Instr) : Bool := isRun i.hostAddresses && i.operandsWellFormed

end Sys2Proof
end

