-- ==== Sys2Proof/Machine/Ops.lean ====
section
/-! DEFINITION. The named operations every block uses: shelf time, the Shelf Area bytes, access to
slots, ports and engines, the classes of the slot states, and the work list of an event. -/

namespace Sys2Proof.Machine

/-! ### Shelf time -/

/-- The shelf time `ms` milliseconds after `t` (00_scope.md, Conventions: modulo 2^32). -/
def after (t : Time) (ms : Nat) : Time := t + BitVec.ofNat 32 ms

/-- Deadline `d` has passed at shelf time `now`: `now` is `d` or later, modulo 2^32 (DEDUCED from
the worked sequences, where an expiry is taken at the deadline's own millisecond; log 16). -/
def reached (now d : Time) : Bool := decide ((now - d).toNat < 2147483648)

/-- A deadline is present and has passed. -/
def due (now : Time) : Option Time → Bool
  | some d => reached now d
  | none => false

/-! ### Bytes of the order cells -/

/-- The byte at an offset; an unlisted byte is 0, as power-on reset clears the Shelf Area (R190). -/
def Memory.read : List Host.Cell → Nat → Byte
  | [], _ => 0
  | (x, y) :: m, a => if x = a then y else Memory.read m a

/-- The cell for byte `b` at offset `a`, in front of `m`; a zero byte is not listed. -/
def Memory.cons (a : Nat) (b : Byte) (m : List Host.Cell) : List Host.Cell :=
  if b = 0 then m else (a, b) :: m

/-- Store a byte, keeping the list in canonical form. -/
def Memory.write : List Host.Cell → Nat → Byte → List Host.Cell
  | [], a, b => Memory.cons a b []
  | (x, y) :: m, a, b =>
    if a < x then Memory.cons a b ((x, y) :: m)
    else if a = x then Memory.cons a b m
    else (x, y) :: Memory.write m a b

/-- Store bytes at rising offsets from `a`. -/
def Memory.writeList : List Host.Cell → Nat → List Byte → List Host.Cell
  | m, _, [] => m
  | m, a, b :: bs => Memory.writeList (Memory.write m a b) (a + 1) bs

/-- The canonical form: offsets strictly rising, no zero byte listed. -/
def Memory.wf : List Host.Cell → Bool
  | [] => true
  | [(_, y)] => decide (y ≠ 0)
  | (x, y) :: (x', y') :: m => decide (y ≠ 0) && decide (x < x') && Memory.wf ((x', y') :: m)

/-! ### Byte order -/

/-- Two bytes, least significant first (00_scope.md, Numbers and bytes). -/
def le16 (w : Word16) : List Byte := [w.setWidth 8, (w >>> 8).setWidth 8]

/-- Four bytes, least significant first. -/
def le32 (w : Word) : List Byte :=
  [w.setWidth 8, (w >>> 8).setWidth 8, (w >>> 16).setWidth 8, (w >>> 24).setWidth 8]

/-- The 16-bit field of two bytes, least significant first. -/
def ofBytes16 (b0 b1 : Byte) : Word16 := b0.setWidth 16 ||| (b1.setWidth 16 <<< 8)

/-- The 32-bit field of four bytes, least significant first. -/
def ofBytes32 (b0 b1 b2 b3 : Byte) : Word :=
  b0.setWidth 32 ||| (b1.setWidth 32 <<< 8) ||| (b2.setWidth 32 <<< 16) ||| (b3.setWidth 32 <<< 24)

/-- The sum of bytes modulo 256 (R204). -/
def byteSum (bs : List Byte) : Byte := bs.foldl (· + ·) 0

/-- The check byte that makes the sum of all bytes 0 modulo 256 (R204). -/
def checkByte (bs : List Byte) : Byte := 0 - byteSum bs

/-- Byte `k` of a list, 0 past its end. -/
def byteAt (bs : List Byte) (k : Nat) : Byte := bs.getD k 0

/-! ### Slots and ports -/

/-- The sixteen slots, ascending. -/
def allSlots : List SlotId := [0, 1, 2, 3, 4, 5, 6, 7, 8, 9, 10, 11, 12, 13, 14, 15]

/-- The fourteen node slots, ascending. -/
def allNodes : List NodeId := [0, 1, 2, 3, 4, 5, 6, 7, 8, 9, 10, 11, 12, 13]

/-- The 28 ports in the order of R99: by node, then hub. -/
def allPorts : List PortId := allNodes.flatMap fun n => [⟨n, 0⟩, ⟨n, 1⟩]

/-- Slots 15 and 16 are hub slots (00_scope.md). -/
def isHub (i : SlotId) : Bool := decide (14 ≤ i.val)

/-- The node slot of a port. -/
def nodeSlot (p : PortId) : SlotId := ⟨p.node.val, by have := p.node.isLt; omega⟩

/-- The hub slot of a port. -/
def hubSlot (p : PortId) : SlotId := ⟨14 + p.hub.val, by have := p.hub.isLt; omega⟩

/-- Where a port's entry stands in the Port Map (R99). -/
def portIndex (p : PortId) : Fin 28 :=
  ⟨2 * p.node.val + p.hub.val, by have := p.node.isLt; have := p.hub.isLt; omega⟩

/-- The ports of a slot, in ascending order of node and then hub: a node's two, a hub's fourteen. -/
def slotPorts (i : SlotId) : List PortId :=
  if h : i.val < 14 then [⟨⟨i.val, h⟩, 0⟩, ⟨⟨i.val, h⟩, 1⟩]
  else allNodes.map fun n => ⟨n, if i.val = 14 then 0 else 1⟩

/-- The other hub slot of a hub slot. -/
def otherHub (i : SlotId) : SlotId := if i.val = 14 then 15 else 14

/-- A slot number as the manual writes it, 1 to 16. -/
def slotByte (i : SlotId) : Byte := BitVec.ofNat 8 (i.val + 1)

/-! ### Access to the state -/

/-- The sequencer of a slot. -/
def State.slot (s : State) (i : SlotId) : Slot := s.slots[i]

/-- Change the sequencer of a slot. -/
def State.modSlot (i : SlotId) (f : Slot → Slot) (s : State) : State :=
  { s with slots := s.slots.set i (f (s.slot i)) }

/-- Payload Power Control's state of a slot. -/
def State.pwr (s : State) (i : SlotId) : Power := s.power[i]

/-- Change Payload Power Control's state of a slot. -/
def State.modPower (i : SlotId) (f : Power → Power) (s : State) : State :=
  { s with power := s.power.set i (f (s.pwr i)) }

/-- The link engine of a slot. -/
def State.engine (s : State) (i : SlotId) : Engine := s.engines[i]

/-- Change the link engine of a slot. -/
def State.modEngine (i : SlotId) (f : Engine → Engine) (s : State) : State :=
  { s with engines := s.engines.set i (f (s.engine i)) }

/-- The Port Map entry of a port. -/
def State.portOf (s : State) (p : PortId) : Port := s.ports[portIndex p]

/-- The raw inputs of a slot. -/
def State.pinsOf (s : State) (i : SlotId) : SlotPins := s.pins[i]

/-- Change the raw inputs of a slot. -/
def State.modPins (i : SlotId) (f : SlotPins → SlotPins) (s : State) : State :=
  { s with pins := s.pins.set i (f (s.pinsOf i)) }

/-- Since when the debounced inputs of a slot have stood at their raw levels. -/
def State.timesOf (s : State) (i : SlotId) : InputTimes := s.debounceFrom.slots[i]

/-- Change since when the debounced inputs of a slot have stood at their raw levels. -/
def State.modTimes (i : SlotId) (f : InputTimes → InputTimes) (s : State) : State :=
  { s with debounceFrom := { s.debounceFrom with
      slots := s.debounceFrom.slots.set i (f (s.timesOf i)) } }

/-- The state field of an order cell. -/
def State.cell (s : State) (c : CellId) : CellState := s.cells[c]

/-- Write the state field of an order cell. -/
def State.setCell (c : CellId) (x : CellState) (s : State) : State :=
  { s with cells := s.cells.set c x }

/-- Change the allocator. -/
def State.modAlloc (f : Allocator → Allocator) (s : State) : State := { s with alloc := f s.alloc }

/-- Mark that this event writes the shelf record (R79, R183; log 7). -/
def State.touchShelf (s : State) : State := { s with shelfDirty := true }

/-! ### Work of an event -/

/-- Bring follow-up work to another block, after the work this block does now (log 3); it is brought by
the order that brought this (log 13). -/
def State.raise (js : List Job) (s : State) : State :=
  { s with work := s.work ++ js.map fun j => ⟨j, s.broughtBy⟩ }

/-- Have a slot's join-done and leave-done tests made at the end of the event (R102). -/
def State.testLate (i : SlotId) (s : State) : State :=
  { s with late :=
      if s.late.any fun t => decide (t.slot = i) then s.late else s.late ++ [⟨i, s.broughtBy⟩] }

/-- Change a port; the tests of both its slots follow at the end of the event (R102), the node's, with
the work it brings, before the hub's when both are first brought here (log 47). -/
def State.modPort (p : PortId) (f : Port → Port) (s : State) : State :=
  (({ s with ports := s.ports.set (portIndex p) (f (s.portOf p)) }).testLate (nodeSlot p)).testLate
    (hubSlot p)

/-! ### Classes of slot states -/

/-- The settled states (R13). -/
def SlotState.settled : SlotState → Bool
  | .parked | .inService | .faulted => true
  | .vacant | .seating | .surveying | .awaitPower | .ramping | .booting | .joining | .leaving
  | .quiescing | .stamping | .poweringOff | .resuming => false

/-- The payload-on states (01_slots.md, The fifteen states). -/
def SlotState.payloadOn : SlotState → Bool
  | .ramping | .booting | .joining | .inService | .leaving | .quiescing | .stamping | .poweringOff
  | .resuming => true
  | .vacant | .seating | .surveying | .parked | .awaitPower | .faulted => false

/-- JOINING or IN-SERVICE, the states in which a slot's ports are offered (R104). -/
def SlotState.offering : SlotState → Bool
  | .joining | .inService => true
  | .vacant | .seating | .surveying | .parked | .awaitPower | .ramping | .booting | .leaving
  | .quiescing | .stamping | .poweringOff | .faulted | .resuming => false

/-- The states with a BLINK indicator (R31). -/
def SlotState.blinking : SlotState → Bool
  | .leaving | .quiescing | .stamping | .poweringOff => true
  | .vacant | .seating | .surveying | .parked | .awaitPower | .ramping | .booting | .joining
  | .inService | .faulted | .resuming => false

/-- The states on whose entry the handle request latch is cleared (R27). -/
def SlotState.clearsLatch : SlotState → Bool
  | .parked | .faulted | .vacant => true
  | .seating | .surveying | .awaitPower | .ramping | .booting | .joining | .inService | .leaving
  | .quiescing | .stamping | .poweringOff | .resuming => false

/-- The poll interval of a state in milliseconds, if it is polled (R139). -/
def SlotState.pollInterval : SlotState → Option Nat
  | .booting | .quiescing => some 500
  | .parked | .joining | .inService | .leaving => some 5000
  | .vacant | .seating | .surveying | .awaitPower | .ramping | .stamping | .poweringOff | .faulted
  | .resuming => none

/-- The generation after `g`: 65535 is followed by 1 (R1). -/
def nextGeneration (g : Word16) : Word16 := if g = 65535 then 1 else g + 1

/-- A count that holds at `m` (R8, R96, R99). -/
def countUpTo (m n : Nat) : Nat := min m (n + 1)

/-- A port's two slots are both JOINING or IN-SERVICE (R104, R108). -/
def State.bothOffering (s : State) (p : PortId) : Bool :=
  (s.slot (nodeSlot p)).state.offering && (s.slot (hubSlot p)).state.offering

/-- A slot's link is UP (R125). -/
def State.linkUp (s : State) (i : SlotId) : Bool := decide ((s.engine i).link = .up)

end Sys2Proof.Machine
end

