-- ==== Sys2Proof/Machine/Operands.lean ====
section
/-! DEFINITION. What the part reads from outside and how: the code values of 11_formats.md, the
fields and parameters of an order cell, the identity page and the service rows, and request and
reply frames. -/

namespace Sys2Proof.Machine

/-! ### Code values (11_formats.md, Code values) -/

def CellState.code : CellState → Byte
  | .free => 0 | .posted => 1 | .taken => 2 | .finished => 3 | .refused => 4

def SlotState.code : SlotState → Byte
  | .vacant => 0 | .seating => 1 | .surveying => 2 | .parked => 3 | .awaitPower => 4
  | .ramping => 5 | .booting => 6 | .joining => 7 | .inService => 8 | .leaving => 9
  | .quiescing => 10 | .stamping => 11 | .poweringOff => 12 | .faulted => 13 | .resuming => 14

/-- A state field that may be NONE, 0xFF (R203). -/
def stateByte : Option SlotState → Byte
  | some x => x.code
  | none => 0xFF

def OrderKind.code : OrderKind → Byte
  | .admitBlade => 1 | .retire => 2 | .survey => 3 | .readIdentity => 4 | .clearFault => 5 | .cut => 6
  | .cancel => 7 | .hold => 8 | .unhold => 9 | .setPolicy => 10 | .setBudget => 11
  | .setTiming => 12

/-- The order kind of a kind byte; a byte that matches no code is no kind (R203). -/
def OrderKind.ofCode (b : Byte) : Option OrderKind :=
  match b.toNat with
  | 1 => some .admitBlade
  | 2 => some .retire
  | 3 => some .survey
  | 4 => some .readIdentity
  | 5 => some .clearFault
  | 6 => some .cut
  | 7 => some .cancel
  | 8 => some .hold
  | 9 => some .unhold
  | 10 => some .setPolicy
  | 11 => some .setBudget
  | 12 => some .setTiming
  | _ => none

def OrderOutcome.code : OrderOutcome → Byte
  | .done => 1 | .cancelled => 2 | .overtaken => 3 | .slotVacated => 4 | .powerTimeout => 5
  | .rampFault => 6 | .bootTimeout => 7 | .bladeFault => 8 | .linkLost => 9 | .drainTimeout => 10
  | .overCommitted => 11 | .abandoned => 12 | .nothing => 13

def OrderRefusal.code : OrderRefusal → Byte
  | .badKind => 0x81 | .badSlot => 0x82 | .badParam => 0x83 | .slotEmpty => 0x84
  | .listFull => 0x85 | .stale => 0x86 | .wrongState => 0x87 | .identityInvalid => 0x88
  | .kindMismatch => 0x89 | .lastHub => 0x8A

def Presence.code : Presence → Byte
  | .none => 0 | .longOnly => 1 | .both => 2

def IdStatus.code : IdStatus → Byte
  | .none => 0 | .valid => 1 | .invalid => 2

def IdReason.code : IdReason → Byte
  | .none => 0 | .link => 1 | .check => 2 | .format => 3 | .range => 4 | .kind => 5

/-- A wait reason field, NONE 0. -/
def waitByte : Option WaitReason → Byte
  | none => 0
  | some .budget => 1
  | some .feed => 2
  | some .cooling => 3
  | some .pacing => 4
  | some .setting => 5
  | some .behind => 6

def FaultCause.code : FaultCause → Byte
  | .rampSlow => 1 | .rampTrip => 2 | .overcurrent => 3 | .powerLost => 4 | .bootTimeout => 5
  | .agentFault => 6 | .linkLost => 7

/-- A fault field, NONE 0. -/
def faultByte : Option FaultCause → Byte
  | some x => x.code
  | none => 0

def LinkState.code : LinkState → Byte
  | .absent => 0 | .up => 1 | .lost => 2

def AgentState.code : AgentState → Byte
  | .standby => 1 | .booting => 2 | .ready => 3 | .draining => 4 | .drained => 5 | .fault => 6
  | .programming => 7

/-- The agent state of a code, for the fifth reply test (R127). -/
def AgentState.ofCode (b : Byte) : Option AgentState :=
  match b.toNat with
  | 1 => some .standby
  | 2 => some .booting
  | 3 => some .ready
  | 4 => some .draining
  | 5 => some .drained
  | 6 => some .fault
  | 7 => some .programming
  | _ => none

/-- A last agent state field, NONE 0. -/
def agentByte : Option AgentState → Byte
  | some x => x.code
  | none => 0

def PortState.code : PortState → Byte
  | .isolated => 0 | .offered => 1 | .opening => 2 | .opened => 3 | .closing => 4
  | .withdrawing => 5

def StampResult.code : StampResult → Byte
  | .written => 1 | .failed => 2 | .skipped => 3

/-- A last stamp result field, NONE 0. -/
def stampByte : Option StampResult → Byte
  | some x => x.code
  | none => 0

def Answer.code : Answer → Byte
  | .ok => 1 | .busy => 2 | .noLoad => 3 | .pending => 4 | .accept => 5 | .refuse => 6
  | .later => 7 | .clear => 8 | .report => 9

/-- The answer of an answer code. -/
def Answer.ofCode (b : Byte) : Option Answer :=
  match b.toNat with
  | 1 => some .ok
  | 2 => some .busy
  | 3 => some .noLoad
  | 4 => some .pending
  | 5 => some .accept
  | 6 => some .refuse
  | 7 => some .later
  | 8 => some .clear
  | 9 => some .report
  | _ => none

def StateDetail.code : StateDetail → Byte
  | .seated => 1 | .settled => 2 | .surveyed => 3 | .removed => 4 | .order => 5 | .granted => 6
  | .waitLimit => 7 | .powerGood => 8 | .ready => 9 | .joined => 10 | .handle => 11
  | .isolated => 12 | .drainAbort => 13 | .drained => 14 | .quiesceLimit => 15 | .stamped => 16
  | .poweredOff => 17 | .fault => 18 | .restart => 19

def PortDetail.code : PortDetail → Byte
  | .refused => 1 | .offerTimeout => 2 | .drainTimeout => 3 | .abrupt => 4 | .link => 5

def HandleDetail.code : HandleDetail → Byte
  | .opened => 1 | .retracted => 2 | .closed => 3

def ResumedDetail.code : ResumedDetail → Byte
  | .powerLost => 1 | .service => 2 | .booting => 3 | .agentFault => 4 | .linkLost => 5

def ResetCause.code : ResetCause → BitVec 2
  | .powerOn => 1 | .resetLine => 2 | .restartBit => 3

/-- A flag written as a byte, 0 or 1. -/
def flagByte (b : Bool) : Byte := if b then 1 else 0

/-! ### Fields of an order cell (R34, 11 The order cell) -/

/-- A byte of a cell. -/
def State.rd8 (s : State) (c : CellId) (off : Nat) : Byte := Memory.read s.mem (cellOffset c + off)

/-- A two-byte field of a cell. -/
def State.rd16 (s : State) (c : CellId) (off : Nat) : Word16 :=
  ofBytes16 (s.rd8 c off) (s.rd8 c (off + 1))

/-- A four-byte field of a cell. -/
def State.rd32 (s : State) (c : CellId) (off : Nat) : Word :=
  ofBytes32 (s.rd8 c off) (s.rd8 c (off + 1)) (s.rd8 c (off + 2)) (s.rd8 c (off + 3))

/-- The kind of a cell, none when its byte matches no kind. -/
def State.cellKind (s : State) (c : CellId) : Option OrderKind := OrderKind.ofCode (s.rd8 c 0x04)

/-- The slot a slot field of 1 to 16 names. -/
def slotOfByte (b : Byte) : Option SlotId :=
  if h : 1 ≤ b.toNat ∧ b.toNat ≤ 16 then some ⟨b.toNat - 1, by omega⟩ else none

/-- The slot a cell names, none outside 1 to 16. -/
def State.cellSlot (s : State) (c : CellId) : Option SlotId := slotOfByte (s.rd8 c 0x05)

/-- The order tag of a cell. -/
def State.cellTag (s : State) (c : CellId) : Word16 := s.rd16 c 0x06

/-- The condition generation of a cell. -/
def State.cellCondition (s : State) (c : CellId) : Word16 := s.rd16 c 0x08

/-- The condition matches a generation: it is 0 or equal to it (R34). -/
def conditionMatches (condition gen : Word16) : Bool := decide (condition = 0 ∨ condition = gen)

def State.cellForce (s : State) (c : CellId) : Bool := (s.rd8 c 0x0A).getLsbD 0
def State.cellGentle (s : State) (c : CellId) : Bool := (s.rd8 c 0x0A).getLsbD 1
def State.cellStamp (s : State) (c : CellId) : Bool := (s.rd8 c 0x0A).getLsbD 2

/-! ### Parameters of each kind -/

def State.admitUrgency (s : State) (c : CellId) : Nat := (s.rd8 c 0x0C).toNat
def State.admitWaitLimit (s : State) (c : CellId) : Nat := (s.rd16 c 0x0E).toNat
def State.admitBootLimit (s : State) (c : CellId) : Nat := (s.rd8 c 0x10).toNat
def State.retireReason (s : State) (c : CellId) : Byte := s.rd8 c 0x0C
def State.readFirst (s : State) (c : CellId) : Nat := (s.rd8 c 0x0C).toNat
def State.readCountParam (s : State) (c : CellId) : Nat := (s.rd8 c 0x0D).toNat
def State.budgetCapacity (s : State) (c : CellId) : Nat := (s.rd16 c 0x0C).toNat
def State.budgetReserve (s : State) (c : CellId) : Nat := (s.rd16 c 0x0E).toNat

/-- The policy a SET-POLICY carries, its bytes having been checked. -/
def State.policyParam (s : State) (c : CellId) : Policy where
  handle := if s.rd8 c 0x0C = 1 then .selfRetire else .notify
  fault := if s.rd8 c 0x0D = 1 then .notify else .cut
  stampOnHandle := decide (s.rd8 c 0x0E = 1)

/-- The settings a SET-TIMING carries. -/
def State.settingsParam (s : State) (c : CellId) : Settings where
  rampGap := (s.rd16 c 0x0C).toNat
  rampWindow := (s.rd16 c 0x0E).toNat
  minOn := (s.rd16 c 0x10).toNat
  minOff := (s.rd16 c 0x12).toNat
  drainLimit := (s.rd16 c 0x14).toNat
  quiesceLimit := (s.rd32 c 0x16).toNat
  windowLimit := (s.rd8 c 0x1A).toNat

/-- `n` lies between `lo` and `hi`. -/
def inRange (lo hi n : Nat) : Bool := decide (lo ≤ n) && decide (n ≤ hi)

/-- The seven settings are within the ranges of R80. -/
def Settings.inRange (t : Settings) : Bool :=
  Machine.inRange 10 1000 t.rampGap && Machine.inRange 100 5000 t.rampWindow
    && Machine.inRange 1 4 t.windowLimit && Machine.inRange 0 60000 t.minOn
    && Machine.inRange 0 60000 t.minOff && Machine.inRange 500 60000 t.drainLimit
    && Machine.inRange 1000 120000 t.quiesceLimit

/-- Every parameter of the kind is in its range (R38 step 3, R203). -/
def State.paramsInRange (s : State) (c : CellId) : OrderKind → Bool
  | .admitBlade => inRange 0 3 (s.admitUrgency c) && inRange 0 3600 (s.admitWaitLimit c)
      && inRange 0 255 (s.admitBootLimit c)
  | .retire => inRange 0 239 (s.retireReason c).toNat
  | .readIdentity => inRange 0 7 (s.readFirst c) && inRange 1 2 (s.readCountParam c)
      && decide (s.readFirst c + s.readCountParam c ≤ 8)
  | .setPolicy => inRange 0 1 (s.rd8 c 0x0C).toNat && inRange 0 1 (s.rd8 c 0x0D).toNat
      && inRange 0 1 (s.rd8 c 0x0E).toNat
  | .setBudget => inRange 0 6000 (s.budgetCapacity c) && inRange 0 6000 (s.budgetReserve c)
      && decide (s.budgetReserve c ≤ s.budgetCapacity c)
  | .setTiming => (s.settingsParam c).inRange
  | .survey => true
  | .clearFault => true
  | .cut => true
  | .cancel => true
  | .hold => true
  | .unhold => true

/-- The three classes of order kinds (02_orders.md). -/
inductive OrderClass where
  | slotQueued | immediate | shelfQueued
deriving DecidableEq, Repr

def OrderKind.orderClass : OrderKind → OrderClass
  | .admitBlade | .retire | .survey | .readIdentity | .clearFault => .slotQueued
  | .cut | .cancel | .hold | .unhold | .setPolicy => .immediate
  | .setBudget | .setTiming => .shelfQueued

/-- The states in which an order of a kind may act (R48 to R56). -/
def OrderKind.allows : OrderKind → SlotState → Bool
  | .admitBlade, st => decide (st = .parked)
  | .retire, st => decide (st = .inService)
  | .survey, st => decide (st = .parked)
  | .readIdentity, st => st.settled
  | .clearFault, st => st.settled
  | .cut, st => decide (st = .awaitPower) || st.payloadOn
  | .cancel, st => decide (st ≠ .vacant)
  | .hold, st => decide (st ≠ .vacant)
  | .unhold, st => decide (st ≠ .vacant)
  | .setPolicy, _ => true
  | .setBudget, _ => true
  | .setTiming, _ => true

/-! ### The identity page and the service rows -/

/-- The identity copy of page 0, as the blade gave it (R149, 11 The identity page). -/
def identityOf (page : List Byte) : Identity where
  format := byteAt page 0x00
  kind := byteAt page 0x01
  vendor := ofBytes16 (byteAt page 0x02) (byteAt page 0x03)
  draw := ofBytes16 (byteAt page 0x04) (byteAt page 0x05)
  inrush := byteAt page 0x06
  bootHint := byteAt page 0x07
  serial := (page.drop 0x08).take 8

/-- The judgement of page 0 (R150); `IdReason.none` is a good page. -/
def judgePage (page : List Byte) : IdReason :=
  if byteSum page ≠ 0 then .check
  else if (identityOf page).format ≠ 1 then .format
  else if (identityOf page).kind ≠ 1 ∧ (identityOf page).kind ≠ 2 then .kind
  else if inRange 1 600 (identityOf page).draw.toNat && inRange 0 3 (identityOf page).inrush.toNat
    then .none
  else .range

/-- The blade kind matches the slot: NODE in slots 1 to 14, HUB in slots 15 and 16 (R48). -/
def kindMatches (i : SlotId) (kind : Byte) : Bool := decide (kind = if isHub i then 2 else 1)

/-- A service row is valid: its sum is 0 and its slot field is 1 to 16 (R153). -/
def rowValid (row : List Byte) : Bool :=
  decide (byteSum row = 0) && inRange 1 16 (byteAt row 2).toNat

/-- The eight rows of pages 6 and 7, row 0 first (R148). -/
def rowsOf (page6 page7 : List Byte) : List (List Byte) :=
  [(page6.drop 0).take 8, (page6.drop 8).take 8, (page6.drop 16).take 8, (page6.drop 24).take 8,
   (page7.drop 0).take 8, (page7.drop 8).take 8, (page7.drop 16).take 8, (page7.drop 24).take 8]

/-- Sequence a is newer than sequence b: a less b, modulo 256, is 1 to 127 (R154). -/
def seqNewer (a b : Byte) : Bool := inRange 1 127 (a - b).toNat

/-- The newest valid row among `rows`, whose first is row `k`, with `best` the candidate so far:
its number and its sequence (R154). -/
def newestRow : Nat → Option (Nat × Byte) → List (List Byte) → Option (Nat × Byte)
  | _, best, [] => best
  | k, best, row :: rows =>
    newestRow (k + 1)
      (if rowValid row then
        match best with
        | none => some (k, byteAt row 0)
        | some (b, q) => if seqNewer (byteAt row 0) q then some (k, byteAt row 0) else some (b, q)
      else best) rows

/-- The service row pointers the rows give: next row and next sequence (R154). -/
def rowPointers (rows : List (List Byte)) : Fin 8 × Byte :=
  match newestRow 0 none rows with
  | none => (0, 1)
  | some (k, q) => (Fin.ofNat 8 (k + 1), q + 1)

/-- The eight bytes of a service row (R153, R204). -/
def serviceRow (seq : Byte) (shelf : BitVec 6) (i : SlotId) (reason : Byte) (minutes admissions : Nat) :
    List Byte :=
  let body := [seq, shelf.setWidth 8, slotByte i, reason] ++ le16 (BitVec.ofNat 16 minutes)
    ++ [BitVec.ofNat 8 admissions]
  body ++ [checkByte body]

/-! ### Messages and frames -/

/-- The sequencer's own requests (R130). -/
def Msg.isOwn : Msg → Bool
  | .identPage _ | .rowLoad _ _ | .rowCommit _ | .quiesce => true
  | .probe | .pathOpen _ | .pathClose _ | .pathLost _ | .admitNode _ | .withdraw _ | .drop _ => false

/-- The notifications (R130, R136). -/
def Msg.isNotification : Msg → Bool
  | .pathLost _ | .drop _ => true
  | .probe | .identPage _ | .rowLoad _ _ | .rowCommit _ | .quiesce | .pathOpen _ | .pathClose _
  | .admitNode _ | .withdraw _ => false

/-- The far slot of a port message, as a slot number (R126). -/
def Msg.far : Msg → Option Nat
  | .pathOpen h | .pathClose h | .pathLost h => some (15 + h.val)
  | .admitNode n | .withdraw n | .drop n => some (n.val + 1)
  | .probe | .identPage _ | .rowLoad _ _ | .rowCommit _ | .quiesce => none

/-- A port handshake message, that is a port message but no notification, for the far slot. -/
def Msg.handshakeFor (far : Option Nat) (m : Msg) : Bool :=
  far.isSome && decide (m.far = far) && !m.isNotification

/-- A notification for the far slot. -/
def Msg.notificationFor (far : Option Nat) (m : Msg) : Bool :=
  far.isSome && decide (m.far = far) && m.isNotification

/-- The message kind code (11 Code values). -/
def Msg.code : Msg → Byte
  | .probe => 1 | .identPage _ => 2 | .rowLoad _ _ => 3 | .rowCommit _ => 4 | .quiesce => 5
  | .pathOpen _ => 6 | .pathClose _ => 7 | .pathLost _ => 8 | .admitNode _ => 9 | .withdraw _ => 10
  | .drop _ => 11

/-- The payload of a request (R126). -/
def Msg.payload : Msg → List Byte
  | .identPage p => [BitVec.ofNat 8 p.val]
  | .rowLoad r bytes => BitVec.ofNat 8 r.val :: bytes
  | .rowCommit r => [BitVec.ofNat 8 r.val]
  | .probe | .quiesce | .pathOpen _ | .pathClose _ | .pathLost _ | .admitNode _ | .withdraw _
  | .drop _ => []

/-- The frame of a request, the same for every attempt of it (R126, 11 Slot link frames). -/
def requestFrame (m : Msg) (seq : BitVec 4) : List Byte :=
  let body := [m.code, seq.setWidth 8, BitVec.ofNat 8 (m.far.getD 0), BitVec.ofNat 8 m.payload.length]
    ++ m.payload
  body ++ [checkByte body]

/-- The answers that count as replies to a message (R130). -/
def Msg.answers : Msg → List Answer
  | .probe => [.report]
  | .identPage _ => [.ok, .busy]
  | .rowLoad _ _ => [.ok, .busy]
  | .rowCommit _ => [.ok, .busy, .noLoad]
  | .quiesce => [.ok]
  | .pathOpen _ => [.ok]
  | .pathClose _ => [.ok, .pending]
  | .admitNode _ => [.accept, .refuse, .later]
  | .withdraw _ => [.clear, .pending]
  | .pathLost _ | .drop _ =>
    [.ok, .busy, .noLoad, .pending, .accept, .refuse, .later, .clear, .report]

/-- The payload length an answer to a message carries (R127, R205). -/
def replyLength (m : Msg) (a : Answer) : Nat :=
  match a, m with
  | .report, _ => 2
  | .ok, .identPage _ => 32
  | _, _ => 0

/-- A reply as delivered. -/
structure Reply where
  answer  : Answer
  payload : List Byte
deriving DecidableEq, Repr

/-- The reply tests (R127, R205): the reply a frame is to the request of message `m` and sequence
`seq`, or none when the frame counts as no reply. -/
def judgeReply (m : Msg) (seq : BitVec 4) (frame : List Byte) : Option Reply :=
  if frame.length < 4 ∨ byteSum frame ≠ 0 then none
  else if byteAt frame 0 ≠ m.code ∨ byteAt frame 1 ≠ seq.setWidth 8 then none
  else match Answer.ofCode (byteAt frame 2) with
    | none => none
    | some a =>
      if a ∈ m.answers ∧ frame.length = 4 + replyLength m a
          ∧ (m = .probe → (AgentState.ofCode (byteAt frame 3)).isSome) then
        some ⟨a, (frame.drop 3).take (replyLength m a)⟩
      else none

end Sys2Proof.Machine
end

