-- ==== Sys2Proof/Machine/Flags.lean ====
section
/-! DEFINITION. The ATTENTION latches, the NOTICE condition and its two forms, STATUS and the
indicator outputs: the flags the part shows outside the Shelf Area. -/

namespace Sys2Proof.Machine

/-- The six ATTENTION bits (R186). -/
inductive Attention where
  | orderDone | journal | journalFull | guard | feed | restarted
deriving DecidableEq, Repr

/-- The mask of an ATTENTION bit (11 Registers). -/
def Attention.mask : Attention → BitVec 6
  | .orderDone => 1 | .journal => 2 | .journalFull => 4 | .guard => 8 | .feed => 16
  | .restarted => 32

/-- The NOTICE condition: NOTICE-ENABLE is set and some bit is set in both ATTENTION and
ATTENTION-ENABLE (R187). -/
def MgmtPort.noticeHolds (p : MgmtPort) : Bool :=
  p.noticeEnable && decide (p.attention &&& p.enable ≠ 0)

/-- The level of the NOTICE pin: asserted while the condition holds, unless messages are enabled
(R187) or the RESET line is asserted (R175, R193). -/
def State.noticePin (s : State) : Bool :=
  s.port.noticeHolds && !s.port.messageEnable && !s.held

/-- Change the Management Port's registers and evaluate the NOTICE condition afresh: in message form
one message is sent when the condition holds and did not hold before (R187). -/
def State.updatePort (f : MgmtPort → MgmtPort) (s : State) : State :=
  let q := f s.port
  let sends := q.noticeHolds && !s.port.noticeHolds && q.messageEnable && !s.held
  { s with port := if sends then { q with messages := q.messages + 1 } else q }

/-- Latch an ATTENTION bit (R186). -/
def State.latch (b : Attention) (s : State) : State :=
  s.updatePort fun p => { p with attention := p.attention ||| b.mask }

/-- STATUS (R185, 11 Registers). -/
def State.status (s : State) : Word :=
  s.port.cause.code.setWidth 32
    ||| ((if s.alloc.feedALost then 1 else 0 : Word) <<< 2)
    ||| ((if s.alloc.feedBLost then 1 else 0 : Word) <<< 3)
    ||| (s.straps.shelfNumber.setWidth 32 <<< 4)
    ||| (s.straps.budgetCode.setWidth 32 <<< 10)
    ||| (s.straps.feedLevel.setWidth 32 <<< 12)
    ||| ((if s.straps.feedHold then 1 else 0 : Word) <<< 14)
    ||| ((if s.straps.handleDefault = .selfRetire then 1 else 0 : Word) <<< 15)
    ||| ((if s.straps.faultDefault = .notify then 1 else 0 : Word) <<< 16)
    ||| (Config.partRevision.setWidth 32 <<< 24)

/-- CONTROL as read: RUN, NOTICE-ENABLE, and RESTART reading 0 (R184). -/
def State.control (s : State) : Word :=
  (if s.port.run then 1 else 0) ||| (if s.port.noticeEnable then 2 else 0)

/-- The ready-to-remove indicator (R31). -/
inductive Indicator where
  | off | on | blink
deriving DecidableEq, Repr

/-- The indicator a slot state asks for (R31). -/
def SlotState.indicator : SlotState → Indicator
  | .parked | .faulted => .on
  | .leaving | .quiescing | .stamping | .poweringOff => .blink
  | .vacant | .seating | .surveying | .awaitPower | .ramping | .booting | .joining | .inService
  | .resuming => .off

/-- The level of the indicator output: lit in ON and in the on phase of BLINK (R31). -/
def State.indicatorLit (s : State) (i : SlotId) : Bool :=
  match (s.slot i).state.indicator with
  | .on => true
  | .off => false
  | .blink => match (s.slot i).blink with
    | some b => b.lit
    | none => false

/-- The level of a port's gate output: its gate latch is open and the switch latches of both its
slots are ON (R85, R100). -/
def State.gateOutput (s : State) (p : PortId) : Bool :=
  (s.portOf p).gate && (s.pwr (nodeSlot p)).switchOn && (s.pwr (hubSlot p)).switchOn

/-- The presence field follows the debounced contacts (R3). -/
def Slot.presence (x : Slot) : Presence :=
  if x.long then (if x.short then .both else .longOnly) else .none

end Sys2Proof.Machine
end

