-- ==== Sys2Proof/Machine/Journal.lean ====
section
/-! DEFINITION. The Journal Writer (08_the_notice_journal.md). -/

namespace Sys2Proof.Machine

/-- The journal is full: the write count less the read count, modulo 65536, is 128 (R163). -/
def Journal.full (j : Journal) : Bool := decide (j.writeCount - j.readCount = 128)

/-- The entry a notice number stands in: the number modulo 128 (R163). -/
def entryOf (n : Word16) : Fin 128 := Fin.ofNat 128 n.toNat

/-- Write a notice: the entry, then the write count, then ATTENTION.JOURNAL (R168). -/
def writeNotice (n : Notice) (s : State) : State :=
  { s with journal := { s.journal with
      entries := s.journal.entries.set (entryOf s.journal.writeCount) (some n)
      writeCount := s.journal.writeCount + 1 } }.latch .journal

/-- The mark of a notice's source in the gap mask (R169): bit 0 the shelf, bit s slot s. -/
def Notice.mark (n : Notice) : BitVec 17 :=
  match n.slot with
  | none => 1
  | some i => 1#17 <<< (i.val + 1)

/-- Fold a notice: mark its source, set gap-pending, latch ATTENTION.JOURNAL-FULL if the journal is
full. A fold that changes the mask or gap-pending writes the shelf record (R169; log 7). -/
def foldNotice (n : Notice) (s : State) : State :=
  let mask := s.journal.gapMask ||| n.mark
  let changes := decide (mask ≠ s.journal.gapMask) || !s.journal.gapPending
  let s1 := { s with
    journal := { s.journal with gapMask := mask, gapPending := true }
    shelfRevision := if changes then s.shelfRevision + 1 else s.shelfRevision }
  if s.journal.full then s1.latch .journalFull else s1

/-- A notice is written when RUN is set, the journal is not full and no gap is pending (R168). -/
def takeNotice (n : Notice) (s : State) : State :=
  if s.port.run && !s.journal.full && !s.journal.gapPending then writeNotice n s
  else foldNotice n s

/-- The GAP notice (R170). -/
def gapNotice (s : State) : Notice where
  body := .gap s.journal.gapMask
  slot := none
  time := s.time
  gen := 0
  state := none
  prev := none
  tag := none

/-- The room test: with a gap pending, RUN set and the journal not full, write the GAP notice and
clear the gap, with one write of the shelf record (R170 steps 1 to 4; log 7). -/
def roomTest (s : State) : State :=
  if s.journal.gapPending && s.port.run && !s.journal.full then
    let s1 := writeNotice (gapNotice s) s
    { s1 with
      journal := { s1.journal with gapMask := 0, gapPending := false }
      shelfRevision := s1.shelfRevision + 1 }
  else s

/-- A block hands a notice to the writer (R168, R169, R170). -/
def handNotice (n : Notice) (s : State) : State := takeNotice n (roomTest s)

/-- A notice of a slot as it stands (R165). -/
def slotNotice (s : State) (i : SlotId) (body : NoticeBody) (tag : Option Word16) : Notice where
  body := body
  slot := some i
  time := s.time
  gen := (s.slot i).gen
  state := some (s.slot i).state
  prev := some (s.slot i).prev
  tag := tag

/-- A shelf notice (R165). -/
def shelfNotice (s : State) (body : NoticeBody) (tag : Option Word16) : Notice where
  body := body
  slot := none
  time := s.time
  gen := 0
  state := none
  prev := none
  tag := tag

/-- The tag of a slot's active order, if one is active (R2, R146, R166). -/
def State.activeTag (s : State) (i : SlotId) : Option Word16 :=
  match (s.slot i).active, (s.slot i).orders with
  | true, e :: _ => some (s.cellTag e.cell)
  | true, [] => none
  | false, _ => none

/-- The kind of a slot's active order, if one is active. -/
def State.activeKind (s : State) (i : SlotId) : Option OrderKind :=
  match (s.slot i).active, (s.slot i).orders with
  | true, e :: _ => some e.kind
  | true, [] => none
  | false, _ => none

end Sys2Proof.Machine
end

