-- ==== Sys2Proof/Machine/Links.lean ====
section
/-! DEFINITION. The Slot Link Engines: the queue, sending, placing and ending of messages, PROBE,
ALERT and polling (06_slot_links.md). What a reply or a lost link brings stands in Frames.lean. -/

namespace Sys2Proof.Machine

/-- A queued message is ready: it has no not-before time, or that time has passed (R132). -/
def QueuedMsg.ready (now : Time) (q : QueuedMsg) : Bool :=
  match q.notBefore with
  | none => true
  | some t => reached now t

/-- Send a message as a new request: it takes the engine's next sequence, and its first attempt has
its reply deadline (R128, R129). -/
def Engine.send (now : Time) (m : Msg) (placer : Placer) (recovery : Bool) (e : Engine) : Engine :=
  { e with
    nextSeq := e.nextSeq + 1
    out := some ⟨m, placer, e.nextSeq, 1, after now Config.replyLimit, true, recovery⟩ }

/-- With the link UP and no request outstanding, send the first ready message in queue order
(R132). -/
def Engine.serve (now : Time) (e : Engine) : Engine :=
  if e.link = .up ∧ e.out = none then
    match e.queue.find? (QueuedMsg.ready now) with
    | some q => { e with queue := e.queue.eraseP (QueuedMsg.ready now) }.send now q.msg q.placer false
    | none => e
  else e

/-- Let the engine of a slot send what is ready (R132). -/
def serveLink (i : SlotId) (s : State) : State := s.modEngine i (Engine.serve s.time)

/-- A message joins the tail of the queue with its placer (R125, R132); on a link that is not UP it does
not join (R144). -/
def Engine.join (m : Msg) (placer : Placer) (notBefore : Option Time) (e : Engine) : Engine :=
  if e.link = .up then { e with queue := e.queue ++ [⟨m, placer, notBefore⟩] } else e

/-- A message a block places joins the tail, and is sent at once if the line is free (R132). -/
def enqueue (i : SlotId) (m : Msg) (placer : Placer) (s : State) : State :=
  s.modEngine i fun e => (e.join m placer none).serve s.time

/-- The answered request joins the tail again with a not-before time; it is the same message to its placer
(R131). -/
def Engine.putBack (notBefore : Time) (e : Engine) : Engine :=
  match e.out with
  | some o => e.join o.msg o.placer (some notBefore)
  | none => e

/-- The request just answered on a slot's link is put back, to be asked again `ms` later (R131). -/
def putBack (i : SlotId) (ms : Nat) (s : State) : State :=
  s.modEngine i (Engine.putBack (after s.time ms))

/-- A message satisfying `p` is queued. -/
def Engine.queued (p : Msg → Bool) (e : Engine) : Bool := e.queue.any fun q => p q.msg

/-- A placer ends its messages: queued ones are removed, an outstanding one is overtaken (R135). -/
def Engine.endMessages (p : Msg → Bool) (e : Engine) : Engine :=
  { e with
    queue := e.queue.filter fun q => !p q.msg
    out := e.out.map fun o => if p o.msg then { o with live := false } else o }

/-- End the messages satisfying `p` on a slot's link (R135). -/
def endMessages (i : SlotId) (p : Msg → Bool) (s : State) : State :=
  s.modEngine i (Engine.endMessages p)

/-- End the sequencer's own request on a slot's link (R135). -/
def endOwn (i : SlotId) (s : State) : State := endMessages i Msg.isOwn s

/-- Placing `m` finds the message it answers still queued: a DROP or WITHDRAW its ADMIT, a
PATH-CLOSE its PATH-OPEN (R134, rows 1 and 2). -/
def Msg.undoes (m q : Msg) : Bool :=
  match m, q with
  | .drop n, .admitNode n' => decide (n = n')
  | .withdraw n, .admitNode n' => decide (n = n')
  | .pathClose h, .pathOpen h' => decide (h = h')
  | _, _ => false

/-- The coordinator places a port message (R134): a message it undoes is removed and nothing joins;
a notification for the same port is removed or overtaken first; otherwise it joins the tail. -/
def placePort (i : SlotId) (m : Msg) (s : State) : State :=
  if (s.engine i).queued m.undoes then
    s.modEngine i fun e => { e with queue := e.queue.filter fun q => !m.undoes q.msg }
  else enqueue i m .coordinator (endMessages i (Msg.notificationFor m.far) s)

/-- The sequencer places an own request; on a link that is not UP it does not join (R144). -/
def placeOwn (i : SlotId) (m : Msg) (s : State) : State :=
  if s.linkUp i then enqueue i m .sequencer s else s

/-- A PROBE is queued or outstanding (R137). -/
def Engine.probing (e : Engine) : Bool :=
  e.queued (fun m => decide (m = .probe)) || (e.out.any fun o => decide (o.msg = .probe))

/-- A PROBE is asked for: it is placed by the block that asks if the link is UP and no PROBE is queued or
outstanding; a PROBE already live keeps its placer and serves the later asker as well (R137, R144). -/
def askProbe (i : SlotId) (placer : Placer) (s : State) : State :=
  if s.linkUp i && !(s.engine i).probing then enqueue i .probe placer s else s

/-- The ALERT test: the engine itself places the PROBE (R130, R138). -/
def alertTest (i : SlotId) (s : State) : State :=
  if (s.pinsOf i).alert then askProbe i .engine s else s

/-- The engine at its slot's entry to VACANT (R141). The next sequence is kept. -/
def Engine.vacate (e : Engine) : Engine :=
  { e with link := .absent, queue := [], out := none, poll := none, recovery := none }

/-- The engine at its slot's entry to SURVEYING: the link is UP, a recovery probe outstanding goes on
as an ordinary request (R142). -/
def Engine.enterSurveying (e : Engine) : Engine :=
  { e with
    link := .up
    recovery := none
    out := e.out.map fun o => { o with recovery := false } }

/-- The poll deadline of a state entered or given at `now` (R139). -/
def pollDeadline (now : Time) (st : SlotState) : Option Time :=
  st.pollInterval.map (after now)

end Sys2Proof.Machine
end

