-- ==== Sys2Proof/Machine/Orders.lean ====
section
/-! DEFINITION. Order cells and order lists: results, refusals and finishes (02_orders.md). What an
order does stands in Intake.lean and Sequencer.lean. -/

namespace Sys2Proof.Machine

/-- The port summary of a slot (R35, 11 The order cell): for a node bit 0 its port to hub 15 OPEN and
bit 1 its port to hub 16, for a hub the count of its OPEN ports. -/
def State.portSummary (s : State) (i : SlotId) : Byte :=
  let opened := fun p => decide ((s.portOf p).state = .opened)
  if isHub i then BitVec.ofNat 8 ((slotPorts i).countP opened)
  else match slotPorts i with
    | [p15, p16] => (if opened p15 then 1 else 0) ||| (if opened p16 then 2 else 0)
    | _ => 0

/-- The results of a cell (R35). `slot` is the slot whose generation and state they carry, none for
generation 0 and state NONE. -/
structure CellResult where
  code     : Byte
  fault    : Option FaultCause
  slot     : Option SlotId
  summary  : Byte
  taken    : Time
  data     : List Byte
deriving DecidableEq, Repr

/-- The bytes 0x1C to 0x7F of a cell (11 The order cell); unused bytes are 0 (R203). -/
def CellResult.bytes (s : State) (r : CellResult) : List Byte :=
  let gen := match r.slot with
    | some i => (s.slot i).gen
    | none => 0
  let st := r.slot.map fun i => (s.slot i).state
  [r.code, faultByte r.fault, stateByte st, r.summary] ++ le32 r.taken ++ le32 s.time ++ le16 gen
    ++ List.replicate 22 0 ++ (r.data ++ List.replicate 64 0).take 64

/-- Write a cell's results, then its state, then latch ATTENTION.ORDER-DONE (R35, R39, R46). -/
def writeResult (c : CellId) (st : CellState) (r : CellResult) (s : State) : State :=
  ({ s with mem := Memory.writeList s.mem (cellOffset c + 0x1C) (r.bytes s) }.setCell c st).latch
    .orderDone

/-- The order of cell `c` starts or acts: what follows from here is brought by it, which is the tag of the
PORT notices handed for it (R103, log 13). -/
def State.onBehalf (c : CellId) (s : State) : State := { s with broughtBy := some (s.cellTag c) }

/-- Refuse an order of a slot, at intake or at start (R39, R45). -/
def refuseCell (c : CellId) (code : OrderRefusal) (slot : Option SlotId) (taken : Time) (s : State) :
    State :=
  writeResult c .refused ⟨code.code, none, slot, 0, taken, []⟩ s

/-- Finish an order of a slot (R46). -/
def finishCell (c : CellId) (i : SlotId) (outcome : OrderOutcome) (taken : Time)
    (fault : Option FaultCause) (data : List Byte) (s : State) : State :=
  writeResult c .finished ⟨outcome.code, fault, some i, s.portSummary i, taken, data⟩ s

/-- Finish a shelf order: generation 0, state NONE, port summary zero (R57). -/
def finishShelfCell (c : CellId) (outcome : OrderOutcome) (taken : Time) (s : State) : State :=
  writeResult c .finished ⟨outcome.code, none, none, 0, taken, []⟩ s

/-- Take the head off a slot's order list; no order is active afterwards (R42). -/
def Slot.dropHead (x : Slot) : Slot :=
  { x with orders := x.orders.tail, active := false, read := none }

/-- Finish a slot's active order, if one is active (R46). -/
def finishActive (i : SlotId) (outcome : OrderOutcome) (fault : Option FaultCause)
    (data : List Byte) (s : State) : State :=
  match (s.slot i).active, (s.slot i).orders with
  | true, e :: _ =>
    finishCell e.cell i outcome e.taken fault data (s.modSlot i Slot.dropHead)
  | true, [] => s
  | false, _ => s

/-- Finish a slot's active order if it is of kind `k` (R46). -/
def finishActiveIf (k : OrderKind) (i : SlotId) (outcome : OrderOutcome) (fault : Option FaultCause)
    (data : List Byte) (s : State) : State :=
  if s.activeKind i = some k then finishActive i outcome fault data s else s

/-- Finish the cells of list entries, one after another (R47). -/
def finishEntries (i : SlotId) (outcome : OrderOutcome) : List OrderEntry → State → State
  | [], s => s
  | e :: es, s => finishEntries i outcome es (finishCell e.cell i outcome e.taken none [] s)

/-- Finish every order of a slot, the active one first, then the waiting ones oldest first (R47). -/
def finishAll (i : SlotId) (outcome : OrderOutcome) (s : State) : State :=
  (finishEntries i outcome (s.slot i).orders s).modSlot i fun x =>
    { x with orders := [], active := false, read := none }

/-- The waiting orders of a slot: those on its list that are not active (R42). -/
def Slot.waiting (x : Slot) : List OrderEntry := if x.active then x.orders.tail else x.orders

/-- Finish the waiting orders of a slot, oldest first, leaving the active one (R47, R54). -/
def finishWaiting (i : SlotId) (outcome : OrderOutcome) (s : State) : State :=
  (finishEntries i outcome (s.slot i).waiting s).modSlot i fun x =>
    { x with orders := if x.active then x.orders.take 1 else [] }

/-- The boot limit in milliseconds: the active ADMIT's override, else the identity's boot hint, else
90 s (R10, R199). -/
def State.bootLimit (s : State) (i : SlotId) : Nat :=
  let override := match s.activeKind i, (s.slot i).orders with
    | some .admitBlade, e :: _ => s.admitBootLimit e.cell
    | _, _ => 0
  let hint := (s.slot i).ident.bootHint.toNat
  1000 * (if override ≠ 0 then override else if hint ≠ 0 then hint else Config.bootLimitDefault)

end Sys2Proof.Machine
end

