-- ==== Sys2Proof/Machine/Slots.lean ====
section
/-! DEFINITION. The state change of a slot, the one operation every move of every slot goes through
(01_slots.md R1, R2). -/

namespace Sys2Proof.Machine

/-- The states in which a retirement context is discarded (R14). -/
def SlotState.endsRetirement : SlotState → Bool
  | .parked | .faulted | .vacant | .inService => true
  | .seating | .surveying | .awaitPower | .ramping | .booting | .joining | .leaving | .quiescing
  | .stamping | .poweringOff | .resuming => false

/-- The indicator's blink phase after a move (R31): it starts lit on entry from a state that does not
blink, runs on between two blinking states and is gone otherwise. -/
def blinkAfter (now : Time) (old new : SlotState) (phase : Option Blink) : Option Blink :=
  if new.blinking then
    if old.blinking then phase else some ⟨true, after now Config.blinkPhase⟩
  else none

/-- What a state change does at the sequencer (R1): previous state, entry time and generation; the
handle latch (R27) and the retirement context (R14) are cleared where their rules say; the AGENT-FAULT
judgement begins afresh on entry to RAMPING and RESUMING (R19); on an exit from AWAIT-POWER the wait
reason and queue position are cleared (R65); the deadlines, the survey and the stamp of the state left
end with it (R5, R10, R16, R151, R156). -/
def Slot.enter (now : Time) (new : SlotState) (x : Slot) : Slot :=
  { x with
    prev := x.state
    state := new
    entry := now
    gen := nextGeneration x.gen
    latch := x.latch && !new.clearsLatch
    retire := if new.endsRetirement then none else x.retire
    agentFault := x.agentFault && !(decide (new = .ramping) || decide (new = .resuming))
    waitReason := if x.state = .awaitPower then none else x.waitReason
    queuePos := if x.state = .awaitPower then 0 else x.queuePos
    settle := none
    boot := none
    quiesce := none
    survey := none
    stamp := none
    blink := blinkAfter now x.state new x.blink }

/-- Move a slot, without a notice; the link engine is told the new state (R139). -/
def moveSlot (i : SlotId) (new : SlotState) (s : State) : State :=
  (s.modSlot i (Slot.enter s.time new)).modEngine i fun e =>
    { e with poll := pollDeadline s.time new }

/-- A state change: the move, then its STATE notice with the new generation (R1, R2). -/
def changeState (i : SlotId) (new : SlotState) (detail : StateDetail) (tag : Option Word16)
    (s : State) : State :=
  let s1 := moveSlot i new s
  handNotice (slotNotice s1 i (.state detail) tag) s1

/-- A state change whose notice carries the tag of the slot's active order, if any (R2). -/
def changeStateOwn (i : SlotId) (new : SlotState) (detail : StateDetail) (s : State) : State :=
  changeState i new detail (s.activeTag i) s

end Sys2Proof.Machine
end

