-- ==== Sys2Proof/Machine/Power.lean ====
section
/-! DEFINITION. Payload Power Control (04_payload_power_and_ramp_pacing.md): the power-off act, the
MIN-ON and cooling tests, pacing, and the start of a ramp. -/

namespace Sys2Proof.Machine

/-- The ramp limit of an inrush class in milliseconds (R86). -/
def rampLimitOf (inrush : Byte) : Nat :=
  match inrush.toNat with
  | 0 => 20
  | 1 => 50
  | 2 => 100
  | _ => 200

/-- A SET-TIMING is at the front of the shelf order list (R66 test 5, R73). -/
def Allocator.timingAtFront (a : Allocator) : Bool :=
  match a.shelf with
  | e :: _ => decide (e.kind = .setTiming)
  | [] => false

/-- The end of a slot's ramp is reported to the allocator (R74, R95): the slot leaves the ramping
set, and a set left empty lets a SET-TIMING at the front apply. Where a CUT, a fault or a removal ends the
ramp, the order is served after the event's own work on the slot, with its claim returned, and before the
examination that the release brings and the start of the slot's next order (log 40). -/
def rampEnded (i : SlotId) (s : State) : State :=
  if i ∈ s.alloc.ramping then
    let s1 := s.modAlloc fun a => { a with ramping := a.ramping.erase i }
    if s1.alloc.ramping.isEmpty && s1.alloc.timingAtFront then s1.raise [.serve] else s1
  else s

/-- What a power-off does to a slot whose switch latch is ON (R91): reset asserted, latch OFF, the
four deadlines removed, the power-off time recorded and the off-reference RECENT. -/
def Power.turnOff (now : Time) (p : Power) : Power :=
  { p with
    resetAsserted := true
    switchOn := false
    rampLimit := none
    resetHold := none
    deferral := none
    minute := none
    offTime := now
    offRef := some (after now Config.horizon) }

/-- The power-off act (R91). On a latch already OFF it does nothing. -/
def powerOff (i : SlotId) (s : State) : State :=
  if (s.pwr i).switchOn then
    (if (s.pwr i).rampLimit.isSome then rampEnded i s else s).modPower i (Power.turnOff s.time)
  else s

/-- A reference has lasted at least `limit`: it is CLEAR, or `limit` has passed since its time
(R92, R94). -/
def refPassed (now : Time) (ref : Option Time) (time : Time) (limit : Nat) : Bool :=
  ref.isNone || decide (limit ≤ (now - time).toNat)

/-- MIN-ON has passed since the slot's power-good time (R92). -/
def State.minOnPassed (s : State) (i : SlotId) : Bool :=
  refPassed s.time (s.pwr i).onRef (s.pwr i).goodTime s.settings.minOn

/-- The slot has cooled (R66 test 3, R94). -/
def State.cooled (s : State) (i : SlotId) : Bool :=
  refPassed s.time (s.pwr i).offRef (s.pwr i).offTime s.settings.minOff

/-- Pacing permits a ramp to start at `t` (R83). -/
def pacingPermits (st : Settings) (history : List Time) (t : Time) : Bool :=
  (match history.getLast? with
    | none => true
    | some e => decide (st.rampGap ≤ (t - e).toNat))
  && decide (history.countP (fun e => decide ((t - e).toNat < st.rampWindow)) < st.windowLimit)

/-- How much of `span` milliseconds from the past time `e` is still to run at `now`; negative once they
have passed. -/
def leftOf (now e : Time) (span : Nat) : Int := (span : Int) - ((now - e).toNat : Int)

/-- The entry of the history that must leave the window before a start is permitted (R84): e(k −
WINDOW-LIMIT + 1), when k is at least WINDOW-LIMIT. -/
def windowEntry (st : Settings) (history : List Time) : Option Time :=
  if st.windowLimit ≤ history.length then history[history.length - st.windowLimit]? else none

/-- The earliest time at which pacing will permit a start if none is made in the meantime (R84): the
later of the newest entry plus RAMP-GAP and the window's entry plus RAMP-WINDOW, as they lie from
`now`. -/
def pacingTime (st : Settings) (history : List Time) (now : Time) : Time :=
  match history.getLast?, windowEntry st history with
  | some e, some w =>
    if leftOf now w st.rampWindow ≤ leftOf now e st.rampGap then after e st.rampGap
    else after w st.rampWindow
  | some e, none => after e st.rampGap
  | none, _ => now

/-- Append a ramp's start to the history, which remembers the last four (R82). -/
def appendHistory (history : List Time) (t : Time) : List Time :=
  (if Config.historyDepth ≤ history.length then history.tail else history) ++ [t]

/-- Remove the history entries of an age of 2^31 ms (R82). -/
def ageHistory (now : Time) (history : List Time) : List Time :=
  history.filter fun e => decide ((now - e).toNat < Config.historyAge)

/-- Begin a ramp (R86): the reset stays asserted, the latch goes ON, the history takes the start, the
ramp limit and minute deadlines are set. -/
def rampStart (i : SlotId) (s : State) : State :=
  { s.modPower i (fun p =>
      { p with
        resetAsserted := true
        switchOn := true
        rampLimit := some (after s.time (rampLimitOf (s.slot i).ident.inrush))
        minute := some (after s.time Config.minute) }) with
    history := appendHistory s.history s.time }

end Sys2Proof.Machine
end

