-- ==== Sys2Proof/Machine/Budget.lean ====
section
/-! DEFINITION. The Power Allocator (03_power_budget_and_the_wait_queue.md): claims, the Power Wait
Queue, the examination of its head, the grant, and the shelf order list. -/

namespace Sys2Proof.Machine

/-- The hub reserve the hubs do not yet hold, 0 if they hold more (R61). -/
def Allocator.unusedReserve (a : Allocator) : Nat := a.hubReserve - (a.claims[14] + a.claims[15])

/-- A slot's claim fits (R61). -/
def Allocator.fits (a : Allocator) (i : SlotId) (claim : Nat) : Bool :=
  if isHub i then decide (claim + a.granted ≤ a.capacity)
  else decide (claim + a.granted + a.unusedReserve ≤ a.capacity)

/-- Take a slot's claim off the claim table and the granted total (R62). -/
def Allocator.release (i : SlotId) (a : Allocator) : Allocator :=
  { a with granted := a.granted - a.claims[i], claims := a.claims.set i 0 }

/-- Enter a slot's claim in the claim table and the granted total (R69 step 1). A slot that is granted
holds no claim yet; the total is written as the sum of the table, whatever the table held (R60). -/
def Allocator.enterClaim (i : SlotId) (claim : Nat) (a : Allocator) : Allocator :=
  { a with granted := a.granted - a.claims[i] + claim, claims := a.claims.set i claim }

/-- The sequencer returns its claim: the allocator releases it and examines the head, unless it is
already 0, and the record's claim is 0 (R18, R20, R62). The examination comes after the rest of the
event's own work on the slot (log 27) and before an order waiting behind in the slot's list starts
(log 44). -/
def returnClaim (i : SlotId) (s : State) : State :=
  let s1 := s.modSlot i fun x => { x with claim := 0 }
  if s1.alloc.claims[i] = 0 then s1
  else ((s1.modAlloc (Allocator.release i)).touchShelf).raise [.examine]

/-! ### The queue -/

/-- Entry `e` is ordered before entry `f` by class and urgency (R64). -/
def QueueEntry.before (e f : QueueEntry) : Bool :=
  (isHub e.slot && !isHub f.slot)
    || (decide (isHub e.slot = isHub f.slot) && decide (e.urgency < f.urgency))

/-- Place a joining entry: ahead of the first entry it is ordered before, behind its equals, which
arrived no later (R64). -/
def insertEntry (e : QueueEntry) : List QueueEntry → List QueueEntry
  | [] => [e]
  | f :: fs => if e.before f then e :: f :: fs else f :: insertEntry e fs

/-- Report positions from `k` on to the sequencers; behind the head the reason is BEHIND (R65). -/
def reportFrom : Nat → List QueueEntry → State → State
  | _, [], s => s
  | k, e :: es, s =>
    reportFrom (k + 1) es (s.modSlot e.slot fun x =>
      { x with
        queuePos := k
        waitReason := if k = 1 then x.waitReason else some .behind })

/-- Report every position of the queue (R65). -/
def reportQueue (s : State) : State := reportFrom 1 s.alloc.queue s

/-- Change the queue: positions are reported and the queue mirror is written (R63, R65). The
re-examination deadline is cancelled; the examination that follows sets it afresh (R67). -/
def setQueue (q : List QueueEntry) (s : State) : State :=
  reportQueue ((s.modAlloc fun a => { a with queue := q, reexam := none }).touchShelf)

/-- The entry a slot joins with for the ADMIT of cell `c` (R8, R63). -/
def entryFor (i : SlotId) (c : CellId) (s : State) : QueueEntry where
  slot := i
  urgency := s.admitUrgency c
  arrival := s.time
  deadline := if s.admitWaitLimit c = 0 then none
    else some (after s.time (1000 * s.admitWaitLimit c))
  claim := (s.slot i).ident.draw.toNat

/-- A slot joins the queue for the ADMIT of cell `c` (R63). -/
def joinQueue (i : SlotId) (c : CellId) (s : State) : State :=
  setQueue (insertEntry (entryFor i c s) s.alloc.queue) s

/-- A slot has an entry in the queue. -/
def State.isQueued (s : State) (i : SlotId) : Bool := s.alloc.queue.any fun e => decide (e.slot = i)

/-- Remove a slot's entry at its sequencer's request, then examine the head; with no entry nothing
changes (R71). The examination comes after the rest of the event's own work on the slot (log 27) and
before the slot's next waiting order starts (log 44). -/
def removeEntry (i : SlotId) (s : State) : State :=
  if s.isQueued i then
    (setQueue (s.alloc.queue.filter fun e => !decide (e.slot = i)) s).raise [.examine]
  else s

/-! ### Examination and grant -/

/-- No feed hold applies (R66 test 2, R78). -/
def State.feedsPermit (s : State) : Bool :=
  !s.straps.feedHold || (!s.alloc.feedALost && !s.alloc.feedBLost)

/-- The result of the examination of an entry: none when all five tests pass, else the wait reason
of the first that fails (R66). -/
def examination (s : State) (e : QueueEntry) : Option WaitReason :=
  if !s.alloc.fits e.slot e.claim then some .budget
  else if !s.feedsPermit then some .feed
  else if !s.cooled e.slot then some .cooling
  else if !pacingPermits s.settings s.history s.time then some .pacing
  else if s.alloc.timingAtFront then some .setting
  else none

/-- The re-examination deadline a wait reason of the head calls for (R67). -/
def reexamFor (s : State) (e : QueueEntry) : WaitReason → Option Time
  | .cooling => some (after (s.pwr e.slot).offTime s.settings.minOff)
  | .pacing => some (pacingTime s.settings s.history s.time)
  | .budget | .feed | .setting | .behind => none

/-- The grant of the head entry (R69): claim, queue, ramp, the move to RAMPING with the record's
claim and the admissions count (R8), the shelf record, and then the new head. A power-good input
already asserted is taken in this event (R86). -/
def grant (e : QueueEntry) (rest : List QueueEntry) (s : State) : State :=
  let i := e.slot
  let s1 := s.modAlloc fun a =>
    { Allocator.enterClaim i e.claim a with ramping := a.ramping ++ [i] }
  let s2 := rampStart i (setQueue rest s1)
  let s3 := (changeStateOwn i .ramping .granted s2).modSlot i fun x =>
    { x with claim := e.claim, admissions := countUpTo 255 x.admissions }
  s3.raise ((if (s3.pinsOf i).powerGood then [.powerGood i] else []) ++ [.examine])

/-- The examination of the head of the queue (R66, R67). -/
def examine (s : State) : State :=
  match s.alloc.queue with
  | [] => s
  | e :: rest =>
    let s1 := s.modAlloc fun a => { a with reexam := none }
    match examination s1 e with
    | none => grant e rest s1
    | some r =>
      (s1.modAlloc fun a => { a with reexam := reexamFor s1 e r }).modSlot e.slot fun x =>
        { x with waitReason := some r }

/-! ### The shelf order list -/

/-- Test one deferred slot against a new MIN-ON (R81 step 2): its switch opens in this event, or its
deferral deadline moves. -/
def retestDeferral (s : State) (i : SlotId) : State :=
  if (s.pwr i).deferral.isSome then
    if s.minOnPassed i then (powerOff i s).raise [.switchOpened i]
    else s.modPower i fun p => { p with deferral := some (after p.goodTime s.settings.minOn) }
  else s

/-- Apply a SET-TIMING: settings, deferred slots, shelf record, SETTINGS notice (R81). The deferred slots
are tested ascending (log 41). -/
def applyTiming (c : CellId) (s : State) : State :=
  let s1 := allSlots.foldl retestDeferral { s with settings := s.settingsParam c }
  handNotice (shelfNotice s1 (.settings true) (some (s.cellTag c))) s1.touchShelf

/-- Apply a SET-BUDGET: capacity and hub reserve at once, shelf record, SETTINGS notice (R75). -/
def applyBudget (c : CellId) (s : State) : State :=
  let s1 := (s.modAlloc fun a =>
    { a with capacity := s.budgetCapacity c, hubReserve := s.budgetReserve c }).touchShelf
  handNotice (shelfNotice s1 (.settings false) (some (s.cellTag c))) s1

/-- Finish the front of the shelf list and take it off (R73). -/
def finishFront (e : OrderEntry) (outcome : OrderOutcome) (s : State) : State :=
  ((finishShelfCell e.cell outcome e.taken s).modAlloc fun a =>
    { a with shelf := a.shelf.tail }).touchShelf

/-- Serve the front of the shelf order list (R73, R75): a SET-TIMING waits for the ramping set to be
empty; its coming to the front brings an examination (R68). After a finish the new front is served
and the head is examined; an OVER-COMMITTED order brings no examination on its account (log 26). What
the reports of the switches a SET-TIMING opened bring, the start of such a slot's next order included, comes
before the new front is served (log 41). -/
def serveShelf (s : State) : State :=
  match s.alloc.shelf with
  | [] => s
  | e :: _ =>
    if e.kind = .setTiming then
      if s.alloc.ramping.isEmpty then
        (finishFront e .done (applyTiming e.cell (s.onBehalf e.cell))).raise [.serve, .examine]
      else s.raise [.examine]
    else if s.alloc.granted ≤ s.budgetCapacity e.cell then
      (finishFront e .done (applyBudget e.cell (s.onBehalf e.cell))).raise [.serve, .examine]
    else (finishFront e .overCommitted s).raise [.serve]

end Sys2Proof.Machine
end

