-- ==== Sys2Proof/Machine/Fabric.lean ====
section
/-! DEFINITION. The Fabric Coordinator (05_fabric_ports.md): offers, withdrawals, abrupt isolation,
lost links, the answers of the handshakes and the redundancy guard. -/

namespace Sys2Proof.Machine

/-- Hand a PORT notice (R103): the node slot's generation and state, the port's state `st`, and the tag
of the order whose start or act brought it. -/
def portNotice (p : PortId) (detail : PortDetail) (st : PortState) (s : State) : State :=
  handNotice (slotNotice s (nodeSlot p) (.port detail p.hub st) s.broughtBy) s

/-- The port becomes ISOLATED: gate latch closed, deadline removed (R100). -/
def Port.isolate (x : Port) : Port := { x with state := .isolated, gate := false, deadline := none }

/-- Move a port to ISOLATED (R100). -/
def toIsolated (p : PortId) (s : State) : State := s.modPort p Port.isolate

/-! ### Offering -/

/-- The offer condition (R104). -/
def State.offerHolds (s : State) (p : PortId) : Bool :=
  s.bothOffering p && decide ((s.portOf p).state = .isolated) && !(s.portOf p).declined
    && s.linkUp (nodeSlot p) && s.linkUp (hubSlot p)

/-- Test the offer condition of a port, and offer it if the condition holds (R104, R105). -/
def offerTest (p : PortId) (s : State) : State :=
  if s.offerHolds p then
    placePort (hubSlot p) (.admitNode p.node) (s.modPort p fun x =>
      { x with
        state := .offered
        gate := false
        attempts := countUpTo 255 x.attempts
        deadline := some (after s.time Config.offerLimit) })
  else s

/-- Test ports one after another, each whole before the next (R105). -/
def offerTests (ps : List PortId) (s : State) : State := ps.foldl (fun s p => offerTest p s) s

/-- Clear the declined flags and attempt counts of a slot's ports (R106). -/
def clearDeclined (i : SlotId) (s : State) : State :=
  (slotPorts i).foldl
    (fun s p => s.modPort p fun x => { x with declined := false, attempts := 0 }) s

/-- A slot's entry to JOINING: flags cleared, each port tested once; join done is tested at the end
of the event (R106, R107). -/
def beginJoin (i : SlotId) (s : State) : State :=
  (offerTests (slotPorts i) (clearDeclined i s)).testLate i

/-! ### Withdrawal -/

/-- Set a drain deadline with the DRAIN-LIMIT in force (R112). -/
def State.drainDeadline (s : State) : Option Time := some (after s.time s.settings.drainLimit)

/-- A port is to enter WITHDRAWING. With the hub link UP it does, with a fresh drain deadline or the
one it has, and WITHDRAW n is placed; with the hub link not UP it goes straight to ISOLATED with a
PORT notice LINK (R112, R114). `linkCause` says that a lost link brought the move, which hands a PORT
notice LINK for it (R112, R120); one move hands one notice (log 12). -/
def toWithdrawing (p : PortId) (fresh linkCause : Bool) (s : State) : State :=
  if s.linkUp (hubSlot p) then
    let s1 := placePort (hubSlot p) (.withdraw p.node) (s.modPort p fun x =>
      { x with
        state := .withdrawing
        deadline := if fresh then s.drainDeadline else x.deadline })
    if linkCause then portNotice p .link .withdrawing s1 else s1
  else offerTest p (portNotice p .link .isolated (toIsolated p s))

/-- A port is to enter CLOSING; with the node link not UP it enters WITHDRAWING in its place, with a
PORT notice LINK (R112). -/
def toClosing (p : PortId) (s : State) : State :=
  if s.linkUp (nodeSlot p) then
    placePort (nodeSlot p) (.pathClose p.hub) (s.modPort p fun x =>
      { x with state := .closing, deadline := s.drainDeadline })
  else toWithdrawing p true true s

/-- Withdraw one port of a leaving slot, by its state (R112). -/
def withdrawPort (s : State) (p : PortId) : State :=
  match (s.portOf p).state with
  | .isolated => s
  | .offered =>
    if (s.engine (hubSlot p)).queued fun m => decide (m = .admitNode p.node) then
      offerTest p (toIsolated p
        (endMessages (hubSlot p) (fun m => decide (m = .admitNode p.node)) s))
    else s
  | .opening =>
    if (s.engine (nodeSlot p)).queued fun m => decide (m = .pathOpen p.hub) then
      toWithdrawing p true false (placePort (nodeSlot p) (.pathClose p.hub) s)
    else
      toClosing p (endMessages (nodeSlot p) (fun m => decide (m = .pathOpen p.hub)) s)
  | .opened => toClosing p s
  | .closing => s
  | .withdrawing => s

/-- A slot's entry to LEAVING: each of its ports is withdrawn; leave done is tested at the end of the
event (R112, R115). The ports go in ascending order, which R112 leaves open (DESIGN CHOICE, log 48). -/
def withdrawSlot (i : SlotId) (s : State) : State :=
  ((slotPorts i).foldl withdrawPort s).testLate i

/-! ### Abrupt isolation -/

/-- A notification may go to a slot of an isolated port: it is not VACANT, its link is UP and it is
not the slot whose payload loss brought the isolation (R118 step 3). -/
def State.mayNotify (s : State) (j : SlotId) (loss : Option SlotId) : Bool :=
  decide ((s.slot j).state ≠ .vacant) && s.linkUp j && decide (loss ≠ some j)

/-- Isolate a port abruptly (R118): its messages ended on both links, gate closed, notifications
placed, PORT notice ABRUPT unless the isolation came from a drain deadline. -/
def isolatePort (p : PortId) (loss : Option SlotId) (notice : Bool) (s : State) : State :=
  if (s.portOf p).state = .isolated then s
  else
    let node := nodeSlot p
    let hub := hubSlot p
    let s1 := endMessages node (Msg.handshakeFor (some (15 + p.hub.val)))
      (endMessages hub (Msg.handshakeFor (some (p.node.val + 1))) s)
    let s2 := toIsolated p s1
    let s3 := if s2.mayNotify hub loss then placePort hub (.drop p.node) s2 else s2
    let s4 := if s3.mayNotify node loss then placePort node (.pathLost p.hub) s3 else s3
    if notice then portNotice p .abrupt .isolated s4 else s4

/-- A slot that has lost payload has every port isolated abruptly, in ascending order; each is then
tested for an offer (R118, R119). -/
def isolateSlot (i : SlotId) (s : State) : State :=
  offerTests (slotPorts i)
    ((slotPorts i).foldl (fun s p => isolatePort p (some i) true s) s)

/-! ### Link loss -/

/-- Resolve one port of a node whose link has become LOST (R120). -/
def resolveNodePort (s : State) (p : PortId) : State :=
  match (s.portOf p).state with
  | .isolated => s
  | .offered =>
    if (s.engine (hubSlot p)).queued fun m => decide (m = .admitNode p.node) then
      offerTest p (portNotice p .link .isolated (toIsolated p
        (endMessages (hubSlot p) (fun m => decide (m = .admitNode p.node)) s)))
    else s
  | .opening => toWithdrawing p true true s
  | .opened => s
  | .closing => toWithdrawing p false true s
  | .withdrawing => s

/-- Resolve one port of a hub whose link has become LOST (R121). -/
def resolveHubPort (s : State) (p : PortId) : State :=
  match (s.portOf p).state with
  | .offered =>
    portNotice p .link .isolated
      ((toIsolated p s).modPort p fun x => { x with declined := true })
  | .withdrawing => offerTest p (portNotice p .link .isolated (toIsolated p s))
  | .isolated => s
  | .opening => s
  | .opened => s
  | .closing => s

/-- The coordinator resolves the ports of a slot whose link has become LOST (R120, R121). They go in
ascending order, which the rules leave open (DESIGN CHOICE, log 51). -/
def resolveLoss (i : SlotId) (s : State) : State :=
  (slotPorts i).foldl (if isHub i then resolveHubPort else resolveNodePort) s

/-! ### Answers of the handshakes -/

/-- ACCEPT for an OFFERED port (R108). A slot in neither JOINING, IN-SERVICE nor LEAVING does not
occur at an OFFERED port; it is taken as the LEAVING case (log 25). -/
def takeAccept (p : PortId) (s : State) : State :=
  if s.bothOffering p then
    if s.linkUp (nodeSlot p) then
      placePort (nodeSlot p) (.pathOpen p.hub) (s.modPort p fun x =>
        { x with state := .opening, gate := true, deadline := none })
    else toWithdrawing p true true s
  else toWithdrawing p true false s

/-- REFUSE for an OFFERED port (R109). -/
def takeRefuse (p : PortId) (s : State) : State :=
  offerTest p (portNotice p .refused .isolated
    (s.modPort p fun x => { x.isolate with declined := true }))

/-- LATER for an OFFERED port: it stays OFFERED and is asked again, or it becomes ISOLATED (R109,
R131). -/
def takeLater (p : PortId) (s : State) : State :=
  if s.bothOffering p && s.linkUp (nodeSlot p) && s.linkUp (hubSlot p) then
    putBack (hubSlot p) Config.laterReask s
  else offerTest p (toIsolated p s)

/-- The answer to a port message on the link of slot `i`, taken in the port's state (R101, R108 to
R114). -/
def portAnswer (i : SlotId) (m : Msg) (a : Answer) (s : State) : State :=
  let hub : HubId := if i.val = 14 then 0 else 1
  let node : NodeId := Fin.ofNat 14 i.val
  match m with
  | .admitNode n =>
    let p : PortId := ⟨n, hub⟩
    if (s.portOf p).state = .offered then
      match a with
      | .accept => takeAccept p s
      | .refuse => takeRefuse p s
      | .later => takeLater p s
      | .ok | .busy | .noLoad | .pending | .clear | .report => s
    else s
  | .withdraw n =>
    let p : PortId := ⟨n, hub⟩
    if (s.portOf p).state = .withdrawing then
      match a with
      | .clear => offerTest p (toIsolated p s)
      | .pending => putBack i Config.pendingReask s
      | .ok | .busy | .noLoad | .accept | .refuse | .later | .report => s
    else s
  | .pathOpen h =>
    let p : PortId := ⟨node, h⟩
    if (s.portOf p).state = .opening ∧ a = .ok then s.modPort p fun x => { x with state := .opened }
    else s
  | .pathClose h =>
    let p : PortId := ⟨node, h⟩
    if (s.portOf p).state = .closing then
      match a with
      | .ok => toWithdrawing p false false s
      | .pending => putBack i Config.pendingReask s
      | .busy | .noLoad | .accept | .refuse | .later | .clear | .report => s
    else s
  | .probe => s
  | .identPage _ => s
  | .rowLoad _ _ => s
  | .rowCommit _ => s
  | .quiesce => s
  | .pathLost _ => s
  | .drop _ => s

/-! ### Drain aborts and the guard -/

/-- Return one port of an abandoning slot to service (R117). A port whose other slot is LEAVING and
not abandoning keeps its course. -/
def abortPort (i : SlotId) (abandoning : List SlotId) (s : State) (p : PortId) : State :=
  let other := if nodeSlot p = i then hubSlot p else nodeSlot p
  if (s.slot other).state = .leaving ∧ other ∉ abandoning then s
  else match (s.portOf p).state with
    | .closing =>
      placePort (nodeSlot p) (.pathOpen p.hub)
        ((endMessages (nodeSlot p) (fun m => decide (m = .pathClose p.hub)) s).modPort p fun x =>
          { x with state := .opening, deadline := none })
    | .withdrawing => s.modPort p fun x => { x with deadline := s.drainDeadline }
    | .isolated => s
    | .offered => s
    | .opening => s
    | .opened => s

/-- The redundancy guard refuses hub slot `i`: the other hub is not IN-SERVICE and some port to this
hub is OPEN, OPENING or CLOSING (R123). -/
def State.guardRefuses (s : State) (i : SlotId) : Bool :=
  isHub i && decide ((s.slot (otherHub i)).state ≠ .inService)
    && (slotPorts i).any fun p =>
      decide ((s.portOf p).state = .opened) || decide ((s.portOf p).state = .opening)
        || decide ((s.portOf p).state = .closing)

/-- No port of the slot is OFFERED or OPENING: join done (R107). -/
def State.joinDone (s : State) (i : SlotId) : Bool :=
  (slotPorts i).all fun p =>
    decide ((s.portOf p).state ≠ .offered) && decide ((s.portOf p).state ≠ .opening)

/-- Every port of the slot is ISOLATED: leave done (R115). -/
def State.leaveDone (s : State) (i : SlotId) : Bool :=
  (slotPorts i).all fun p => decide ((s.portOf p).state = .isolated)

end Sys2Proof.Machine
end

