-- ==== Sys2Proof/Machine/Sequencer.lean ====
section
/-! DEFINITION. The Slot Sequencers (01_slots.md, 07_blade_identity_and_service_record.md): order
starts, the handle response, retirement, faults, removal, the survey, page reads, the stamp, PROBE
answers and the resumption of a slot. -/

namespace Sys2Proof.Machine

/-- The tests that follow the finish of a slot's order and the entry to a settled state: first the
head of the list (R13), then the handle response (R28). An examination of the Power Wait Queue that the
same act brought is made before them (log 44). -/
def testNext (i : SlotId) (s : State) : State := s.raise [.start i, .handle i]

/-- What follows the entry of a slot to IN-SERVICE (R13, R28): its own tests, and for a hub the
handle request of the other hub. A withdrawal that such a request begins is brought by the order, if any,
that brought the entry (R103, log 13). -/
def testInService (i : SlotId) (s : State) : State :=
  s.raise (if isHub i then [.start i, .handle i, .handle (otherHub i)] else [.start i, .handle i])

/-- A slot's return to IN-SERVICE with nothing to finish: its ISOLATED ports are tested for an offer
(R105), then the tests of the entry follow (log 9). -/
def settleInService (i : SlotId) (s : State) : State :=
  testInService i (offerTests (slotPorts i) s)

/-! ### The survey (R151, R152) -/

/-- Clear the identity (R6 step 1). -/
def Slot.clearIdentity (x : Slot) : Slot :=
  { x with idStatus := .none, idReason := .none, ident := Identity.zero }

/-- Begin a survey at step PAGE-0 (R151): IDENT-PAGE 0 is placed. -/
def surveyBegin (i : SlotId) (s : State) : State :=
  placeOwn i (.identPage 0) (s.modSlot i fun x => { x with survey := some ⟨.page0, none, []⟩ })

/-- What entry to SURVEYING brings after the state change (R6): the identity is cleared, the link is
UP and, if it was not, the slot's ports are tested for an offer and ALERT is tested (R122, R138), and
the survey begins. The survey's request is placed before the ALERT test (log 11). The ports are tested in
ascending order, as R105 and R122 leave open (log 50). -/
def enterSurveying (i : SlotId) (s : State) : State :=
  let s1 := (s.modSlot i Slot.clearIdentity).modEngine i Engine.enterSurveying
  if s.linkUp i then surveyBegin i s1
  else alertTest i (surveyBegin i (offerTests (slotPorts i) s1))

/-- The data of a finished SURVEY (R50): identity status and reason. -/
def surveyData (s : State) (i : SlotId) : List Byte :=
  [(s.slot i).idStatus.code, (s.slot i).idReason.code]

/-- The end of a survey (R6, R152): status and reason are written, the slot moves to PARKED, and a
SURVEY order finishes DONE. -/
def surveyEnd (i : SlotId) (status : IdStatus) (reason : IdReason) (s : State) : State :=
  let s1 := changeStateOwn i .parked .surveyed
    (s.modSlot i fun x => { x with idStatus := status, idReason := reason })
  testNext i (finishActiveIf .survey i .done none (surveyData s1 i) s1)

/-- A page returned to the survey (R151): page 0 fills the copy and is judged, page 6 is kept, page 7
sets the row pointers and ends the survey. -/
def surveyPage (i : SlotId) (v : Survey) (page : List Byte) (s : State) : State :=
  match v.step with
  | .page0 =>
    placeOwn i (.identPage 6) (s.modSlot i fun x =>
      { x with ident := identityOf page, survey := some ⟨.page6, some (judgePage page), []⟩ })
  | .page6 =>
    placeOwn i (.identPage 7) (s.modSlot i fun x =>
      { x with survey := some ⟨.page7, v.judgement, page⟩ })
  | .page7 =>
    let pointers := rowPointers (rowsOf v.page6 page)
    let s1 := s.modSlot i fun x => { x with nextRow := pointers.1, nextSeq := pointers.2 }
    match v.judgement with
    | some .none => surveyEnd i .valid .none s1
    | some r => surveyEnd i .invalid r s1
    | none => surveyEnd i .invalid .none s1

/-! ### Retirement (R14 to R18) -/

/-- Begin a retirement (R14, R15): the context is set up, the latch cleared, the slot moves to
LEAVING and its ports are withdrawn. -/
def beginRetirement (i : SlotId) (r : Retirement) (detail : StateDetail) (tag : Option Word16)
    (s : State) : State :=
  withdrawSlot i (changeState i .leaving detail tag
    (s.modSlot i fun x => { x with retire := some r, latch := false }))

/-- The orderly power-off request of POWERING-OFF (R18, R92): the switch opens now if MIN-ON has
passed, which is reported, or at the deferral deadline. -/
def powerOffRequest (i : SlotId) (s : State) : State :=
  if s.minOnPassed i then (powerOff i s).raise [.switchOpened i]
  else s.modPower i fun p => { p with deferral := some (after p.goodTime s.settings.minOn) }

/-- The report of an orderly power-off is taken (R18): the claim is returned, the slot moves to PARKED
and the RETIRE finishes DONE. -/
def switchOpened (i : SlotId) (s : State) : State :=
  if (s.slot i).state = .poweringOff then
    testNext i (finishActive i .done none []
      (changeStateOwn i .parked .poweredOff (returnClaim i s)))
  else s

/-- The tag of the RETIRE of a slot's retirement context, if it has a cell (R156). -/
def State.retireTag (s : State) (i : SlotId) : Option Word16 :=
  match (s.slot i).retire with
  | some r => r.cell.map s.cellTag
  | none => none

/-- Advance the service row pointers after a row was written (R160). -/
def Slot.advanceRow (x : Slot) : Slot :=
  { x with nextRow := x.nextRow + 1, nextSeq := x.nextSeq + 1 }

/-- The end of a stamp with its result (R17, R156): a live own request is ended, the result and on
WRITTEN the pointers are written, the STAMP notice is handed in STAMPING, the slot moves to
POWERING-OFF and asks for its power-off. -/
def stampEnd (i : SlotId) (result : StampResult) (s : State) : State :=
  let s1 := (endOwn i s).modSlot i fun x =>
    { (if result = .written then x.advanceRow else x) with lastStamp := some result }
  let s2 := handNotice (slotNotice s1 i (.stamp result) (s1.retireTag i)) s1
  powerOffRequest i (changeStateOwn i .poweringOff .stamped s2)

/-- Begin a stamp (R156): the row is built; on a link that is not UP the stamp ends SKIPPED, else
ROW-LOAD is placed. -/
def stampBegin (i : SlotId) (s : State) : State :=
  let x := s.slot i
  let reason := match x.retire with
    | some r => r.reason
    | none => 0
  let row := serviceRow x.nextSeq s.straps.shelfNumber i reason x.minutes x.admissions
  if s.linkUp i then
    placeOwn i (.rowLoad x.nextRow row)
      (s.modSlot i fun x => { x with stamp := some ⟨.load, x.nextRow, row, none, none⟩ })
  else stampEnd i .skipped s

/-- The end of the quiesce (R16): a QUIESCE still live is ended, and the slot moves to STAMPING if
the retirement's STAMP is set, else to POWERING-OFF. -/
def quiesceEnd (i : SlotId) (detail : StateDetail) (s : State) : State :=
  if (s.slot i).retire.any (·.stamp) then
    stampBegin i (changeStateOwn i .stamping detail (endOwn i s))
  else powerOffRequest i (changeStateOwn i .poweringOff detail (endOwn i s))

/-- Leave done (R15, R16): the slot moves to QUIESCING, its deadline is set and QUIESCE is placed. -/
def leaveSlot (i : SlotId) (s : State) : State :=
  placeOwn i .quiesce ((changeStateOwn i .quiescing .isolated s).modSlot i fun x =>
    { x with quiesce := some (after s.time s.settings.quiesceLimit) })

/-- Join done (R11): the slot moves to IN-SERVICE, its ports are tested for an offer (R105) and the
ADMIT finishes DONE. -/
def joinSlot (i : SlotId) (s : State) : State :=
  testInService i (finishActiveIf .admitBlade i .done none []
    (offerTests (slotPorts i) (changeStateOwn i .inService .joined s)))

/-- The join-done or leave-done test of a slot at the end of an event (R102, R107, R115). -/
def portTest (i : SlotId) (s : State) : State :=
  if (s.slot i).state = .joining ∧ s.joinDone i then joinSlot i s
  else if (s.slot i).state = .leaving ∧ s.leaveDone i then leaveSlot i s
  else s

/-- A drain abort is taken (R15, R117): the slot moves back to IN-SERVICE, the RETIRE finishes
DRAIN-TIMEOUT with the ports as the abort left them, then its ISOLATED ports are tested. -/
def drainAbort (s : State) (i : SlotId) : State :=
  settleInService i (finishActiveIf .retire i .drainTimeout none []
    (changeStateOwn i .inService .drainAbort s))

/-! ### Faults (R19 to R21) -/

/-- The power causes, which always remove power (R19). -/
def FaultCause.isPower : FaultCause → Bool
  | .rampSlow | .rampTrip | .overcurrent | .powerLost | .bootTimeout => true
  | .agentFault | .linkLost => false

/-- The outcome of an ADMIT that a fault ends (R19, R48). -/
def FaultCause.admitOutcome : FaultCause → OrderOutcome
  | .rampSlow | .rampTrip | .overcurrent | .powerLost => .rampFault
  | .bootTimeout => .bootTimeout
  | .agentFault => .bladeFault
  | .linkLost => .linkLost

/-- A fault removes power (R20): the slot moves to FAULTED, the switch opens at once, its ports are
isolated abruptly, the claim is returned, an own request is ended unless a READ-IDENTITY goes on, and
an ADMIT or RETIRE finishes. What this brings is done after it, in an order the spec leaves open (DESIGN
CHOICE): the shelf order list, when the fault ends the last ramp and so lets a SET-TIMING apply (R74,
log 40), then the examination of the head for the returned claim (R62, log 27), then the start of the
order waiting next in the slot's list (R46, logs 40 and 44). -/
def faultRemove (i : SlotId) (cause : FaultCause) (s : State) : State :=
  let s1 := isolateSlot i (powerOff i (changeStateOwn i .faulted .fault s))
  let s2 := returnClaim i s1
  let s3 := if s.activeKind i = some .readIdentity then s2 else endOwn i s2
  testNext i (finishActiveIf .retire i .done (some cause) []
    (finishActiveIf .admitBlade i cause.admitOutcome none [] s3))

/-- Raise a fault (R19): fault field, fault time and FAULT notice; it removes power if it is a power
fault or the fault response is CUT (R20, R21). -/
def raiseFault (i : SlotId) (cause : FaultCause) (s : State) : State :=
  let s1 := s.modSlot i fun x => { x with fault := some cause, faultTime := s.time }
  let s2 := handNotice (slotNotice s1 i (.fault cause) (s1.activeTag i)) s1
  if cause.isPower || decide ((s.slot i).policy.fault = .cut) then faultRemove i cause s2 else s2

/-- Raise a fault that a block reports; a slot without payload discards it (R19, R20). -/
def reportFault (i : SlotId) (cause : FaultCause) (s : State) : State :=
  if (s.slot i).state.payloadOn then raiseFault i cause s else s

/-! ### Removal (R23 to R25) -/

/-- The clearing that belongs to entry to VACANT (R25). -/
def Slot.clearBlade (x : Slot) : Slot :=
  { x with
    idStatus := .none
    idReason := .none
    ident := Identity.zero
    hold := false
    latch := false
    fault := none
    faultTime := 0
    admissions := 0
    minutes := 0
    nextRow := 0
    nextSeq := 0
    lastStamp := none
    lastAgent := none
    lastCause := 0
    agentFault := false
    claim := 0
    queuePos := 0
    waitReason := none }

/-- The move of a presence loss and its notice: STATE with detail REMOVED for an ordinary removal,
SURPRISE for a surprise removal (R23, R24). -/
def removalMove (i : SlotId) (s : State) : State :=
  if (s.slot i).state.payloadOn then
    let s1 := moveSlot i .vacant s
    handNotice (slotNotice s1 i .surprise (s.activeTag i)) s1
  else changeStateOwn i .vacant .removed s

/-- A presence loss (R23, R24, R25): the move, the queue entry asked back, the switch opened, the
ports isolated, the claim returned, the link ABSENT (R141), every order finished SLOT-VACATED, and the
clearing, with the declined flags and attempts of the slot's ports (R106). The spec does not order the
examination of the head that the returned claim or queue entry brings (R62, R71) against these: it is made
after all of them (DESIGN CHOICE, log 27), and after the shelf order list is served when the removal ends
the last ramp (log 40). -/
def removal (i : SlotId) (s : State) : State :=
  let s1 := powerOff i (removeEntry i (removalMove i s))
  let s2 := (returnClaim i (isolateSlot i s1)).modEngine i Engine.vacate
  clearDeclined i ((finishAll i .slotVacated s2).modSlot i Slot.clearBlade)

/-- A presence arrival (R5): VACANT to SEATING, with the settle deadline. -/
def arrival (i : SlotId) (s : State) : State :=
  if (s.slot i).state = .vacant then
    (changeStateOwn i .seating .seated s).modSlot i fun x =>
      { x with settle := some (after s.time Config.seatSettle) }
  else s

/-- What a change of a slot's presence field from `old` brings: arrival, loss or neither (R3). -/
def presenceChange (i : SlotId) (old : Presence) (s : State) : State :=
  let new := (s.slot i).presence
  if new = .both ∧ old ≠ .both then arrival i s
  else if old = .both ∧ new ≠ .both ∧ (s.slot i).state ≠ .vacant then removal i s
  else s

/-- Take the present raw inputs of a VACANT slot as its debounced levels, with the presence arrival
they may give (R191, R196). -/
def firstSample (i : SlotId) (s : State) : State :=
  let pins := s.pinsOf i
  presenceChange i .none (s.modSlot i fun x =>
    { x with long := pins.long, short := pins.short, handleOpen := pins.handleOpen })

/-! ### Order starts (R13, R44, R45) -/

/-- Refuse the order at the head at its start (R45); the next order is tested. -/
def refuseHead (i : SlotId) (e : OrderEntry) (code : OrderRefusal) (s : State) : State :=
  (refuseCell e.cell code (some i) e.taken (s.modSlot i Slot.dropHead)).raise [.start i]

/-- The kind's own start checks (R44 step 3). -/
def startCheck (i : SlotId) (e : OrderEntry) (s : State) : Option OrderRefusal :=
  match e.kind with
  | .admitBlade =>
    if (s.slot i).idStatus ≠ .valid then some .identityInvalid
    else if !kindMatches i (s.slot i).ident.kind then some .kindMismatch
    else none
  | .retire => if s.guardRefuses i && !s.cellForce e.cell then some .lastHub else none
  | .survey | .readIdentity | .clearFault | .cut | .cancel | .hold | .unhold | .setPolicy
  | .setBudget | .setTiming => none

/-- All three checks of an order's start, in their order (R44). -/
def startRefusal (i : SlotId) (e : OrderEntry) (s : State) : Option OrderRefusal :=
  if !conditionMatches (s.cellCondition e.cell) (s.slot i).gen then some .stale
  else if !e.kind.allows (s.slot i).state then some .wrongState
  else startCheck i e s

/-- An ADMIT starts (R8, R48): the slot moves to AWAIT-POWER and joins the queue; its handle response
is tested before the head is examined (log 8). -/
def startAdmit (i : SlotId) (c : CellId) (s : State) : State :=
  (joinQueue i c (changeState i .awaitPower .order (some (s.cellTag c)) s)).raise
    [.handle i, .examine]

/-- A RETIRE starts (R14, R49). -/
def startRetire (i : SlotId) (c : CellId) (s : State) : State :=
  beginRetirement i ⟨s.retireReason c, s.cellGentle c, s.cellStamp c, some c⟩ .order
    (some (s.cellTag c)) s

/-- A SURVEY starts (R50). -/
def startSurvey (i : SlotId) (c : CellId) (s : State) : State :=
  enterSurveying i (changeState i .surveying .order (some (s.cellTag c)) s)

/-- A READ-IDENTITY starts (R51): LINK-LOST at once on a link that is not UP, else the first page is
asked for. -/
def startRead (i : SlotId) (c : CellId) (s : State) : State :=
  if s.linkUp i then
    let page : Fin 8 := Fin.ofNat 8 (s.readFirst c)
    placeOwn i (.identPage page)
      (s.modSlot i fun x => { x with read := some ⟨page, s.readCountParam c - 1, []⟩ })
  else testNext i (finishActive i .linkLost none [] s)

/-- The fault field cleared (R22, R52). -/
def Slot.clearFault (x : Slot) : Slot := { x with fault := none, faultTime := 0 }

/-- A CLEAR-FAULT starts (R52). -/
def startClearFault (i : SlotId) (c : CellId) (s : State) : State :=
  if (s.slot i).state = .faulted then
    testNext i (finishActive i .done none [] ((changeState i .parked .order (some (s.cellTag c))
      (s.modSlot i Slot.clearFault))))
  else if (s.slot i).fault = none then testNext i (finishActive i .nothing none [] s)
  else testNext i (finishActive i .done none [] (s.modSlot i Slot.clearFault))

/-- A started order acts as its kind's rule gives (R48 to R52); immediate and shelf orders are on no
slot list. -/
def startAct (i : SlotId) (e : OrderEntry) (s : State) : State :=
  match e.kind with
  | .admitBlade => startAdmit i e.cell s
  | .retire => startRetire i e.cell s
  | .survey => startSurvey i e.cell s
  | .readIdentity => startRead i e.cell s
  | .clearFault => startClearFault i e.cell s
  | .cut | .cancel | .hold | .unhold | .setPolicy | .setBudget | .setTiming => s

/-- The test of the head of a slot's order list (R13): in a settled state with no order active it
starts, or is refused at start. -/
def startTest (i : SlotId) (s : State) : State :=
  match (s.slot i).orders with
  | [] => s
  | e :: _ =>
    if (s.slot i).state.settled && !(s.slot i).active then
      match startRefusal i e s with
      | some code => refuseHead i e code s
      | none => startAct i e ((s.onBehalf e.cell).modSlot i fun x => { x with active := true })
    else s

/-! ### The handle response (R28) -/

/-- The conditions of R28 hold. -/
def State.handleActs (s : State) (i : SlotId) : Bool :=
  let x := s.slot i
  x.latch && !x.hold && decide (x.policy.handle = .selfRetire)
    && ((decide (x.state = .awaitPower) && (!x.active || decide (s.activeKind i = some .admitBlade)))
      || (decide (x.state = .inService) && !x.active && !s.guardRefuses i))

/-- The test of a slot's handle response (R28). In AWAIT-POWER acting cancels the ADMIT, and the queue's
head is examined before the slot's next waiting order starts (log 44); in IN-SERVICE it begins a
retirement with reason 240. -/
def handleTest (i : SlotId) (s : State) : State :=
  if s.handleActs i then
    if (s.slot i).state = .awaitPower then
      testNext i (finishActive i .cancelled none []
        (changeStateOwn i .parked .handle (removeEntry i s)))
    else
      beginRetirement i ⟨Config.handleReason, false, (s.slot i).policy.stampOnHandle, none⟩ .handle
        (s.activeTag i) s
  else s

/-! ### Answers to the sequencer's own requests -/

/-- A page returned to a READ-IDENTITY (R51, R155). -/
def readPage (i : SlotId) (r : PageRead) (page : List Byte) (s : State) : State :=
  if r.left = 0 then testNext i (finishActive i .done none (r.data ++ page) s)
  else placeOwn i (.identPage (r.page + 1)) (s.modSlot i fun x =>
    { x with read := some ⟨r.page + 1, r.left - 1, r.data ++ page⟩ })

/-- Start the program limit if it is absent (R157, R160). -/
def Stamp.startLimit (now : Time) (p : Stamp) : Stamp :=
  { p with limit := some (p.limit.getD (after now Config.programLimit)) }

/-- Where a row stands in its page: page 6 or 7, byte 8 times (r modulo 4) (R148). -/
def rowPage (r : Fin 8) : Fin 8 := if r.val < 4 then 6 else 7

/-- The eight bytes at a row's place in its page (R148, R160). -/
def rowBytes (r : Fin 8) (page : List Byte) : List Byte := (page.drop (8 * (r.val % 4))).take 8

/-- The answer to a stamp's own request (R157, R160). BUSY starts the program limit; the request is
asked again. -/
def stampAnswer (i : SlotId) (p : Stamp) (r : Reply) (s : State) : State :=
  match r.answer with
  | .busy =>
    putBack i Config.busyReask
      (s.modSlot i fun x => { x with stamp := some (p.startLimit s.time) })
  | .noLoad => if p.step = .commit then stampEnd i .failed s else s
  | .ok =>
    match p.step with
    | .load =>
      placeOwn i (.rowCommit p.row)
        (s.modSlot i fun x => { x with stamp := some { p with step := .commit, limit := none } })
    | .commit =>
      askProbe i .sequencer (s.modSlot i fun x =>
        { x with stamp := some { p with
            step := .programming
            limit := some (after s.time Config.programLimit) } })
    | .programming => s
    | .verify =>
      stampEnd i (if rowBytes p.row r.payload = p.bytes then .written else .failed) s
  | .pending | .accept | .refuse | .later | .clear | .report => s

/-- The answer to one of the sequencer's own requests is taken by its activity (R16, R51, R148, R151,
R157); BUSY is asked again 5 ms later (R131). -/
def ownAnswer (i : SlotId) (m : Msg) (r : Reply) (s : State) : State :=
  match (s.slot i).stamp with
  | some p => stampAnswer i p r s
  | none =>
    match r.answer with
    | .busy => putBack i Config.busyReask s
    | .ok =>
      match m with
      | .identPage _ =>
        match (s.slot i).survey, (s.slot i).read with
        | some v, _ => surveyPage i v r.payload s
        | none, some d => readPage i d r.payload s
        | none, none => s
      | .probe | .rowLoad _ _ | .rowCommit _ | .quiesce | .pathOpen _ | .pathClose _ | .pathLost _
      | .admitNode _ | .withdraw _ | .drop _ => s
    | .noLoad | .pending | .accept | .refuse | .later | .clear | .report => s

/-! ### The end of a resumption (R199 to R201) -/

/-- Hand a RESUMED notice; it carries no order tag (R201). -/
def handResumed (i : SlotId) (detail : ResumedDetail) (s : State) : State :=
  handNotice (slotNotice s i (.resumed detail) none) s

/-- A resumption ends in IN-SERVICE (R199, R200). -/
def resumeService (i : SlotId) (s : State) : State :=
  settleInService i (changeStateOwn i .inService .restart s)

/-- A resumption ends in BOOTING, with a fresh boot limit (R199). -/
def resumeBooting (i : SlotId) (s : State) : State :=
  (changeStateOwn i .booting .restart s).modSlot i fun x =>
    { x with boot := some (after s.time (s.bootLimit i)) }

/-- A blade-originated fault ends the resumption (R199, R200): FAULTED under CUT, IN-SERVICE under
NOTIFY. -/
def resumeFault (i : SlotId) (cause : FaultCause) (detail : ResumedDetail) (s : State) : State :=
  let s1 := raiseFault i cause (handResumed i detail s)
  if (s1.slot i).state = .resuming then resumeService i s1 else s1

/-- The answer to the resumption's PROBE ends it (R199). -/
def resumeAnswer (i : SlotId) (st : AgentState) (s : State) : State :=
  match st with
  | .fault => resumeFault i .agentFault .agentFault s
  | .standby | .booting => resumeBooting i (handResumed i .booting s)
  | .ready | .draining | .drained | .programming =>
    if (s.pwr i).resetHold.isSome then resumeBooting i (handResumed i .booting s)
    else resumeService i (handResumed i .service s)

/-! ### PROBE answers and the loss of the link -/

/-- Record a PROBE answer (R137): the cause byte is kept for FAULT only. -/
def Slot.recordAgent (st : AgentState) (cause : Byte) (x : Slot) : Slot :=
  { x with
    lastAgent := some st
    lastCause := if st = .fault then cause else 0
    agentFault := decide (st = .fault) }

/-- A PROBE answer taken in step PROGRAMMING of a stamp (R158). -/
def programmingAnswer (i : SlotId) (p : Stamp) (st : AgentState) (s : State) : State :=
  if st = .programming then
    s.modSlot i fun x =>
      { x with stamp := some { p with pause := some (after s.time Config.probePause) } }
  else
    placeOwn i (.identPage (rowPage p.row)) (s.modSlot i fun x =>
      { x with stamp := some { p with step := .verify, limit := none, pause := none } })

/-- What a recorded PROBE answer brings in the state the slot is in (R10, R16, R158). READY counts in
BOOTING once the blade reset is released (log 28). -/
def stateAnswer (i : SlotId) (st : AgentState) (s : State) : State :=
  match (s.slot i).state, (s.slot i).stamp with
  | .booting, _ =>
    if st = .ready ∧ (s.pwr i).resetAsserted = false then
      beginJoin i (changeStateOwn i .joining .ready s)
    else s
  | .quiescing, _ => if st = .drained then quiesceEnd i .drained s else s
  | .stamping, some p => if p.step = .programming then programmingAnswer i p st s else s
  | _, _ => s

/-- A PROBE answer is delivered to the sequencer (R137): recorded, then taken by the slot's state. A
FAULT in a payload-on state raises AGENT-FAULT unless the answer before it was FAULT too (R19). -/
def probeAnswer (i : SlotId) (st : AgentState) (cause : Byte) (s : State) : State :=
  let repeated := (s.slot i).agentFault
  let s1 := s.modSlot i (Slot.recordAgent st cause)
  if (s.slot i).state = .resuming then resumeAnswer i st s1
  else stateAnswer i st
    (if st = .fault ∧ repeated = false then reportFault i .agentFault s1 else s1)

/-- A READ-IDENTITY ends LINK-LOST with the pages returned before the loss (R51). -/
def readLost (i : SlotId) (s : State) : State :=
  match (s.slot i).read with
  | some r => testNext i (finishActive i .linkLost none r.data s)
  | none => s

/-- The loss of the link as the slot's state takes it (R6, R17, R19, R200): SURVEYING ends its survey,
a stamp ends FAILED before the fault is taken, RESUMING ends its resumption, another payload-on state
raises LINK-LOST. The report of a switch that the stamp's end opened is taken after the fault
(log 14). -/
def stateLinkLost (i : SlotId) (s : State) : State :=
  if (s.slot i).state = .surveying then surveyEnd i .invalid .link s
  else if (s.slot i).state = .stamping then reportFault i .linkLost (stampEnd i .failed s)
  else if (s.slot i).state = .resuming then resumeFault i .linkLost .linkLost s
  else reportFault i .linkLost s

/-- The sequencer takes the loss of its link (R143 step 5); a page read under way ends last
(log 15). -/
def seqLinkLost (i : SlotId) (s : State) : State := readLost i (stateLinkLost i s)

/-! ### Reports of Payload Power Control -/

/-- Power good is taken in a ramping slot (R87): the ramp ends, the power-good time, on-reference and
reset hold are set, and the slot moves to BOOTING with its boot limit (R9, R10). A SET-TIMING that the
end of the ramp lets apply is served after the move (log 40). -/
def powerGoodTaken (i : SlotId) (s : State) : State :=
  if (s.pwr i).rampLimit.isSome then
    let s1 := (rampEnded i s).modPower i fun p =>
      { p with
        rampLimit := none
        goodTime := s.time
        onRef := some (after s.time Config.horizon)
        resetHold := some (after s.time Config.resetHold) }
    if (s.slot i).state = .ramping then
      (changeStateOwn i .booting .powerGood s1).modSlot i fun x =>
        { x with boot := some (after s.time (s.bootLimit i)) }
    else s1
  else s

/-- The ramp limit passes (R88). -/
def rampSlow (i : SlotId) (s : State) : State :=
  reportFault i .rampSlow ((rampEnded i s).modPower i fun p => { p with rampLimit := none })

/-- A trip on a slot whose latch is ON (R90, R91): the power-off, then RAMP-TRIP if the slot was
ramping, else OVERCURRENT. -/
def tripTaken (i : SlotId) (s : State) : State :=
  if (s.pwr i).switchOn then
    reportFault i (if (s.pwr i).rampLimit.isSome then .rampTrip else .overcurrent) (powerOff i s)
  else s

/-- A trip while the RESET line is held (R97): the latch and reset output only. -/
def tripHeld (i : SlotId) (s : State) : State :=
  if (s.pwr i).switchOn then
    s.modPower i fun p => { p with switchOn := false, resetAsserted := true }
  else s

/-- A fall of power good on a slot whose latch is ON and whose ramp has ended (R90). -/
def powerGoodLost (i : SlotId) (s : State) : State :=
  if (s.pwr i).switchOn && (s.pwr i).rampLimit.isNone then reportFault i .powerLost s else s

end Sys2Proof.Machine
end

