-- ==== Sys2Proof/Machine/Frames.lean ====
section
/-! DEFINITION. What ends an attempt on a slot link (06_slot_links.md R127, R128, R131, R136, R143,
R145): a frame, the reply deadline, the loss of the link and its recovery. -/

namespace Sys2Proof.Machine

/-- The outstanding request ends (R128, R135). -/
def endRequest (i : SlotId) (s : State) : State := s.modEngine i fun e => { e with out := none }

/-- After a request has ended: the ALERT test at the end of a PROBE (R138), then the engine sends
what is ready (R132). The test is made before the event's follow-up work places anything (log 46). -/
def afterRequest (i : SlotId) (m : Msg) (s : State) : State :=
  serveLink i (if m = .probe then alertTest i s else s)

/-- Hand a LINK notice (R146). -/
def linkNotice (i : SlotId) (recovered : Bool) (s : State) : State :=
  handNotice (slotNotice s i (.link recovered) (s.activeTag i)) s

/-- The link is lost (R143): request and queue are emptied and the link is LOST, the coordinator
resolves the ports, the LINK notice is handed, and the sequencer takes the loss. The recovery deadline
of step 6 is set with the link state; nothing in between reads it. -/
def linkLoss (i : SlotId) (s : State) : State :=
  let s1 := s.modEngine i fun e =>
    { e with
      out := none
      queue := []
      link := .lost
      recovery := some (after s.time Config.recoveryInterval) }
  seqLinkLost i (linkNotice i false (resolveLoss i s1))

/-- The attempt of the outstanding request `o` has failed (R128, R135, R136, R145): an overtaken
request or a notification ends; a live one is sent again up to three times; then a recovery probe ends
and any other request loses the link. -/
def failAttempt (i : SlotId) (o : Outstanding) (s : State) : State :=
  if !o.live || o.msg.isNotification then afterRequest i o.msg (endRequest i s)
  else if o.attempt < Config.maxAttempts then
    s.modEngine i fun e =>
      { e with out := some { o with
          attempt := o.attempt + 1
          deadline := after s.time Config.replyLimit } }
  else if o.recovery || !s.linkUp i then endRequest i s
  else linkLoss i s

/-- A recovery probe is answered (R145): the link is UP, its ports are tested for an offer (R122), and
the LINK notice is handed. The ports go in ascending order, a hub's node 1 first, which R105 and R122
leave open for a link that becomes UP (DESIGN CHOICE, log 50). -/
def linkRecovered (i : SlotId) (s : State) : State :=
  linkNotice i true (offerTests (slotPorts i)
    (s.modEngine i fun e => { e with link := .up, recovery := none }))

/-- Deliver the answer of a live request to its placer, the sequencer for its own requests and the
coordinator for a port message; a PROBE's answer goes to the sequencer whichever block placed it (R130,
R131, R137). -/
def deliver (i : SlotId) (o : Outstanding) (r : Reply) (s : State) : State :=
  match o.msg with
  | .probe =>
    match AgentState.ofCode (byteAt r.payload 0) with
    | some st => probeAnswer i st (byteAt r.payload 1) (if o.recovery then linkRecovered i s else s)
    | none => s
  | .identPage _ | .rowLoad _ _ | .rowCommit _ | .quiesce => ownAnswer i o.msg r s
  | .pathOpen _ | .pathClose _ | .admitNode _ | .withdraw _ => portAnswer i o.msg r.answer s
  | .pathLost _ | .drop _ => s

/-- A reply to the outstanding request `o` is taken (R131, R135, R136): a live request's answer is
delivered, the request ends, and the engine goes on. What the placer places while it takes the answer
is sent in queue order once the answer has been taken (R132, R145, log 39). -/
def takeReply (i : SlotId) (o : Outstanding) (r : Reply) (s : State) : State :=
  afterRequest i o.msg
    (endRequest i (if o.live && !o.msg.isNotification then deliver i o r s else s))

/-- A frame arrives on a slot link (R127): ignored with no request outstanding; else it is the reply
to the outstanding request or it ends the attempt as failed. -/
def frameTaken (i : SlotId) (frame : List Byte) (s : State) : State :=
  match (s.engine i).out with
  | none => s
  | some o =>
    match judgeReply o.msg o.seq frame with
    | some r => takeReply i o r s
    | none => failAttempt i o s

/-- The reply deadline passes (R128). -/
def replyExpired (i : SlotId) (s : State) : State :=
  match (s.engine i).out with
  | none => s
  | some o => if reached s.time o.deadline then failAttempt i o s else s

/-- The recovery deadline passes while the link is LOST (R145): a recovery probe is sent and the next
deadline set. -/
def recoveryExpired (i : SlotId) (s : State) : State :=
  if (s.engine i).link = .lost ∧ due s.time (s.engine i).recovery then
    s.modEngine i fun e =>
      { (if e.out = none then e.send s.time .probe .engine true else e) with
        recovery := some (after s.time Config.recoveryInterval) }
  else s

/-- The poll deadline passes (R139): the engine places a PROBE, and the next deadline is set by the state's
interval (log 17). -/
def pollExpired (i : SlotId) (s : State) : State :=
  if due s.time (s.engine i).poll then
    (askProbe i .engine s).modEngine i fun e => { e with poll := pollDeadline s.time (s.slot i).state }
  else s

end Sys2Proof.Machine
end

