-- ==== Sys2Proof/Machine/Intake.lean ====
section
/-! DEFINITION. The Order Intake (02_orders.md R36 to R40): which cell is taken, the intake checks,
the lists, and the immediate orders (R53 to R56). -/

namespace Sys2Proof.Machine

/-- The cells in the order the intake looks at them: upward from the pointer, from 31 to 0 (R36). -/
def cellsFrom (p : CellId) : List CellId := (List.finRange 32).map fun k => p + k

/-- The posted cells in that order. -/
def State.postedCells (s : State) : List CellId :=
  (cellsFrom s.pointer).filter fun c => decide (s.cell c = .posted)

/-- The cell the intake takes next, if RUN is set and a cell is posted (R36). -/
def State.intakeNext (s : State) : Option CellId := if s.port.run then s.postedCells.head? else none

/-! ### The intake checks (R38) -/

/-- Step 2: the slot suits the kind's class. -/
def State.slotSuits (s : State) (c : CellId) (k : OrderKind) : Bool :=
  match k.orderClass with
  | .slotQueued | .immediate => (s.cellSlot c).isSome
  | .shelfQueued => decide (s.rd8 c 0x05 = 0)

/-- Steps 4 to 7 for a kind whose cell names slot `i`. -/
def slotRefusal (s : State) (c : CellId) (k : OrderKind) (i : SlotId) : Option OrderRefusal :=
  match k.orderClass with
  | .slotQueued =>
    if (s.slot i).state = .vacant then some .slotEmpty
    else if Config.listDepth ≤ (s.slot i).orders.length then some .listFull
    else none
  | .immediate =>
    if !conditionMatches (s.cellCondition c) (s.slot i).gen then some .stale
    else if !k.allows (s.slot i).state then some .wrongState
    else none
  | .shelfQueued => none

/-- The refusal of the first intake check that fails, none when all pass (R38). -/
def intakeRefusal (s : State) (c : CellId) : Option OrderRefusal :=
  match s.cellKind c with
  | none => some .badKind
  | some k =>
    if !s.slotSuits c k then some .badSlot
    else if !s.paramsInRange c k then some .badParam
    else match s.cellSlot c with
      | some i => slotRefusal s c k i
      | none => if Config.listDepth ≤ s.alloc.shelf.length then some .listFull else none

/-! ### The three courses of a take (R37, R40) -/

/-- Refuse at intake, with the generation and state of the slot the cell names, if any (R39). -/
def refuseIntake (c : CellId) (code : OrderRefusal) (s : State) : State :=
  refuseCell c code (s.cellSlot c) s.time s

/-- Place a slot-queued order at the tail of its slot's list; the head is tested (R40, R13). -/
def queueSlotOrder (c : CellId) (k : OrderKind) (i : SlotId) (s : State) : State :=
  ((s.modSlot i fun x => { x with orders := x.orders ++ [⟨c, k, s.time⟩] }).setCell c .taken).raise
    [.start i]

/-- Place a shelf-queued order at the tail of the shelf list; on a list that was empty it is at the
front and is served (R40, R73). -/
def queueShelfOrder (c : CellId) (k : OrderKind) (s : State) : State :=
  let s1 := ((s.modAlloc fun a => { a with shelf := a.shelf ++ [⟨c, k, s.time⟩] }).setCell c
    .taken).touchShelf
  if s.alloc.shelf.isEmpty then s1.raise [.serve] else s1

/-- Finish an immediate order's own cell (R40). -/
def finishOwn (c : CellId) (i : SlotId) (outcome : OrderOutcome) (s : State) : State :=
  finishCell c i outcome s.time none [] s

/-! ### The immediate orders -/

/-- CUT (R53), in the order of its steps; the slot's orders finish before the CUT (R47). The
examination of the head that a release or a removed queue entry brings follows (log 27). -/
def actCut (c : CellId) (i : SlotId) (s : State) : State :=
  let tag := some (s.cellTag c)
  if (s.slot i).state = .awaitPower then
    finishOwn c i .done (finishAll i .overtaken (changeState i .parked .order tag (removeEntry i s)))
  else
    let s1 := isolateSlot i (powerOff i (changeState i .parked .order tag s))
    finishOwn c i .done (finishAll i .overtaken (endOwn i (returnClaim i s1)))

/-- CANCEL of a slot whose active order is an ADMIT in AWAIT-POWER (R54). -/
def cancelAdmit (c : CellId) (i : SlotId) (s : State) : State :=
  let s1 := changeState i .parked .order (some (s.cellTag c)) (removeEntry i s)
  finishWaiting i .cancelled (finishActive i .cancelled none [] s1)

/-- CANCEL (R54): the waiting orders, and an ADMIT in AWAIT-POWER, finish CANCELLED. The examination of the
head that a removed queue entry brings follows the CANCEL's cell (log 27). -/
def actCancel (c : CellId) (i : SlotId) (s : State) : State :=
  if (s.slot i).state = .awaitPower ∧ s.activeKind i = some .admitBlade then
    finishOwn c i .done (cancelAdmit c i s)
  else
    finishOwn c i (if (s.slot i).waiting.isEmpty then .nothing else .done)
      (finishWaiting i .cancelled s)

/-- HOLD (R55). -/
def actHold (c : CellId) (i : SlotId) (s : State) : State :=
  finishOwn c i (if (s.slot i).hold then .nothing else .done)
    (s.modSlot i fun x => { x with hold := true })

/-- UNHOLD (R55): clearing the flag brings the test of the handle response before the cell is written,
which shows the move the request made. What that move brings (the start of the slot's next order, the
examination of the queue's head, join and leave tests) follows the cell (log 33). -/
def actUnhold (c : CellId) (i : SlotId) (s : State) : State :=
  if (s.slot i).hold then
    finishOwn c i .done (handleTest i (s.modSlot i fun x => { x with hold := false }))
  else finishOwn c i .nothing s

/-- SET-POLICY (R56): all three parts, then the test of the handle response, then the cell. That the
next order's start and the examination of the queue's head, which the request's move brings, follow the
cell, and the cell shows that move, is the model's choice, as for UNHOLD (log 33). -/
def actSetPolicy (c : CellId) (i : SlotId) (s : State) : State :=
  finishOwn c i .done (handleTest i (s.modSlot i fun x => { x with policy := s.policyParam c }))

/-- An order that passed the intake checks is handled by its kind (R40). An immediate order acts at once,
and what follows is brought by it (R103). -/
def handleKind (c : CellId) (k : OrderKind) (s : State) : State :=
  match s.cellSlot c with
  | none =>
    match k with
    | .setBudget | .setTiming => queueShelfOrder c k s
    | .admitBlade | .retire | .survey | .readIdentity | .clearFault | .cut | .cancel | .hold | .unhold
    | .setPolicy => s
  | some i =>
    match k with
    | .admitBlade | .retire | .survey | .readIdentity | .clearFault => queueSlotOrder c k i s
    | .cut => actCut c i (s.onBehalf c)
    | .cancel => actCancel c i (s.onBehalf c)
    | .hold => actHold c i (s.onBehalf c)
    | .unhold => actUnhold c i (s.onBehalf c)
    | .setPolicy => actSetPolicy c i (s.onBehalf c)
    | .setBudget | .setTiming => s

/-! ### The take -/

/-- The intake takes cell `c` (R36, R37, R180): the pointer moves past it, the checks are made, and
the order is refused, acts, or joins its list. -/
def takeCell (c : CellId) (s : State) : State :=
  let s1 := { s with pointer := c + 1 }
  match intakeRefusal s1 c with
  | some code => refuseIntake c code s1
  | none =>
    match s1.cellKind c with
    | some k => handleKind c k s1
    | none => s1

/-- The take of a cell whose kind is `kind`, `none` standing for a kind byte that matches no kind; when
the cell the intake takes next is none of that kind nothing happens (log 2). -/
def takeKind (kind : Option OrderKind) (s : State) : State :=
  match s.intakeNext with
  | some c => if s.cellKind c = kind then takeCell c s else s
  | none => s

end Sys2Proof.Machine
end

