-- ==== Sys2Proof/Machine/Formats.lean ====
section
/-! DEFINITION. How the Shelf Area and the registers read (11_formats.md): the record of a slot as the
sequencer keeps it (R32), the bytes of every structure, the words of the window (R175, R176, R188),
and the order in which the part writes a record (R182). -/

namespace Sys2Proof.Machine

/-! ### The slot record (R32) -/

/-- A port as the port mirror shows it (R102). -/
structure MirrorPort where
  state    : PortState
  declined : Bool
  attempts : Nat
deriving DecidableEq, Repr

/-- The fields of a slot record but for its update count (R32). -/
structure RecordView where
  gen        : Word16
  state      : SlotState
  prev       : SlotState
  entry      : Time
  presence   : Presence
  handleOpen : Bool
  latch      : Bool
  hold       : Bool
  policy     : Policy
  idStatus   : IdStatus
  idReason   : IdReason
  ident      : Identity
  claim      : Nat
  waitReason : Option WaitReason
  queuePos   : Nat
  goodTime   : Time
  offTime    : Time
  fault      : Option FaultCause
  faultTime  : Time
  link       : LinkState
  lastAgent  : Option AgentState
  lastCause  : Byte
  mirror     : List MirrorPort
  nextRow    : Fin 8
  nextSeq    : Byte
  lastStamp  : Option StampResult
  admissions : Nat
  minutes    : Nat
  activeCell : Option CellId
  waiting    : Nat
deriving DecidableEq, Repr

/-- A port as a slot's mirror shows it: a hub's mirror shows the states alone (R32, R102). -/
def State.mirrorPort (s : State) (hub : Bool) (p : PortId) : MirrorPort :=
  let x := s.portOf p
  if hub then ⟨x.state, false, 0⟩ else ⟨x.state, x.declined, x.attempts⟩

/-- The cell of a slot's active order. -/
def Slot.activeCell (x : Slot) : Option CellId :=
  match x.active, x.orders with
  | true, e :: _ => some e.cell
  | true, [] => none
  | false, _ => none

/-- The fields of a slot's record as they stand (R32). -/
def State.recordView (s : State) (i : SlotId) : RecordView :=
  let x := s.slot i
  let p := s.pwr i
  { gen := x.gen, state := x.state, prev := x.prev, entry := x.entry, presence := x.presence,
    handleOpen := x.handleOpen, latch := x.latch, hold := x.hold, policy := x.policy,
    idStatus := x.idStatus, idReason := x.idReason, ident := x.ident, claim := x.claim,
    waitReason := x.waitReason, queuePos := x.queuePos, goodTime := p.goodTime,
    offTime := p.offTime, fault := x.fault, faultTime := x.faultTime,
    link := (s.engine i).link, lastAgent := x.lastAgent, lastCause := x.lastCause,
    mirror := (slotPorts i).map (s.mirrorPort (isHub i)), nextRow := x.nextRow,
    nextSeq := x.nextSeq, lastStamp := x.lastStamp, admissions := x.admissions,
    minutes := x.minutes, activeCell := x.activeCell, waiting := x.waiting.length }

/-! ### Bytes of the structures -/

/-- Two bytes of a count. -/
def natLe16 (n : Nat) : List Byte := le16 (BitVec.ofNat 16 n)

/-- `n` unused bytes, written 0 (R203). -/
def zeros (n : Nat) : List Byte := List.replicate n 0

/-- The policy byte of a slot record. -/
def Policy.byte (p : Policy) : Byte :=
  (if p.handle = .selfRetire then 1 else 0) ||| (if p.fault = .notify then 2 else 0)
    ||| (if p.stampOnHandle then 4 else 0)

/-- The 14 bytes of a port mirror. -/
def mirrorBytes (hub : Bool) (ports : List MirrorPort) : List Byte :=
  if hub then ports.map fun m => m.state.code
  else ports.flatMap (fun m => [m.state.code, flagByte m.declined, BitVec.ofNat 8 m.attempts]) ++ zeros 8

/-- The 128 bytes of a slot record. -/
def recordBytes (hub : Bool) (v : RecordView) (upd : Word16) : List Byte :=
  let copy := le16 v.gen ++ le16 upd
  copy
    ++ [v.state.code, v.prev.code, v.presence.code, flagByte v.handleOpen] ++ le32 v.entry
    ++ [flagByte v.latch ||| (flagByte v.hold <<< 1), v.policy.byte, v.idStatus.code, v.idReason.code]
    ++ [v.ident.format, v.ident.kind] ++ le16 v.ident.vendor ++ le16 v.ident.draw
    ++ [v.ident.inrush, v.ident.bootHint] ++ (v.ident.serial ++ zeros 8).take 8
    ++ natLe16 v.claim ++ [waitByte v.waitReason, BitVec.ofNat 8 v.queuePos]
    ++ le32 v.goodTime ++ le32 v.offTime
    ++ [faultByte v.fault, v.link.code, agentByte v.lastAgent, v.lastCause] ++ le32 v.faultTime
    ++ mirrorBytes hub v.mirror
    ++ [BitVec.ofNat 8 v.nextRow.val, v.nextSeq, stampByte v.lastStamp, BitVec.ofNat 8 v.admissions]
    ++ natLe16 v.minutes
    ++ [match v.activeCell with
        | some c => BitVec.ofNat 8 c.val
        | none => 0xFF, BitVec.ofNat 8 v.waiting]
    ++ zeros 50 ++ copy

/-- The four bytes of a gap mask. -/
def maskBytes (m : BitVec 17) : List Byte := le32 (m.setWidth 32)

/-- The 240 bytes of the shelf record, from 0x0010. -/
def State.shelfBytes (s : State) : List Byte :=
  let copy := le16 s.shelfRevision ++ zeros 2
  let a := s.alloc
  let t := s.settings
  copy ++ natLe16 a.capacity ++ natLe16 a.hubReserve ++ natLe16 a.granted
    ++ [flagByte a.feedALost, flagByte a.feedBLost]
    ++ natLe16 t.rampGap ++ natLe16 t.rampWindow ++ natLe16 t.minOn ++ natLe16 t.minOff
    ++ natLe16 t.drainLimit ++ [BitVec.ofNat 8 t.windowLimit, BitVec.ofNat 8 s.history.length]
    ++ le32 (BitVec.ofNat 32 t.quiesceLimit)
    ++ (s.history.flatMap le32 ++ zeros 16).take 16
    ++ ((a.queue.map fun e => slotByte e.slot) ++ zeros 16).take 16
    ++ (a.shelf.flatMap (fun (e : OrderEntry) => [BitVec.ofNat 8 e.cell.val, e.kind.code])
      ++ [0xFF, 0, 0xFF, 0, 0xFF, 0, 0xFF, 0]).take 8
    ++ maskBytes s.journal.gapMask
    ++ [flagByte s.journal.gapPending, s.straps.shelfNumber.setWidth 8, s.straps.budgetCode.setWidth 8,
        s.straps.feedLevel.setWidth 8, flagByte s.straps.feedHold,
        flagByte (decide (s.straps.handleDefault = .selfRetire)),
        flagByte (decide (s.straps.faultDefault = .notify))]
    ++ zeros 157 ++ copy

/-- The 16 bytes of the area header (R176). -/
def headerBytes : List Byte := [1, 0, 32, 16] ++ le16 128 ++ zeros 10

/-- The kind and detail bytes of a notice (11 Code values). -/
def NoticeBody.codes : NoticeBody → Byte × Byte
  | .state d => (1, d.code)
  | .surprise => (2, 0)
  | .handle d => (3, d.code)
  | .fault c => (4, c.code)
  | .port d _ _ => (5, d.code)
  | .link recovered => (6, if recovered then 2 else 1)
  | .feed f lost => (7, match f, lost with
      | .a, true => 1
      | .a, false => 2
      | .b, true => 3
      | .b, false => 4)
  | .stamp r => (8, r.code)
  | .resumed d => (9, d.code)
  | .settings timing => (10, if timing then 2 else 1)
  | .gap _ => (11, 0)

/-- The port hub and port state bytes of a notice, 0 and 0xFF when absent (R203). -/
def NoticeBody.portBytes : NoticeBody → List Byte
  | .port _ h st => [BitVec.ofNat 8 (15 + h.val), st.code]
  | .state _ | .surprise | .handle _ | .fault _ | .link _ | .feed _ _ | .stamp _ | .resumed _
  | .settings _ | .gap _ => [0, 0xFF]

/-- The gap mask of a notice, empty except in GAP (R165). -/
def NoticeBody.mask : NoticeBody → BitVec 17
  | .gap m => m
  | .state _ | .surprise | .handle _ | .fault _ | .port _ _ _ | .link _ | .feed _ _ | .stamp _
  | .resumed _ | .settings _ => 0

/-- The 32 bytes of a notice (11 The journal notice). -/
def Notice.bytes (n : Notice) : List Byte :=
  [n.body.codes.1, match n.slot with
    | some i => slotByte i
    | none => 0, n.body.codes.2, stateByte n.state]
    ++ le32 n.time ++ le16 n.gen ++ [stateByte n.prev] ++ n.body.portBytes
    ++ [flagByte n.tag.isSome] ++ le16 (n.tag.getD 0) ++ maskBytes n.body.mask ++ zeros 12

/-- The 32 bytes of a journal entry, zero if no notice has been written there (R163). -/
def entryBytes : Option Notice → List Byte
  | some n => n.bytes
  | none => zeros 32

/-- The 128 bytes of a cell (11 The order cell): the state word, then the body. -/
def State.cellByte (s : State) (c : CellId) (k : Nat) : Byte :=
  if k = 0 then (s.cell c).code else if k < 4 then 0 else s.rd8 c k

/-! ### The window (R175, R176, R188) -/

/-- The byte of the Shelf Area at an offset (R176). -/
def State.areaByte (s : State) (a : Nat) : Byte :=
  if a < 0x10 then byteAt headerBytes a
  else if a < 0x100 then byteAt s.shelfBytes (a - 0x10)
  else if a < 0x104 then byteAt (le16 s.journal.writeCount) (a - 0x100)
  else if a < 0x108 then byteAt (le16 s.journal.readCount) (a - 0x104)
  else if a < 0x400 then 0
  else if a < 0x1400 then
    s.cellByte (Fin.ofNat 32 ((a - 0x400) / 128)) ((a - 0x400) % 128)
  else if a < 0x1C00 then
    let i : SlotId := Fin.ofNat 16 ((a - 0x1400) / 128)
    byteAt (recordBytes (isHub i) (s.recordView i) (s.slot i).upd) ((a - 0x1400) % 128)
  else if a < 0x2000 then 0
  else if a < 0x3000 then
    byteAt (entryBytes (s.journal.entries[(Fin.ofNat 128 ((a - 0x2000) / 32)).val]'(Fin.isLt _)))
      ((a - 0x2000) % 32)
  else 0

/-- The register at an offset of the upper half; nothing beyond the five reads 0 (R188). -/
def State.register (s : State) (a : Nat) : Word :=
  if a = 0x4000 then s.control
  else if a = 0x4004 then s.status
  else if a = 0x4008 then s.port.attention.setWidth 32
  else if a = 0x400C then s.port.enable.setWidth 32
  else if a = 0x4010 then s.time
  else 0

/-- What a host read of the word at offset `a` returns: zeros while the RESET line is asserted
(R175). -/
def State.readWord (s : State) (a : Nat) : Word :=
  if s.held then 0
  else if a < 0x4000 then
    ofBytes32 (s.areaByte a) (s.areaByte (a + 1)) (s.areaByte (a + 2)) (s.areaByte (a + 3))
  else s.register a

/-! ### The run of a record write (R182, R183) -/

/-- The words of one record write as the part makes them, each an index from the record's start with
its value: the trailing copy word, then the body, then the leading copy word (R2, R182, R183). -/
def recordRun (words : List Word) : List (Nat × Word) :=
  match words with
  | [] => []
  | lead :: rest =>
    match rest.reverse with
    | [] => [(0, lead)]
    | trail :: _ =>
      (rest.length, trail) :: ((rest.dropLast.mapIdx fun k w => (k + 1, w)) ++ [(0, lead)])

end Sys2Proof.Machine
end

