-- ==== Sys2Proof/Machine/Restart.lean ====
section
/-! DEFINITION. Power-on reset, the hold of the RESET line and the warm restart
(10_start_up_and_warm_restart.md), with each block's own part in them. -/

namespace Sys2Proof.Machine

/-! ### The blocks at a warm restart -/

/-- The Management Port (R178, R186, R194): registers 0, the new cause, RESTARTED latched. -/
def MgmtPort.restart (cause : ResetCause) (p : MgmtPort) : MgmtPort :=
  { p with
    run := false
    noticeEnable := false
    attention := Attention.restarted.mask
    enable := 0
    cause := cause }

/-- A RECENT reference's horizon set afresh from its kept time; one whose time is 60000 ms or more ago,
modulo 2^32, has passed its horizon and is CLEAR (R94, R97 step 1). -/
def keepRef (now : Time) (ref : Option Time) (time : Time) : Option Time :=
  if refPassed now ref time Config.horizon then none else some (after time Config.horizon)

/-- Payload Power Control keeps its references and cancels its deadlines (R97 steps 1 and 2). -/
def Power.restartKeep (now : Time) (p : Power) : Power :=
  { p with
    rampLimit := none
    resetHold := none
    deferral := none
    minute := none
    onRef := keepRef now p.onRef p.goodTime
    offRef := keepRef now p.offRef p.offTime }

/-- What Payload Power Control finds of one slot, whose record shows `st` and whose power-good input
has level `good` (R97 steps 3 to 5). -/
def Power.restart (now : Time) (st : SlotState) (good : Bool) (p : Power) : Power :=
  let q := p.restartKeep now
  if !q.switchOn then
    if st.payloadOn then { q with offTime := now, offRef := some (after now Config.horizon) } else q
  else if good then
    let r := if st = .ramping then
      { q with goodTime := now, onRef := some (after now Config.horizon) } else q
    { r with
      resetHold := if r.resetAsserted then some (after now Config.resetHold) else none
      minute := some (after now Config.minute) }
  else q

/-- The allocator (R72). -/
def Allocator.restart (a : Allocator) : Allocator :=
  { a with queue := [], reexam := none, shelf := [], ramping := [] }

/-- A sequencer lets go of its work (R195). -/
def Slot.letGo (x : Slot) : Slot :=
  { x with
    orders := []
    active := false
    retire := none
    survey := none
    read := none
    stamp := none
    settle := none
    boot := none
    quiesce := none }

/-- The move of one slot (R196). SEATING enters VACANT, with the clearing of that entry (R25, R106); a
slot still RESUMING is judged afresh (R199, R202). -/
def restartMove (s : State) (i : SlotId) : State :=
  match (s.slot i).state with
  | .seating =>
    clearDeclined i ((changeState i .vacant .restart none s).modSlot i Slot.clearBlade)
  | .awaitPower => changeState i .parked .restart none s
  | .ramping | .booting | .joining | .inService | .leaving | .quiescing | .stamping
  | .poweringOff => changeState i .resuming .restart none s
  | .resuming => s.modSlot i fun x => { x with agentFault := false }
  | .vacant | .surveying | .parked | .faulted => s

/-- The rebuild of one port from its gate latch (R124). -/
def rebuildPort (s : State) (p : PortId) : State :=
  let kept := (s.portOf p).gate && decide ((s.slot (nodeSlot p)).state = .resuming)
    && decide ((s.slot (hubSlot p)).state = .resuming)
  s.modPort p fun x =>
    { x with state := if kept then .opened else .isolated, gate := kept, deadline := none }

/-- A link engine (R147 steps 1 to 4). -/
def Engine.restart (now : Time) (st : SlotState) (e : Engine) : Engine :=
  { e with
    link := if st = .vacant then .absent else .up
    queue := []
    out := none
    recovery := none
    poll := pollDeadline now st }

/-- The engine of one slot at the restart, with its ALERT test (R147). The ALERT test of a slot left in
SURVEYING comes before its survey begins afresh (log 42). -/
def restartLink (s : State) (i : SlotId) : State :=
  let s1 := s.modEngine i (Engine.restart s.time (s.slot i).state)
  if s1.linkUp i then alertTest i s1 else s1

/-- The check of a resuming slot's power stage (R198): POWER-LOST, or a PROBE is asked for. -/
def restartCheck (s : State) (i : SlotId) : State :=
  if (s.slot i).state = .resuming then
    if (s.pwr i).switchOn && (s.pinsOf i).powerGood then askProbe i .sequencer s
    else raiseFault i .powerLost (handResumed i .powerLost s)
  else s

/-- A slot left in SURVEYING begins its survey afresh (R196), after its engine's ALERT test (log 42). -/
def restartSurvey (s : State) (i : SlotId) : State :=
  if (s.slot i).state = .surveying then surveyBegin i (s.modSlot i Slot.clearIdentity) else s

/-- A slot left in VACANT takes its first samples (R196). -/
def restartSample (s : State) (i : SlotId) : State :=
  if (s.slot i).state = .vacant then firstSample i s else s

/-- Finish the detached orders of one slot ABANDONED, with the slot as the moves left it (R195,
R59). Their data are zero, those of an active SURVEY or READ-IDENTITY too, for which the spec gives no
data at an ABANDONED finish (DESIGN CHOICE, log 52). -/
def abandonSlot (lists : Vector (List OrderEntry) 16) (s : State) (i : SlotId) : State :=
  finishEntries i .abandoned lists[i] s

/-- Finish the detached shelf orders ABANDONED (R59, R72). -/
def abandonShelf : List OrderEntry → State → State
  | [], s => s
  | e :: es, s => abandonShelf es (finishShelfCell e.cell .abandoned e.taken s)

/-! ### The warm restart (R194) -/

/-- The registers, Payload Power Control, the allocator, and the work let go (R59, R72, R97, R194,
R195). The shelf record is written (R72, R97 step 6). Every debounce runs from the restart (R76, R197); that
one under way at a RESTART write begins anew is a DESIGN CHOICE (log 18). -/
def restartBlocks (cause : ResetCause) (s : State) : State :=
  { s with
    held := false
    port := s.port.restart cause
    pointer := 0
    debounceFrom := DebounceTimes.all s.time
    power := Vector.ofFn fun (i : SlotId) =>
      (s.pwr i).restart s.time (s.slot i).state (s.pinsOf i).powerGood
    history := ageHistory s.time s.history
    alloc := s.alloc.restart
    slots := s.slots.map Slot.letGo
    shelfDirty := true }

/-- The warm restart (R194 to R198): the blocks let go, slots move, the Port Map is rebuilt, the
detached orders finish ABANDONED (log 19), the engines restart with their ALERT tests (R147 step 5),
resuming slots are checked in ascending order (log 43), surveys begin afresh, their IDENT-PAGE 0 behind
the PROBE of an ALERT (log 42), and VACANT slots take their first samples. -/
def warmRestart (cause : ResetCause) (s : State) : State :=
  let s1 := allSlots.foldl restartMove (restartBlocks cause s)
  let s2 := allPorts.foldl rebuildPort s1
  let s3 := allSlots.foldl (abandonSlot (s.slots.map (·.orders))) s2
  let s4 := abandonShelf s.alloc.shelf s3
  let s5 := allSlots.foldl restartLink s4
  let s6 := allSlots.foldl restartCheck s5
  allSlots.foldl restartSample (allSlots.foldl restartSurvey s6)

/-! ### Power-on reset (R190, R191) -/

/-- One slot's presence arrival after its first sample (R191). -/
def powerOnArrival (s : State) (i : SlotId) : State := presenceChange i .none s

/-- The first samples' arrivals; none while the RESET line holds the part (R193, log 20). -/
def powerOnSamples (s : State) : State :=
  if s.held then s else allSlots.foldl powerOnArrival s

end Sys2Proof.Machine
end

