-- ==== Sys2Proof/Machine/HostPort.lean ====
section
/-! DEFINITION. Host writes at the Management Port (09_shelf_area_and_management_port.md): the guard,
word by word, and the registers. -/

namespace Sys2Proof.Machine

/-- A host write is refused: nothing is stored and ATTENTION.GUARD latches (R177, R188). -/
def refuseWrite (s : State) : State := s.latch .guard

/-- The word after a write that enables some bytes (R175). -/
def mergeWord (old new : Word) (enable : BitVec 4) : Word :=
  let part := fun (k : Nat) =>
    (if enable.getLsbD k then new else old) &&& (0xFF#32 <<< (8 * k))
  part 0 ||| part 1 ||| part 2 ||| part 3

/-- The cell state a state byte names for a host write: only POSTED and FREE are ever stored (R178). -/
def hostChange (old : CellState) (byte : Byte) : Option CellState :=
  match old with
  | .free => if byte = CellState.posted.code then some .posted else none
  | .posted => if byte = CellState.free.code then some .free else none
  | .finished => if byte = CellState.free.code then some .free else none
  | .refused => if byte = CellState.free.code then some .free else none
  | .taken => none

/-- A host write of a cell's state word (R177, R178): with its low byte not enabled nothing changes;
otherwise it makes one of the four host changes or is refused. -/
def writeStateWord (c : CellId) (value : Word) (enable : BitVec 4) (s : State) : State :=
  if enable.getLsbD 0 then
    match hostChange (s.cell c) (value.setWidth 8) with
    | some x => s.setCell c x
    | none => refuseWrite s
  else s

/-- Store the enabled bytes of a word of a cell body. -/
def storeWord (mem : List Host.Cell) (a : Nat) (value : Word) (enable : BitVec 4) : List Host.Cell :=
  let put := fun (m : List Host.Cell) (k : Nat) =>
    if enable.getLsbD k then Memory.write m (a + k) ((value >>> (8 * k)).setWidth 8) else m
  put (put (put (put mem 0) 1) 2) 3

/-- A host write of a word of a cell's body: stored while the cell is FREE, else refused, whichever
bytes it enables (R179, log 24). -/
def writeBodyWord (c : CellId) (a : Nat) (value : Word) (enable : BitVec 4) (s : State) : State :=
  if s.cell c = .free then { s with mem := storeWord s.mem a value enable } else refuseWrite s

/-- A host write of the read count (R164, R181): stored up to the write count; a stored advance is an
event at the Journal Writer, which makes the room test (R170). -/
def writeReadCount (value : Word) (enable : BitVec 4) (s : State) : State :=
  let r := s.journal.readCount
  let r' : Word16 := (mergeWord (r.setWidth 32) value enable).setWidth 16
  if (r' - r).toNat ≤ (s.journal.writeCount - r).toNat then
    if r' = r then s else roomTest { s with journal := { s.journal with readCount := r' } }
  else refuseWrite s

/-- A host write of the word at 0x0100 (R176, R177): its two high bytes are ignored, so a write that
enables neither byte of the write count is neither stored nor refused; any other is refused. -/
def writeCountWord (enable : BitVec 4) (s : State) : State :=
  if enable.getLsbD 0 || enable.getLsbD 1 then refuseWrite s else s

/-- A host write of CONTROL with RESTART 0 (R184): RUN and NOTICE-ENABLE are stored; RUN going from
clear to set brings the room test (R170, R171). -/
def storeControl (run noticeEnable : Bool) (s : State) : State :=
  let s1 := s.updatePort fun p => { p with run := run, noticeEnable := noticeEnable }
  if run && !s.port.run then roomTest s1 else s1

/-- A host write of CONTROL (R184): with RESTART 1 it starts a warm restart and stores nothing. -/
def writeControl (value : Word) (enable : BitVec 4) (s : State) : State :=
  let v := mergeWord s.control value enable
  if v.getLsbD 2 then warmRestart .restartBit s
  else storeControl (v.getLsbD 0) (v.getLsbD 1) s

/-- A host write of ATTENTION (R186): each bit written as 1 in an enabled byte is cleared. In message
form one message is sent if the condition still holds (R187). -/
def writeAttention (value : Word) (enable : BitVec 4) (s : State) : State :=
  let bits : BitVec 6 := if enable.getLsbD 0 then value.setWidth 6 else 0
  let s1 := s.updatePort fun p => { p with attention := p.attention &&& ~~~bits }
  if s1.port.noticeHolds && s1.port.messageEnable then
    s1.updatePort fun p => { p with messages := p.messages + 1 }
  else s1

/-- A host write of ATTENTION-ENABLE (R187). -/
def writeEnable (value : Word) (enable : BitVec 4) (s : State) : State :=
  if enable.getLsbD 0 then s.updatePort fun p => { p with enable := value.setWidth 6 } else s

/-- A host write of one word of the window, dispatched by its offset (R175, R176, R177, R188). While
the RESET line is asserted it is discarded (R175). An offset beyond the window reaches nothing. -/
def writeWord (a : Nat) (value : Word) (enable : BitVec 4) (s : State) : State :=
  if s.held || decide (0x8000 ≤ a) then s
  else if 0x400 ≤ a ∧ a < 0x1400 then
    let c : CellId := Fin.ofNat 32 ((a - 0x400) / 128)
    if (a - 0x400) % 128 = 0 then writeStateWord c value enable s
    else writeBodyWord c a value enable s
  else if a = 0x0100 then writeCountWord enable s
  else if a = 0x0104 then writeReadCount value enable s
  else if a = 0x4000 then writeControl value enable s
  else if a = 0x4008 then writeAttention value enable s
  else if a = 0x400C then writeEnable value enable s
  else refuseWrite s

/-- The value of CONTROL that carries RUN and NOTICE-ENABLE with RESTART 0 (11 Registers). -/
def controlValue (run noticeEnable : Bool) : Word :=
  (if run then 1 else 0) ||| (if noticeEnable then 2 else 0)

/-- The endpoint's message enable changes (R187): when it becomes enabled one message is sent if the
condition holds. While the RESET line is asserted none is sent (R175, log 29). -/
def changeMessageEnable (enabled : Bool) (s : State) : State :=
  let sends := enabled && !s.port.messageEnable && s.port.noticeHolds && !s.held
  { s with port := { s.port with
      messageEnable := enabled
      messages := if sends then s.port.messages + 1 else s.port.messages } }

/-! ### The words of one request (R175) -/

/-- A word that holds a cell's state field (R176). -/
def isStateWord (w : WordWrite) : Bool :=
  decide (0x400 ≤ w.addr) && decide (w.addr < 0x1400) && decide ((w.addr - 0x400) % 128 = 0)

/-- Of two words of one request, `w` is applied no later than `v`: a word that holds a cell's state field
comes after every other, and among the rest of its kind a word comes by its address (R175). -/
def wordBefore (w v : WordWrite) : Bool :=
  if isStateWord w = isStateWord v then decide (w.addr ≤ v.addr) else isStateWord v

/-- A word put in its place among words in the order they are applied. -/
def insertWord (w : WordWrite) : List WordWrite → List WordWrite
  | [] => [w]
  | v :: vs => if wordBefore w v then w :: v :: vs else v :: insertWord w vs

/-- The words of one request in the order they are applied (R175): ascending by address, the words that
hold a cell's state field after every other word, however the request lists them. -/
def requestOrder (words : List WordWrite) : List WordWrite := words.foldr insertWord []

end Sys2Proof.Machine
end

