-- ==== Sys2Proof/Machine/Cascade.lean ====
section
/-! DEFINITION. One event of the part: the act of the command, the follow-up work it brings to other
blocks until none is left, and the record writes at its end (R2, R102, R183; logs 3, 6, 7, 10). -/

namespace Sys2Proof.Machine

/-- Do one piece of follow-up work. -/
def doJob (j : Job) (s : State) : State :=
  match j with
  | .start i => startTest i s
  | .handle i => handleTest i s
  | .examine => examine s
  | .serve => serveShelf s
  | .powerGood i => powerGoodTaken i s
  | .switchOpened i => switchOpened i s

/-- The step from `old` to `s` in an event: the slots of whose records it changed a field join those of
whose records the event changed one before (R2, R40, R45, R46; log 6). -/
def noteRecords (old s : State) : State :=
  { s with changed := allSlots.filter fun i =>
      decide (i ∈ old.changed) || decide (s.recordView i ≠ old.recordView i) }

/-- One piece of follow-up work in an event that stands at `s`, whose other work is `ws`. -/
def doWork (w : Work) (ws : List Work) (s : State) : State :=
  let s1 := noteRecords s (doJob w.job { s with work := [], broughtBy := w.broughtBy })
  { s1 with work := s1.work ++ ws }

/-- The join-done and leave-done tests of a slot in an event that stands at `s`, with `ts` still to be
made (R102). -/
def doLate (t : LateTest) (ts : List LateTest) (s : State) : State :=
  noteRecords s (portTest t.slot { s with late := ts, broughtBy := t.broughtBy })

/-- Do the work of an event: the work a job brings is done before older work; with none left, the
join-done and leave-done tests are made (R102). At most `n` pieces are done (log 3). -/
def drain : Nat → State → State
  | 0, s => s
  | n + 1, s =>
    match s.work with
    | w :: ws => drain n (doWork w ws s)
    | [] =>
      match s.late with
      | t :: ts => drain n (doLate t ts s)
      | [] => s

/-- The record write of one slot at the end of an event: when a field of its record has changed, one
write, which adds one to the update count (R2, log 6). -/
def closeRecord (s : State) (i : SlotId) : State :=
  if i ∈ s.changed then s.modSlot i fun x => { x with upd := x.upd + 1 } else s

/-- The shelf record write of an event that wrote the shelf record (R79, R183, log 7). -/
def closeShelf (s : State) : State :=
  if s.shelfDirty then { s with shelfRevision := s.shelfRevision + 1, shelfDirty := false } else s

/-- The end of an event: its record writes. -/
def closeEvent (s : State) : State :=
  { closeShelf (allSlots.foldl closeRecord s) with changed := [], broughtBy := none }

/-- One event: act, follow-up work, record writes. -/
def event (act : State → State) (s : State) : State :=
  closeEvent (drain Config.workBound (noteRecords s (act s)))

/-- An act that the hold of the RESET line stops (R193). -/
def unlessHeld (act : State → State) (s : State) : State := if s.held then s else act s

/-- An event that the hold of the RESET line stops. -/
def liveEvent (act : State → State) (s : State) : State := event (unlessHeld act) s

end Sys2Proof.Machine
end

