-- ==== Sys2Proof/Machine/FabricEvents.lean ====
section
/-! DEFINITION. The deadlines of the Fabric Coordinator (05_fabric_ports.md). -/

namespace Sys2Proof.Machine

/-- The offer deadline of an OFFERED port passes (R110): the port becomes ISOLATED and declined, an
outstanding ADMIT is overtaken, DROP is placed (which removes a queued ADMIT, R134), and a PORT notice
is handed. -/
def offerExpired (p : PortId) (s : State) : State :=
  if (s.portOf p).state = .offered ∧ due s.time (s.portOf p).deadline then
    let s1 := s.modPort p fun x => { x.isolate with declined := true }
    let hub := hubSlot p
    let isAdmit := fun (m : Msg) => decide (m = .admitNode p.node)
    let s2 := if (s1.engine hub).queued isAdmit then s1 else endMessages hub isAdmit s1
    let s3 := if s2.linkUp hub then placePort hub (.drop p.node) s2 else s2
    portNotice p .offerTimeout .isolated s3
  else s

/-- OFFER_DEADLINE_EXPIRY (R110). -/
def execOfferDeadlineExpiry (p : PortId) (s : State) : Host.Outcome State Fault Refusal :=
  .next (liveEvent (offerExpired p) s)

/-- The slots of a port that are LEAVING, the node first. -/
def State.leavingSlots (s : State) (p : PortId) : List SlotId :=
  [nodeSlot p, hubSlot p].filter fun i => decide ((s.slot i).state = .leaving)

/-- A slot's retirement is GENTLE. -/
def State.gentle (s : State) (i : SlotId) : Bool := (s.slot i).retire.any (·.gentle)

/-- The withdrawal of the LEAVING slots of a port is abandoned (R116, R117): every port of each is
returned to service as far as it can be, then each takes its drain abort (R15), the node before the hub
(log 45). The ports of a slot are returned in ascending order, which R117 leaves open (DESIGN CHOICE,
log 49). -/
def abandon (slots : List SlotId) (s : State) : State :=
  slots.foldl drainAbort
    (slots.foldl (fun s i => (slotPorts i).foldl (abortPort i slots) s) s)

/-- The drain deadline of a CLOSING or WITHDRAWING port passes (R116): the PORT notice, then the
withdrawal is abandoned or the port is isolated and tested for an offer (R105). -/
def drainExpired (p : PortId) (s : State) : State :=
  let st := (s.portOf p).state
  if (st = .closing ∨ st = .withdrawing) ∧ due s.time (s.portOf p).deadline then
    let s1 := portNotice p .drainTimeout st s
    let slots := s.leavingSlots p
    if !slots.isEmpty && slots.all s.gentle then abandon slots s1
    else offerTest p (isolatePort p none false s1)
  else s

/-- DRAIN_DEADLINE_EXPIRY (R116). -/
def execDrainDeadlineExpiry (p : PortId) (s : State) : Host.Outcome State Fault Refusal :=
  .next (liveEvent (drainExpired p) s)

end Sys2Proof.Machine
end

