-- ==== Sys2Proof/Machine/HostWrites.lean ====
section
/-! DEFINITION. The commands that are host writes, and MESSAGE_ENABLE_CHANGE. Each word of a host write
goes through the guard by itself. -/

namespace Sys2Proof.Machine

/-- A host write request (R175): its words are applied one at a time in the port's order, each tested by
itself and each an event of its own (R177, R188, log 22). -/
def writeRequest (words : List WordWrite) (s : State) : State :=
  (requestOrder words).foldl (fun s w => event (writeWord w.addr w.data.value w.data.enable) s) s

/-- CELL_POST (R178): a host write of POSTED to a cell's state word. -/
def execCellPost (c : CellId) (s : State) : Host.Outcome State Fault Refusal :=
  .next (event (writeWord (cellOffset c) 1 0x1) s)

/-- CELL_WITHDRAW (R41, R178): a host write of FREE to a cell's state word, meant for a POSTED cell. -/
def execCellWithdraw (c : CellId) (s : State) : Host.Outcome State Fault Refusal :=
  .next (event (writeWord (cellOffset c) 0 0x1) s)

/-- CELL_RETURN (R178): a host write of FREE to a cell's state word, meant for a FINISHED or REFUSED
cell. -/
def execCellReturn (c : CellId) (s : State) : Host.Outcome State Fault Refusal :=
  .next (event (writeWord (cellOffset c) 0 0x1) s)

/-- CELL_BODY_WRITE (R179): a host write of a word of a cell's body. -/
def execCellBodyWrite (c : CellId) (word : Nat) (data : WordData) (more : List WordWrite) (s : State) :
    Host.Outcome State Fault Refusal :=
  .next (writeRequest (⟨cellOffset c + 4 * word, data⟩ :: more) s)

/-- READ_COUNT_WRITE (R164, R181): a host write of the word at 0x0104. -/
def execReadCountWrite (data : WordData) (more : List WordWrite) (s : State) :
    Host.Outcome State Fault Refusal :=
  .next (writeRequest (⟨0x0104, data⟩ :: more) s)

/-- SHELF_AREA_WRITE_REFUSED (R177): a host write of a word of the Shelf Area, which the guard
tests. -/
def execShelfAreaWriteRefused (a : Nat) (data : WordData) (more : List WordWrite) (s : State) :
    Host.Outcome State Fault Refusal :=
  .next (writeRequest (⟨a, data⟩ :: more) s)

/-- RUN_SET (R171, R184): a host write of CONTROL with RUN 1. -/
def execRunSet (noticeEnable : Bool) (s : State) : Host.Outcome State Fault Refusal :=
  .next (event (writeWord 0x4000 (controlValue true noticeEnable) 0xF) s)

/-- RUN_CLEAR (R37, R171, R184): a host write of CONTROL with RUN 0. -/
def execRunClear (noticeEnable : Bool) (s : State) : Host.Outcome State Fault Refusal :=
  .next (event (writeWord 0x4000 (controlValue false noticeEnable) 0xF) s)

/-- NOTICE_ENABLE_WRITE (R184): a host write of CONTROL that leaves RUN as it is. -/
def execNoticeEnableWrite (noticeEnable : Bool) (s : State) : Host.Outcome State Fault Refusal :=
  .next (event (writeWord 0x4000 (controlValue s.port.run noticeEnable) 0xF) s)

/-- ATTENTION_CLEAR (R186). -/
def execAttentionClear (data : WordData) (more : List WordWrite) (s : State) :
    Host.Outcome State Fault Refusal :=
  .next (writeRequest (⟨0x4008, data⟩ :: more) s)

/-- ATTENTION_ENABLE_WRITE (R187). -/
def execAttentionEnableWrite (data : WordData) (more : List WordWrite) (s : State) :
    Host.Outcome State Fault Refusal :=
  .next (writeRequest (⟨0x400C, data⟩ :: more) s)

/-- REGISTER_WRITE_REFUSED (R185, R188): a host write to a read-only register or beyond the
registers. -/
def execRegisterWriteRefused (a : Nat) (data : WordData) (more : List WordWrite) (s : State) :
    Host.Outcome State Fault Refusal :=
  .next (writeRequest (⟨a, data⟩ :: more) s)

/-- MESSAGE_ENABLE_CHANGE (R187). -/
def execMessageEnableChange (enabled : Bool) (s : State) : Host.Outcome State Fault Refusal :=
  .next (event (changeMessageEnable enabled) s)

end Sys2Proof.Machine
end

