-- ==== Sys2Proof/Machine/LinkEvents.lean ====
section
/-! DEFINITION. The commands that reach a slot link engine (06_slot_links.md) and the two deadlines of
a stamp (07_blade_identity_and_service_record.md). -/

namespace Sys2Proof.Machine

/-- FRAME_ARRIVAL (R127): a frame arrives; during the hold of the RESET line it is ignored (R147). -/
def execFrameArrival (i : SlotId) (frame : List Byte) (s : State) :
    Host.Outcome State Fault Refusal :=
  .next (liveEvent (frameTaken i frame) s)

/-- REPLY_DEADLINE_EXPIRY (R128). -/
def execReplyDeadlineExpiry (i : SlotId) (s : State) : Host.Outcome State Fault Refusal :=
  .next (liveEvent (replyExpired i) s)

/-- NOT_BEFORE_EXPIRY (R132): a message whose not-before time has passed is ready and, on a free line,
is sent. -/
def execNotBeforeExpiry (i : SlotId) (s : State) : Host.Outcome State Fault Refusal :=
  .next (liveEvent (serveLink i) s)

/-- POLL_DEADLINE_EXPIRY (R139). -/
def execPollDeadlineExpiry (i : SlotId) (s : State) : Host.Outcome State Fault Refusal :=
  .next (liveEvent (pollExpired i) s)

/-- ALERT (R138): the ALERT input takes a level; the ALERT test is made when it is asserted, and not
during the hold of the RESET line (R147). -/
def execAlert (i : SlotId) (asserted : Bool) (s : State) : Host.Outcome State Fault Refusal :=
  .next (event (unlessHeld (alertTest i)) (s.modPins i fun p => { p with alert := asserted }))

/-- RECOVERY_DEADLINE_EXPIRY (R145). -/
def execRecoveryDeadlineExpiry (i : SlotId) (s : State) : Host.Outcome State Fault Refusal :=
  .next (liveEvent (recoveryExpired i) s)

/-- The probe pause of a stamp in PROGRAMMING passes (R158): a PROBE is asked for. -/
def pauseExpired (i : SlotId) (s : State) : State :=
  match (s.slot i).stamp with
  | some p =>
    if due s.time p.pause then
      askProbe i .sequencer (s.modSlot i fun x => { x with stamp := some { p with pause := none } })
    else s
  | none => s

/-- PROBE_PAUSE_EXPIRY (R158). -/
def execProbePauseExpiry (i : SlotId) (s : State) : Host.Outcome State Fault Refusal :=
  .next (liveEvent (pauseExpired i) s)

/-- The program limit of a stamp passes (R159): it ends FAILED. -/
def limitExpired (i : SlotId) (s : State) : State :=
  match (s.slot i).stamp with
  | some p => if due s.time p.limit then stampEnd i .failed s else s
  | none => s

/-- PROGRAM_LIMIT_EXPIRY (R159). -/
def execProgramLimitExpiry (i : SlotId) (s : State) : Host.Outcome State Fault Refusal :=
  .next (liveEvent (limitExpired i) s)

end Sys2Proof.Machine
end

