-- ==== Sys2Proof/Machine/PowerEvents.lean ====
section
/-! DEFINITION. The commands that reach the Power Allocator and Payload Power Control
(03_power_budget_and_the_wait_queue.md, 04_payload_power_and_ramp_pacing.md). -/

namespace Sys2Proof.Machine

/-- A queue entry's wait deadline passes (R70): the entry leaves, the slot moves to PARKED, the ADMIT
finishes POWER-TIMEOUT, and the head is examined, before the slot's next waiting order starts
(log 44). -/
def waitExpired (i : SlotId) (s : State) : State :=
  if s.alloc.queue.any fun e => decide (e.slot = i) && due s.time e.deadline then
    testNext i (finishActive i .powerTimeout none []
      (changeStateOwn i .parked .waitLimit (removeEntry i s)))
  else s

/-- WAIT_DEADLINE_EXPIRY (R70). -/
def execWaitDeadlineExpiry (i : SlotId) (s : State) : Host.Outcome State Fault Refusal :=
  .next (liveEvent (waitExpired i) s)

/-- The re-examination deadline passes (R67). -/
def reexamExpired (s : State) : State := if due s.time s.alloc.reexam then examine s else s

/-- REEXAMINATION_EXPIRY (R67). -/
def execReexaminationExpiry (s : State) : Host.Outcome State Fault Refusal :=
  .next (liveEvent reexamExpired s)

/-- The state of a feed, true is LOST. -/
def Allocator.feedLost (feed : Feed) (a : Allocator) : Bool :=
  match feed with
  | .a => a.feedALost
  | .b => a.feedBLost

/-- Change the state of a feed. -/
def Allocator.setFeed (feed : Feed) (lost : Bool) (a : Allocator) : Allocator :=
  match feed with
  | .a => { a with feedALost := lost }
  | .b => { a with feedBLost := lost }

/-- The measured level of a feed. -/
def State.measureFeed (feed : Feed) (low : Bool) (s : State) : State :=
  match feed with
  | .a => { s with feedALow := low }
  | .b => { s with feedBLow := low }

/-- A feed's state takes the level that has held (R77): shelf record, FEED notice, ATTENTION.FEED, and
on a return to GOOD an examination. -/
def feedTaken (feed : Feed) (lost : Bool) (s : State) : State :=
  if s.alloc.feedLost feed = lost then s
  else
    let s1 := (s.modAlloc (Allocator.setFeed feed lost)).touchShelf
    let s2 := (handNotice (shelfNotice s1 (.feed feed lost) none) s1).latch .feed
    if lost then s2 else s2.raise [.examine]

/-- A feed's measured level changes and has not held yet (R76): its debounce runs from now. -/
def rawFeed (feed : Feed) (low : Bool) (s : State) : State :=
  let s1 := s.measureFeed feed low
  match feed with
  | .a => if s.feedALow = low then s
    else { s1 with debounceFrom := { s.debounceFrom with feedA := s.time } }
  | .b => if s.feedBLow = low then s
    else { s1 with debounceFrom := { s.debounceFrom with feedB := s.time } }

/-- FEED_DEBOUNCE (R76, R77): the feed's state takes the level that has held; during the hold of the RESET
line only the measurement changes (R193). A level that has not held yet changes the measurement alone
(log 18). -/
def execFeedDebounce (feed : Feed) (input : RawInput) (s : State) :
    Host.Outcome State Fault Refusal :=
  .next (if input.held then event (unlessHeld (feedTaken feed input.level)) (s.measureFeed feed input.level)
    else rawFeed feed input.level s)

/-- POWER_GOOD (R87): the power-good input rises. -/
def execPowerGood (i : SlotId) (s : State) : Host.Outcome State Fault Refusal :=
  .next (event (unlessHeld (powerGoodTaken i)) (s.modPins i fun p => { p with powerGood := true }))

/-- The ramp limit passes (R88). -/
def rampLimitExpired (i : SlotId) (s : State) : State :=
  if due s.time (s.pwr i).rampLimit then rampSlow i s else s

/-- RAMP_LIMIT_EXPIRY (R88). -/
def execRampLimitExpiry (i : SlotId) (s : State) : Host.Outcome State Fault Refusal :=
  .next (liveEvent (rampLimitExpired i) s)

/-- TRIP (R90): the trip input asserts. During the hold of the RESET line it clears the latch
directly (R97, R193). -/
def execTrip (i : SlotId) (s : State) : Host.Outcome State Fault Refusal :=
  .next (event (if s.held then tripHeld i else tripTaken i) s)

/-- POWER_GOOD_LOSS (R90): the power-good input falls. -/
def execPowerGoodLoss (i : SlotId) (s : State) : Host.Outcome State Fault Refusal :=
  .next (event (unlessHeld (powerGoodLost i)) (s.modPins i fun p => { p with powerGood := false }))

/-- The reset hold passes (R89): the blade reset is released; the release is the level of the reset
output (log 28). -/
def resetHoldExpired (i : SlotId) (s : State) : State :=
  if due s.time (s.pwr i).resetHold then
    s.modPower i fun p => { p with resetHold := none, resetAsserted := false }
  else s

/-- RESET_HOLD_EXPIRY (R89). -/
def execResetHoldExpiry (i : SlotId) (s : State) : Host.Outcome State Fault Refusal :=
  .next (liveEvent (resetHoldExpired i) s)

/-- The deferral of an orderly power-off passes (R92): the power-off, and its report. -/
def deferralExpired (i : SlotId) (s : State) : State :=
  if due s.time (s.pwr i).deferral then (powerOff i s).raise [.switchOpened i] else s

/-- DEFERRAL_EXPIRY (R92). -/
def execDeferralExpiry (i : SlotId) (s : State) : Host.Outcome State Fault Refusal :=
  .next (liveEvent (deferralExpired i) s)

/-- A minute of payload is full (R96): it is counted, holding at 65535, and the next one is set. -/
def minuteExpired (i : SlotId) (s : State) : State :=
  if due s.time (s.pwr i).minute then
    (s.modPower i fun p => { p with minute := some (after s.time Config.minute) }).modSlot i fun x =>
      { x with minutes := countUpTo 65535 x.minutes }
  else s

/-- MINUTE_EXPIRY (R96). -/
def execMinuteExpiry (i : SlotId) (s : State) : Host.Outcome State Fault Refusal :=
  .next (liveEvent (minuteExpired i) s)

/-- The horizon of a reference passes: the reference is CLEAR (R94). -/
def horizonExpired (i : SlotId) (ref : RefKind) (s : State) : State :=
  match ref with
  | .on => if due s.time (s.pwr i).onRef then s.modPower i fun p => { p with onRef := none } else s
  | .off => if due s.time (s.pwr i).offRef then s.modPower i fun p => { p with offRef := none } else s

/-- HORIZON_EXPIRY (R94). -/
def execHorizonExpiry (i : SlotId) (ref : RefKind) (s : State) : Host.Outcome State Fault Refusal :=
  .next (liveEvent (horizonExpired i ref) s)

/-- The ramp history loses the entries that have reached the age of R82. -/
def historyAged (s : State) : State :=
  let h := ageHistory s.time s.history
  if h = s.history then s else { s with history := h }.touchShelf

/-- HISTORY_ENTRY_AGE (R82). -/
def execHistoryEntryAge (s : State) : Host.Outcome State Fault Refusal :=
  .next (liveEvent historyAged s)

end Sys2Proof.Machine
end

