-- ==== Sys2Proof/Machine/Resets.lean ====
section
/-! DEFINITION. The commands POWER_ON_RESET, RESET_LINE_ASSERT, RESET_LINE_RELEASE and RESTART. -/

namespace Sys2Proof.Machine

/-- POWER_ON_RESET (R190, R191): every block takes its starting state, whatever state the part was in,
then the first samples' arrivals follow. The commands still waiting in the queue are outside the part
and stay (log 30). -/
def execPowerOnReset (board : BoardInputs) (s : State) : Host.Outcome State Fault Refusal :=
  .next (event powerOnSamples { State.powerOn board with pending := s.pending })

/-- RESET_LINE_ASSERT (R193): the RESET line asserts. The part takes it as asserted, and is held, once
it has been asserted for 1 ms without a break (`takeResetLine`, log 18). -/
def execResetLineAssert (s : State) : Host.Outcome State Fault Refusal :=
  .next { s with resetLine := some (s.resetLine.getD s.time) }

/-- RESET_LINE_RELEASE (R193, R194): the RESET line is released. The release of an assertion that was
taken starts a warm restart with reset cause RESET-LINE; a shorter assertion is ignored. -/
def execResetLineRelease (s : State) : Host.Outcome State Fault Refusal :=
  let s1 := { s with resetLine := none }
  .next (if s.held then event (warmRestart .resetLine) s1 else s1)

/-- RESTART (R184, R194): a host write of CONTROL with RESTART 1. -/
def execRestart (s : State) : Host.Outcome State Fault Refusal :=
  .next (event (writeWord 0x4000 4 0xF) s)

end Sys2Proof.Machine
end

