-- ==== Sys2Proof/Machine/SlotEvents.lean ====
section
/-! DEFINITION. The commands that reach a slot sequencer: contacts, handle, and its own deadlines
(01_slots.md). -/

namespace Sys2Proof.Machine

/-- The raw level of a contact. -/
def SlotPins.setContact (contact : Contact) (made : Bool) (p : SlotPins) : SlotPins :=
  match contact with
  | .long => { p with long := made }
  | .short => { p with short := made }

/-- The raw level a contact has. -/
def SlotPins.contact (contact : Contact) (p : SlotPins) : Bool :=
  match contact with
  | .long => p.long
  | .short => p.short

/-- Since when a contact has stood at its raw level. -/
def InputTimes.setContact (contact : Contact) (t : Time) (x : InputTimes) : InputTimes :=
  match contact with
  | .long => { x with long := t }
  | .short => { x with short := t }

/-- The debounced level of a contact. -/
def Slot.setContact (contact : Contact) (made : Bool) (x : Slot) : Slot :=
  match contact with
  | .long => { x with long := made }
  | .short => { x with short := made }

/-- A contact's debounced level takes the level its raw input has held (R3). -/
def contactTaken (i : SlotId) (contact : Contact) (made : Bool) (s : State) : State :=
  presenceChange i (s.slot i).presence (s.modSlot i (Slot.setContact contact made))

/-- A contact's raw level changes and has not held yet (R3): its debounce runs from now. -/
def rawContact (i : SlotId) (contact : Contact) (made : Bool) (s : State) : State :=
  if SlotPins.contact contact (s.pinsOf i) = made then s
  else (s.modPins i (SlotPins.setContact contact made)).modTimes i
    (InputTimes.setContact contact s.time)

/-- CONTACT_DEBOUNCE (R3): the debounced level takes the level that has held; during the hold of the
RESET line only the raw level changes (R193, R197). A level that has not held yet changes the raw level
alone (log 18). -/
def execContactDebounce (i : SlotId) (contact : Contact) (input : RawInput) (s : State) :
    Host.Outcome State Fault Refusal :=
  .next (if input.held then
      event (unlessHeld (contactTaken i contact input.level))
        (s.modPins i (SlotPins.setContact contact input.level))
    else rawContact i contact input.level s)

/-- A handle open (R27): the latch is set, a HANDLE notice is handed, and the handle response is
tested. -/
def handleOpened (i : SlotId) (s : State) : State :=
  let s1 := s.modSlot i fun x => { x with latch := true }
  (handNotice (slotNotice s1 i (.handle .opened) (s1.activeTag i)) s1).raise [.handle i]

/-- A handle close (R27): it retracts a latched request, or is reported CLOSED. -/
def handleClosed (i : SlotId) (s : State) : State :=
  let detail : HandleDetail := if (s.slot i).latch then .retracted else .closed
  let s1 := s.modSlot i fun x => { x with latch := false }
  handNotice (slotNotice s1 i (.handle detail) (s1.activeTag i)) s1

/-- The handle's debounced level takes the level its raw input has held (R4); in VACANT and SEATING
it changes the handle field alone (R5, R27). -/
def handleTaken (i : SlotId) (isOpen : Bool) (s : State) : State :=
  let s1 := s.modSlot i fun x => { x with handleOpen := isOpen }
  if (s.slot i).handleOpen = isOpen ∨ (s.slot i).state = .vacant ∨ (s.slot i).state = .seating then s1
  else if isOpen then handleOpened i s1
  else handleClosed i s1

/-- The handle's raw level changes and has not held yet (R4): its debounce runs from now. -/
def rawHandle (i : SlotId) (isOpen : Bool) (s : State) : State :=
  if (s.pinsOf i).handleOpen = isOpen then s
  else (s.modPins i fun p => { p with handleOpen := isOpen }).modTimes i fun x =>
    { x with handle := s.time }

/-- HANDLE_DEBOUNCE (R4): the debounced level takes the level that has held; during the hold of the RESET
line only the raw level changes (R193, R197). A level that has not held yet changes the raw level alone
(log 18). -/
def execHandleDebounce (i : SlotId) (input : RawInput) (s : State) :
    Host.Outcome State Fault Refusal :=
  .next (if input.held then
      event (unlessHeld (handleTaken i input.level))
        (s.modPins i fun p => { p with handleOpen := input.level })
    else rawHandle i input.level s)

/-- The settle deadline passes in SEATING (R5). -/
def settleExpired (i : SlotId) (s : State) : State :=
  if (s.slot i).state = .seating ∧ due s.time (s.slot i).settle then
    enterSurveying i (changeStateOwn i .surveying .settled s)
  else s

/-- SETTLE_EXPIRY (R5). -/
def execSettleExpiry (i : SlotId) (s : State) : Host.Outcome State Fault Refusal :=
  .next (liveEvent (settleExpired i) s)

/-- The boot limit passes in BOOTING (R10). -/
def bootExpired (i : SlotId) (s : State) : State :=
  if (s.slot i).state = .booting ∧ due s.time (s.slot i).boot then reportFault i .bootTimeout s else s

/-- BOOT_LIMIT_EXPIRY (R10). -/
def execBootLimitExpiry (i : SlotId) (s : State) : Host.Outcome State Fault Refusal :=
  .next (liveEvent (bootExpired i) s)

/-- The quiesce deadline passes in QUIESCING (R16). -/
def quiesceExpired (i : SlotId) (s : State) : State :=
  if (s.slot i).state = .quiescing ∧ due s.time (s.slot i).quiesce then quiesceEnd i .quiesceLimit s
  else s

/-- QUIESCE_DEADLINE_EXPIRY (R16). -/
def execQuiesceDeadlineExpiry (i : SlotId) (s : State) : Host.Outcome State Fault Refusal :=
  .next (liveEvent (quiesceExpired i) s)

/-- A phase of a BLINK indicator runs out (R31). -/
def blinkExpired (i : SlotId) (s : State) : State :=
  match (s.slot i).blink with
  | some b =>
    if reached s.time b.deadline then
      s.modSlot i fun x => { x with blink := some ⟨!b.lit, after s.time Config.blinkPhase⟩ }
    else s
  | none => s

/-- INDICATOR_BLINK_PHASE (R31). -/
def execIndicatorBlinkPhase (i : SlotId) (s : State) : Host.Outcome State Fault Refusal :=
  .next (liveEvent (blinkExpired i) s)

end Sys2Proof.Machine
end

