-- ==== Sys2Proof/Machine/Takes.lean ====
section
/-! DEFINITION. The takes of the Order Intake: one command for each order kind and one for a kind byte
that matches none. The intake acts while RUN is set and the RESET line is not held (R36, R193). -/

namespace Sys2Proof.Machine

/-- ADMIT (R48): the intake takes a cell of this kind. -/
def execAdmit (s : State) : Host.Outcome State Fault Refusal :=
  .next (liveEvent (takeKind (some .admitBlade)) s)

/-- RETIRE (R49): the intake takes a cell of this kind. -/
def execRetire (s : State) : Host.Outcome State Fault Refusal :=
  .next (liveEvent (takeKind (some .retire)) s)

/-- SURVEY (R50): the intake takes a cell of this kind. -/
def execSurvey (s : State) : Host.Outcome State Fault Refusal :=
  .next (liveEvent (takeKind (some .survey)) s)

/-- READ_IDENTITY (R51): the intake takes a cell of this kind. -/
def execReadIdentity (s : State) : Host.Outcome State Fault Refusal :=
  .next (liveEvent (takeKind (some .readIdentity)) s)

/-- CLEAR_FAULT (R52): the intake takes a cell of this kind. -/
def execClearFault (s : State) : Host.Outcome State Fault Refusal :=
  .next (liveEvent (takeKind (some .clearFault)) s)

/-- CUT (R53): the intake takes a cell of this kind. -/
def execCut (s : State) : Host.Outcome State Fault Refusal :=
  .next (liveEvent (takeKind (some .cut)) s)

/-- CANCEL (R54): the intake takes a cell of this kind. -/
def execCancel (s : State) : Host.Outcome State Fault Refusal :=
  .next (liveEvent (takeKind (some .cancel)) s)

/-- HOLD (R55): the intake takes a cell of this kind. -/
def execHold (s : State) : Host.Outcome State Fault Refusal :=
  .next (liveEvent (takeKind (some .hold)) s)

/-- UNHOLD (R55): the intake takes a cell of this kind. -/
def execUnhold (s : State) : Host.Outcome State Fault Refusal :=
  .next (liveEvent (takeKind (some .unhold)) s)

/-- SET_POLICY (R56): the intake takes a cell of this kind. -/
def execSetPolicy (s : State) : Host.Outcome State Fault Refusal :=
  .next (liveEvent (takeKind (some .setPolicy)) s)

/-- SET_BUDGET (R57): the intake takes a cell of this kind. -/
def execSetBudget (s : State) : Host.Outcome State Fault Refusal :=
  .next (liveEvent (takeKind (some .setBudget)) s)

/-- SET_TIMING (R57): the intake takes a cell of this kind. -/
def execSetTiming (s : State) : Host.Outcome State Fault Refusal :=
  .next (liveEvent (takeKind (some .setTiming)) s)

/-- BAD_KIND_TAKE (R38): the intake takes a cell whose kind matches no order kind. -/
def execBadKindTake (s : State) : Host.Outcome State Fault Refusal :=
  .next (liveEvent (takeKind none) s)

end Sys2Proof.Machine
end

