-- ==== Sys2Proof/Machine/Dispatch.lean ====
section
/-! DEFINITION. The command table: one arm per constructor. -/

namespace Sys2Proof.Machine

def exec (i : Instr) (s : State) : Host.Outcome State Fault Refusal :=
  match i with
  | .powerOnReset board => Sys2Proof.Machine.execPowerOnReset board s
  | .resetLineAssert => Sys2Proof.Machine.execResetLineAssert s
  | .resetLineRelease => Sys2Proof.Machine.execResetLineRelease s
  | .restart => Sys2Proof.Machine.execRestart s
  | .cellPost cell => Sys2Proof.Machine.execCellPost cell s
  | .cellWithdraw cell => Sys2Proof.Machine.execCellWithdraw cell s
  | .cellReturn cell => Sys2Proof.Machine.execCellReturn cell s
  | .cellBodyWrite cell word data more => Sys2Proof.Machine.execCellBodyWrite cell word data more s
  | .readCountWrite data more => Sys2Proof.Machine.execReadCountWrite data more s
  | .shelfAreaWriteRefused addr data more => Sys2Proof.Machine.execShelfAreaWriteRefused addr data more s
  | .runSet noticeEnable => Sys2Proof.Machine.execRunSet noticeEnable s
  | .runClear noticeEnable => Sys2Proof.Machine.execRunClear noticeEnable s
  | .noticeEnableWrite noticeEnable => Sys2Proof.Machine.execNoticeEnableWrite noticeEnable s
  | .attentionClear data more => Sys2Proof.Machine.execAttentionClear data more s
  | .attentionEnableWrite data more => Sys2Proof.Machine.execAttentionEnableWrite data more s
  | .registerWriteRefused addr data more => Sys2Proof.Machine.execRegisterWriteRefused addr data more s
  | .messageEnableChange enabled => Sys2Proof.Machine.execMessageEnableChange enabled s
  | .admitBlade => Sys2Proof.Machine.execAdmit s
  | .retire => Sys2Proof.Machine.execRetire s
  | .survey => Sys2Proof.Machine.execSurvey s
  | .readIdentity => Sys2Proof.Machine.execReadIdentity s
  | .clearFault => Sys2Proof.Machine.execClearFault s
  | .cut => Sys2Proof.Machine.execCut s
  | .cancel => Sys2Proof.Machine.execCancel s
  | .hold => Sys2Proof.Machine.execHold s
  | .unhold => Sys2Proof.Machine.execUnhold s
  | .setPolicy => Sys2Proof.Machine.execSetPolicy s
  | .setBudget => Sys2Proof.Machine.execSetBudget s
  | .setTiming => Sys2Proof.Machine.execSetTiming s
  | .badKindTake => Sys2Proof.Machine.execBadKindTake s
  | .contactDebounce slot contact input => Sys2Proof.Machine.execContactDebounce slot contact input s
  | .handleDebounce slot input => Sys2Proof.Machine.execHandleDebounce slot input s
  | .settleExpiry slot => Sys2Proof.Machine.execSettleExpiry slot s
  | .waitDeadlineExpiry slot => Sys2Proof.Machine.execWaitDeadlineExpiry slot s
  | .reexaminationExpiry => Sys2Proof.Machine.execReexaminationExpiry s
  | .feedDebounce feed input => Sys2Proof.Machine.execFeedDebounce feed input s
  | .powerGood slot => Sys2Proof.Machine.execPowerGood slot s
  | .rampLimitExpiry slot => Sys2Proof.Machine.execRampLimitExpiry slot s
  | .trip slot => Sys2Proof.Machine.execTrip slot s
  | .powerGoodLoss slot => Sys2Proof.Machine.execPowerGoodLoss slot s
  | .resetHoldExpiry slot => Sys2Proof.Machine.execResetHoldExpiry slot s
  | .deferralExpiry slot => Sys2Proof.Machine.execDeferralExpiry slot s
  | .minuteExpiry slot => Sys2Proof.Machine.execMinuteExpiry slot s
  | .horizonExpiry slot ref => Sys2Proof.Machine.execHorizonExpiry slot ref s
  | .historyEntryAge => Sys2Proof.Machine.execHistoryEntryAge s
  | .bootLimitExpiry slot => Sys2Proof.Machine.execBootLimitExpiry slot s
  | .quiesceDeadlineExpiry slot => Sys2Proof.Machine.execQuiesceDeadlineExpiry slot s
  | .offerDeadlineExpiry port => Sys2Proof.Machine.execOfferDeadlineExpiry port s
  | .drainDeadlineExpiry port => Sys2Proof.Machine.execDrainDeadlineExpiry port s
  | .frameArrival slot frame => Sys2Proof.Machine.execFrameArrival slot frame s
  | .replyDeadlineExpiry slot => Sys2Proof.Machine.execReplyDeadlineExpiry slot s
  | .notBeforeExpiry slot => Sys2Proof.Machine.execNotBeforeExpiry slot s
  | .pollDeadlineExpiry slot => Sys2Proof.Machine.execPollDeadlineExpiry slot s
  | .alert slot asserted => Sys2Proof.Machine.execAlert slot asserted s
  | .recoveryDeadlineExpiry slot => Sys2Proof.Machine.execRecoveryDeadlineExpiry slot s
  | .probePauseExpiry slot => Sys2Proof.Machine.execProbePauseExpiry slot s
  | .programLimitExpiry slot => Sys2Proof.Machine.execProgramLimitExpiry slot s
  | .indicatorBlinkPhase slot => Sys2Proof.Machine.execIndicatorBlinkPhase slot s

end Sys2Proof.Machine
end

