-- ==== Sys2Proof/Machine/Tick.lean ====
section
/-! DEFINITION. The shelf time base: one millisecond, the take of the RESET line, and the commands that
have come due with it (00_scope.md, Conventions; logs 4, 18). The order in which due commands are queued
is one of those the spec allows for events that fall together. -/

namespace Sys2Proof.Machine

/-- The command by which the intake takes a cell of a kind. -/
def takeCommand : Option OrderKind → Instr
  | some .admitBlade => .admitBlade
  | some .retire => .retire
  | some .survey => .survey
  | some .readIdentity => .readIdentity
  | some .clearFault => .clearFault
  | some .cut => .cut
  | some .cancel => .cancel
  | some .hold => .hold
  | some .unhold => .unhold
  | some .setPolicy => .setPolicy
  | some .setBudget => .setBudget
  | some .setTiming => .setTiming
  | none => .badKindTake

/-- A command that is due when `b` holds. -/
def dueWhen (b : Bool) (c : Instr) : List Instr := if b then [c] else []

/-- The raw inputs of a slot that differ from its debounced levels and have held for the debounce time,
since they changed or since the last reset (R3, R4, R197, log 18). -/
def dueInputs (s : State) (i : SlotId) : List Instr :=
  let x := s.slot i
  let p := s.pinsOf i
  let since := s.timesOf i
  let held := fun (t : Time) (ms : Nat) => reached s.time (after t ms)
  dueWhen (decide (p.long ≠ x.long) && held since.long Config.presenceDebounce)
      (.contactDebounce i .long ⟨p.long, true⟩)
    ++ dueWhen (decide (p.short ≠ x.short) && held since.short Config.presenceDebounce)
      (.contactDebounce i .short ⟨p.short, true⟩)
    ++ dueWhen (decide (p.handleOpen ≠ x.handleOpen) && held since.handle Config.handleDebounce)
      (.handleDebounce i ⟨p.handleOpen, true⟩)

/-- The deadlines of a slot, its payload power and its link that have passed. -/
def dueSlot (s : State) (i : SlotId) : List Instr :=
  let x := s.slot i
  let p := s.pwr i
  let e := s.engine i
  dueInputs s i
    ++ dueWhen (due s.time x.settle) (.settleExpiry i)
    ++ dueWhen (due s.time p.rampLimit) (.rampLimitExpiry i)
    ++ dueWhen (due s.time p.resetHold) (.resetHoldExpiry i)
    ++ dueWhen (due s.time p.deferral) (.deferralExpiry i)
    ++ dueWhen (due s.time p.minute) (.minuteExpiry i)
    ++ dueWhen (due s.time p.onRef) (.horizonExpiry i .on)
    ++ dueWhen (due s.time p.offRef) (.horizonExpiry i .off)
    ++ dueWhen (due s.time x.boot) (.bootLimitExpiry i)
    ++ dueWhen (due s.time x.quiesce) (.quiesceDeadlineExpiry i)
    ++ dueWhen (e.out.any fun o => reached s.time o.deadline) (.replyDeadlineExpiry i)
    ++ dueWhen (e.queue.any fun q => due s.time q.notBefore) (.notBeforeExpiry i)
    ++ dueWhen (due s.time e.poll) (.pollDeadlineExpiry i)
    ++ dueWhen (due s.time e.recovery) (.recoveryDeadlineExpiry i)
    ++ dueWhen (x.stamp.any fun m => due s.time m.pause) (.probePauseExpiry i)
    ++ dueWhen (x.stamp.any fun m => due s.time m.limit) (.programLimitExpiry i)
    ++ dueWhen (x.blink.any fun b => reached s.time b.deadline) (.indicatorBlinkPhase i)

/-- The deadline of a port that has passed. -/
def duePort (s : State) (p : PortId) : List Instr :=
  let x := s.portOf p
  dueWhen (due s.time x.deadline)
    (if x.state = .offered then .offerDeadlineExpiry p else .drainDeadlineExpiry p)

/-- A feed whose measurement differs from its state and has held for the debounce time, since it changed
or since the last reset (R76, R191, log 18). -/
def dueFeeds (s : State) : List Instr :=
  let held := fun (t : Time) => reached s.time (after t Config.feedDebounce)
  dueWhen (decide (s.feedALow ≠ s.alloc.feedALost) && held s.debounceFrom.feedA)
      (.feedDebounce .a ⟨s.feedALow, true⟩)
    ++ dueWhen (decide (s.feedBLow ≠ s.alloc.feedBLost) && held s.debounceFrom.feedB)
      (.feedDebounce .b ⟨s.feedBLow, true⟩)

/-- The takes of the posted cells, in the order the intake finds them, while RUN is set (R36). -/
def dueTakes (s : State) : List Instr :=
  if s.port.run then s.postedCells.map fun c => takeCommand (s.cellKind c) else []

/-- What has come due at the present shelf time; nothing while the RESET line holds the part (R193). -/
def dueCommands (s : State) : List Instr :=
  if s.held then []
  else
    dueWhen (decide (ageHistory s.time s.history ≠ s.history)) .historyEntryAge
      ++ dueFeeds s
      ++ allSlots.flatMap (dueSlot s)
      ++ (s.alloc.queue.filter fun e => due s.time e.deadline).map (fun e =>
        .waitDeadlineExpiry e.slot)
      ++ dueWhen (due s.time s.alloc.reexam) .reexaminationExpiry
      ++ allPorts.flatMap (duePort s)
      ++ dueTakes s

/-- The part takes the RESET line as asserted, and is held, once the line has been asserted for 1 ms
without a break (R193). Every latch keeps its level. -/
def takeResetLine (s : State) : State :=
  if due s.time (s.resetLine.map (after · Config.resetTake)) then { s with held := true } else s

/-- One millisecond: the shelf time advances, modulo 2^32, through the hold of the RESET line too
(R193), the RESET line is taken if it has been asserted for long enough, and what has come due is
queued. -/
def tick (s : State) : State :=
  let s1 := takeResetLine { s with time := s.time + 1 }
  { s1 with pending := s1.pending ++ dueCommands s1 }

end Sys2Proof.Machine
end

