-- ==== Sys2Proof/Machine/Step.lean ====
section
/-! DEFINITION. One step of the part: the command at the front of the queue, or one millisecond of
shelf time when none waits. -/

namespace Sys2Proof.Machine

/-- One step: the command at the front is taken with the queue's rest; on an empty queue the time base
ticks (DESIGN CHOICE, log 4). -/
def step (s : State) : Host.Outcome State Fault Refusal :=
  match s.pending with
  | c :: rest => exec c { s with pending := rest }
  | [] => .next (tick s)

/-- The state with the command a table word spells put at the front of its queue; no row of the table
gives bits, so no word spells one. -/
def State.withFetchWord (s : State) (nbits w : Nat) : State :=
  match decodeTableWord nbits w with
  | some c => { s with pending := c :: s.pending }
  | none => s

end Sys2Proof.Machine
end

