-- ==== Sys2Proof/Safety.lean ====
section
/-! DEFINITION. What the statements are about: the invariant of the part, block by block, the states
between two events in which they are stated, and the reading of a state's records. -/

namespace Sys2Proof.Machine

/-! ### The invariant -/

/-- A slot sequencer is lawful: the generation is never 0 (R1); the list holds at most four orders and
an active order is its head (R42); the seating counters hold at their limits (R8, R96); a deadline, a
survey and a stamp exist in their own state alone (R5, R10, R16, R151, R156); the blink phase exists
exactly while the indicator blinks (R31). -/
structure Slot.Lawful (x : Slot) : Prop where
  gen : x.gen ≠ 0
  orders : x.orders.length ≤ 4
  active : x.active = true → x.orders ≠ []
  admissions : x.admissions ≤ 255
  minutes : x.minutes ≤ 65535
  settle : x.settle.isSome = true → x.state = .seating
  boot : x.boot.isSome = true → x.state = .booting
  quiesce : x.quiesce.isSome = true → x.state = .quiescing
  survey : x.survey.isSome = true → x.state = .surveying
  stamp : x.stamp.isSome = true → x.state = .stamping
  blink : x.blink.isSome = x.state.blinking

/-- A port is lawful: its attempt count holds at 255 (R99), and gate latch and deadline suit its state
(R99, R100, R105, R108, R112). -/
structure Port.Lawful (x : Port) : Prop where
  attempts : x.attempts ≤ 255
  isolated : x.state = .isolated → x.gate = false ∧ x.deadline = none
  offered : x.state = .offered → x.gate = false ∧ x.deadline ≠ none
  opening : x.state = .opening → x.gate = true ∧ x.deadline = none
  opened : x.state = .opened → x.gate = true ∧ x.deadline = none
  closing : x.state = .closing → x.gate = true ∧ x.deadline ≠ none
  withdrawing : x.state = .withdrawing → x.deadline ≠ none

/-- Payload Power Control is lawful at a slot: a slot whose switch is OFF has its blade reset asserted
(R89, R91), and while the part runs no ramp limit, reset hold or minute deadline (R91). -/
structure Power.Lawful (held : Bool) (p : Power) : Prop where
  reset : p.switchOn = false → p.resetAsserted = true
  limit : held = false → p.switchOn = false → p.rampLimit = none
  hold : held = false → p.switchOn = false → p.resetHold = none
  minute : held = false → p.switchOn = false → p.minute = none

/-- A link engine is lawful: only a link that is UP has queued messages (R141, R143, R144), only a LOST
link has a recovery deadline (R143, R145), an ABSENT link has no request outstanding (R141), on a
LOST link only a recovery probe is outstanding (R143, R145), and each message queued or outstanding has a
placer that places its kind (R125, R130). -/
structure Engine.Lawful (e : Engine) : Prop where
  queue : e.link ≠ .up → e.queue = []
  recovery : e.recovery ≠ none → e.link = .lost
  absent : e.link = .absent → e.out = none
  lost : e.link = .lost → ∀ o, e.out = some o → o.recovery = true
  placed : ∀ q ∈ e.queue, q.placer ∈ q.msg.placers
  sent : ∀ o, e.out = some o → o.placer ∈ o.msg.placers

/-- The journal is lawful: it never holds more than 128 unread notices (R163), and a gap is pending
exactly while its mask has a bit (R169, R170). -/
structure Journal.Lawful (j : Journal) : Prop where
  unread : (j.writeCount - j.readCount).toNat ≤ 128
  gap : j.gapPending = true ↔ j.gapMask ≠ 0

/-- The allocator is lawful: the granted total is the sum of the claims and no more than the capacity
(R60), and the shelf order list holds at most four orders (R43). -/
structure Allocator.Lawful (a : Allocator) : Prop where
  granted : a.granted = a.claims.toList.sum
  capacity : a.granted ≤ a.capacity
  shelf : a.shelf.length ≤ 4

/-- The invariant of the part. -/
structure Inv (s : State) : Prop where
  mem : Memory.wf s.mem = true
  journal : s.journal.Lawful
  alloc : s.alloc.Lawful
  history : s.history.length ≤ 4
  slots : ∀ i, (s.slot i).Lawful
  ports : ∀ p, (s.portOf p).Lawful
  power : ∀ i, (s.pwr i).Lawful s.held
  engines : ∀ i, (s.engine i).Lawful

/-! ### States between two events -/

/-- No work of an event is left: the state between two events. -/
structure State.Ready (s : State) : Prop where
  work : s.work = []
  late : s.late = []
  shelf : s.shelfDirty = false
  changed : s.changed = []
  broughtBy : s.broughtBy = none

/-- Between two events, with the RESET line not taken as asserted. -/
structure State.Live (s : State) : Prop extends s.Ready where
  held : s.held = false

/-- Nothing waits in another slot: the Power Wait Queue is empty and no slot is JOINING or LEAVING, so
that an event brings no move of a slot it does not name. -/
structure State.Quiet (s : State) : Prop where
  queue : s.alloc.queue = []
  slots : ∀ j, (s.slot j).state ≠ .joining ∧ (s.slot j).state ≠ .leaving

/-- Nothing waits in a slot but `i`: no other slot is JOINING or LEAVING, the Power Wait Queue is empty
or holds entries of `i` alone while it is in AWAIT-POWER, and no SET-TIMING waits. -/
structure State.QuietBut (s : State) (i : SlotId) : Prop where
  queue : s.alloc.queue = [] ∨ (s.slot i).state = .awaitPower ∧ ∀ e ∈ s.alloc.queue, e.slot = i
  timing : s.alloc.timingAtFront = false
  slots : ∀ j, j ≠ i → (s.slot j).state ≠ .joining ∧ (s.slot j).state ≠ .leaving

/-- A move of port `p` to ISOLATED, OPEN or WITHDRAWING ends no join and no leave of its two slots: one
that is JOINING has another port OFFERED or OPENING, one that is LEAVING another port not ISOLATED. -/
structure State.KeepsCourse (s : State) (p : PortId) : Prop where
  joining : ∀ i ∈ [nodeSlot p, hubSlot p], (s.slot i).state = .joining →
    ∃ q ∈ slotPorts i, q ≠ p ∧ ((s.portOf q).state = .offered ∨ (s.portOf q).state = .opening)
  leaving : ∀ i ∈ [nodeSlot p, hubSlot p], (s.slot i).state = .leaving →
    ∃ q ∈ slotPorts i, q ≠ p ∧ (s.portOf q).state ≠ .isolated

/-- A slot with no order and no handle request. -/
structure Slot.Idle (x : Slot) : Prop where
  orders : x.orders = []
  active : x.active = false
  latch : x.latch = false

/-- The intake takes cell `c` next, whose kind is `k` and which passes the intake checks. -/
structure State.Takes (s : State) (c : CellId) (k : OrderKind) : Prop extends s.Live where
  next : s.intakeNext = some c
  kind : s.cellKind c = some k
  passes : intakeRefusal s c = none

/-- The intake takes cell `c` next, which passes the intake checks and names slot `i`. -/
structure State.TakesFor (s : State) (c : CellId) (k : OrderKind) (i : SlotId) : Prop
    extends s.Takes c k where
  slot : s.cellSlot c = some i

/-! ### What an event leaves -/

/-- Two states of a slot that differ at most in the update count. -/
def Slot.Like (x y : Slot) : Prop := { x with upd := 0 } = { y with upd := 0 }

/-- Every slot but `i` is as it was, but for the update count of its record. -/
def OtherSlots (i : SlotId) (s t : State) : Prop := ∀ j, j ≠ i → (t.slot j).Like (s.slot j)

/-- The payload power of every slot but `i` is as it was. -/
def OtherPower (i : SlotId) (s t : State) : Prop := ∀ j, j ≠ i → t.pwr j = s.pwr j

/-- The link engine of every slot but `i` is as it was. -/
def OtherEngines (i : SlotId) (s t : State) : Prop := ∀ j, j ≠ i → t.engine j = s.engine j

/-- The state of every cell but `c`, and every byte outside the result fields of `c`, is as it was. -/
def OtherCells (c : CellId) (s t : State) : Prop :=
  (∀ d, d ≠ c → t.cell d = s.cell d)
  ∧ ∀ a, a < cellOffset c + 0x1C ∨ cellOffset c + 0x80 ≤ a → Memory.read t.mem a = Memory.read s.mem a

/-- No cell and no byte of a cell is changed. -/
def CellsKept (s t : State) : Prop := t.cells = s.cells ∧ t.mem = s.mem

/-- The bytes `bs` stand in the Shelf Area from offset `a` on. -/
def State.Shows (s : State) (a : Nat) (bs : List Byte) : Prop :=
  ∀ k, k < bs.length → s.areaByte (a + k) = byteAt bs k

/-- A message waits in the queue of an engine or is its outstanding request. -/
def Engine.Carries (e : Engine) (m : Msg) : Prop :=
  (∃ q ∈ e.queue, q.msg = m) ∨ ∃ o, e.out = some o ∧ o.msg = m ∧ o.live = true

end Sys2Proof.Machine
end

