-- ==== Sys2Proof/Certificates/Slice0/Obligations.lean ====
section
/-! DEFINITION. The statements about the part. A deadline has passed at its own millisecond (`due`,
`reached`; log 16). -/

open Sys2Proof Sys2Proof.Machine

/-! ### The machine as a whole -/

/-- A step takes the command at the front of the queue and runs it with the queue's rest. -/
def Obligations.StepRunsFrontCommand : Prop :=
  ∀ (c : Instr) (rest : List Instr) (s : State),
    step { s with pending := c :: rest } = exec c { s with pending := rest }

/-- On an empty queue a step is one millisecond (the model's choice, log 4): the shelf time advances
modulo 2^32, the part takes a RESET line that has been asserted for 1 ms (R193), the commands that have
come due join the queue (none during the hold of the RESET line), and nothing else changes. -/
def Obligations.IdleStepIsOneMillisecond : Prop :=
  ∀ s : State, s.pending = [] →
    let u : State := { s with
      time := s.time + 1
      held := s.held || due (s.time + 1) (s.resetLine.map fun since => after since 1) }
    step s = .next { u with pending := dueCommands u } ∧ (u.held = true → dueCommands u = [])

/-- State.reset is the part after power-on reset (R190), with the board of log 5. -/
def Obligations.ResetState : Prop :=
  State.reset.pending = [] ∧ State.reset.time = 0 ∧ State.reset.port.cause = .powerOn
  ∧ State.reset.held = false ∧ State.reset.resetLine = none
  ∧ State.reset.port.run = false ∧ State.reset.port.noticeEnable = false
  ∧ State.reset.port.attention = 0 ∧ State.reset.port.enable = 0 ∧ State.reset.noticePin = false
  ∧ State.reset.pointer = 0 ∧ State.reset.shelfRevision = 0 ∧ State.reset.mem = []
  ∧ (∀ c, State.reset.cell c = .free)
  ∧ State.reset.journal.writeCount = 0 ∧ State.reset.journal.readCount = 0
  ∧ State.reset.journal.gapMask = 0 ∧ State.reset.journal.gapPending = false
  ∧ (∀ i, (State.reset.slot i).state = .vacant ∧ (State.reset.slot i).prev = .vacant
      ∧ (State.reset.slot i).entry = 0 ∧ (State.reset.slot i).gen = 1 ∧ (State.reset.slot i).upd = 0
      ∧ (State.reset.slot i).orders = [] ∧ (State.reset.slot i).hold = false
      ∧ (State.reset.slot i).latch = false ∧ (State.reset.slot i).fault = none)
  ∧ State.reset.alloc.capacity = budgetOf State.reset.straps.budgetCode
  ∧ State.reset.alloc.hubReserve = 0 ∧ State.reset.alloc.granted = 0
  ∧ (∀ i : SlotId, State.reset.alloc.claims[i] = 0)
  ∧ State.reset.alloc.queue = [] ∧ State.reset.alloc.ramping = [] ∧ State.reset.alloc.shelf = []
  ∧ State.reset.alloc.feedALost = false ∧ State.reset.alloc.feedBLost = false
  ∧ (∀ i, (State.reset.pwr i).switchOn = false ∧ (State.reset.pwr i).resetAsserted = true
      ∧ (State.reset.pwr i).onRef = none ∧ (State.reset.pwr i).offRef = none
      ∧ (State.reset.pwr i).goodTime = 0 ∧ (State.reset.pwr i).offTime = 0)
  ∧ State.reset.history = [] ∧ State.reset.settings = ⟨40, 500, 4, 3000, 1500, 5000, 10000⟩
  ∧ (∀ p, State.reset.portOf p = ⟨.isolated, false, 0, none, false⟩)
  ∧ (∀ i, (State.reset.engine i).link = .absent ∧ (State.reset.engine i).nextSeq = 0
      ∧ (State.reset.engine i).queue = [])
  ∧ (∀ i, State.reset.indicatorLit i = false)

/-- The invariant holds at reset. -/
def Obligations.ResetHasInvariant : Prop := Inv State.reset

/-- Every step keeps the invariant: the memory of the order cells stays canonical, the journal never
holds more than 128 unread notices (R163), the granted total stays the sum of the claims within the
capacity (R60), generations are never 0 (R1), lists hold at most four orders, deadlines exist in their
own states alone, gates and deadlines suit the port states, a slot with its switch OFF has its blade
reset asserted, only a link that is UP has queued messages, and each message queued or outstanding has a
placer that places its kind (R125, R130). -/
def Obligations.StepKeepsInvariant : Prop :=
  ∀ s t : State, Inv s → step s = .next t → Inv t

/-- Every command, with every operand, completes in a next state that leaves the queue; every command
but POWER_ON_RESET leaves the shelf time and the straps. -/
def Obligations.EveryCommandCompletes : Prop :=
  ∀ (c : Instr) (s : State), Inv s → ∃ t, exec c s = .next t ∧ t.pending = s.pending
    ∧ ((∀ b, c ≠ .powerOnReset b) → t.time = s.time ∧ t.straps = s.straps)

/-- The record writes of an event (R2, R40, R45, R46; one write for an event, made also for a field that
changed and changed back in it, is the model's reading, log 6): every command but POWER_ON_RESET that is
no request of several words, of which each word is an event of its own (log 22), writes each slot's record
at most once, which adds one to its update count modulo 65536; it writes the record of each slot whose
fields it leaves other than they were; and a slot-queued order that joins its slot's list has the record
written once, though it be refused or finished in the same event. The record lies in the Shelf Area as
11_formats lays it out, with the generation and the update count in both copies. -/
def Obligations.RecordWrittenOncePerEvent : Prop :=
  (∀ (c : Instr) (s : State), Inv s → (∀ b, c ≠ .powerOnReset b) → c.hostAddresses.length ≤ 1 →
    ∃ t, exec c s = .next t ∧ ∀ i, (t.slot i).upd = (s.slot i).upd + 1
      ∨ (t.slot i).upd = (s.slot i).upd ∧ t.recordView i = s.recordView i)
  ∧ (∀ (s : State) (c : CellId) (k : OrderKind) (i : SlotId), Inv s → s.TakesFor c k i →
    k.orderClass = .slotQueued →
    ∃ t, exec (takeCommand (some k)) s = .next t ∧ (t.slot i).upd = (s.slot i).upd + 1)
  ∧ ∀ (s : State) (i : SlotId),
    let x := s.slot i
    let mirror : List (Nat × List Byte) :=
      if isHub i then (slotPorts i).mapIdx fun k p => (0x34 + k, [(s.portOf p).state.code])
      else (0x3A, List.replicate 8 0) :: (slotPorts i).mapIdx fun k p =>
        (0x34 + 3 * k, [(s.portOf p).state.code, if (s.portOf p).declined then 1 else 0,
          BitVec.ofNat 8 (s.portOf p).attempts])
    ∀ f ∈ [(0x00, le16 x.gen), (0x02, le16 x.upd), (0x04, [x.state.code]), (0x05, [x.prev.code]),
        (0x06, [x.presence.code]), (0x07, [if x.handleOpen then 1 else 0]), (0x08, le32 x.entry),
        (0x0C, [(if x.latch then 1 else 0) ||| (if x.hold then 2 else 0)]),
        (0x0D, [(if x.policy.handle = .selfRetire then 1 else 0)
          ||| (if x.policy.fault = .notify then 2 else 0) ||| (if x.policy.stampOnHandle then 4 else 0)]),
        (0x0E, [x.idStatus.code]), (0x0F, [x.idReason.code]), (0x10, [x.ident.format]),
        (0x11, [x.ident.kind]), (0x12, le16 x.ident.vendor), (0x14, le16 x.ident.draw),
        (0x16, [x.ident.inrush]), (0x17, [x.ident.bootHint]),
        (0x18, (List.range 8).map fun k => byteAt x.ident.serial k),
        (0x20, le16 (BitVec.ofNat 16 x.claim)), (0x22, [waitByte x.waitReason]),
        (0x23, [BitVec.ofNat 8 x.queuePos]), (0x24, le32 (s.pwr i).goodTime),
        (0x28, le32 (s.pwr i).offTime), (0x2C, [faultByte x.fault]), (0x2D, [(s.engine i).link.code]),
        (0x2E, [agentByte x.lastAgent]), (0x2F, [x.lastCause]), (0x30, le32 x.faultTime),
        (0x42, [BitVec.ofNat 8 x.nextRow.val]), (0x43, [x.nextSeq]), (0x44, [stampByte x.lastStamp]),
        (0x45, [BitVec.ofNat 8 x.admissions]), (0x46, le16 (BitVec.ofNat 16 x.minutes)),
        (0x48, [match x.activeCell with
          | some c => BitVec.ofNat 8 c.val
          | none => 0xFF]),
        (0x49, [BitVec.ofNat 8 x.waiting.length]), (0x4A, List.replicate 50 0), (0x7C, le16 x.gen),
        (0x7E, le16 x.upd)] ++ mirror,
      s.Shows (0x1400 + 128 * i.val + f.1) f.2

/-! ### The Management Port -/

/-- CELL_POST, CELL_WITHDRAW and CELL_RETURN (R178): POSTED is stored over FREE alone, FREE over POSTED,
FINISHED and REFUSED alone; every other such write is refused, which latches ATTENTION.GUARD. The same
holds of a write of any word over a cell's state word, by its low byte alone: with that byte not enabled
nothing changes (R177). Body, result fields and everything else stand. -/
def Obligations.CellStateWrites : Prop :=
  ∀ (c : CellId) (s : State), s.Live →
    exec (.cellPost c) s =
      .next (if s.cell c = .free then s.setCell c .posted else s.latch .guard)
    ∧ exec (.cellWithdraw c) s =
      .next (if s.cell c = .posted ∨ s.cell c = .finished ∨ s.cell c = .refused
        then s.setCell c .free else s.latch .guard)
    ∧ exec (.cellReturn c) s =
      .next (if s.cell c = .posted ∨ s.cell c = .finished ∨ s.cell c = .refused
        then s.setCell c .free else s.latch .guard)
    ∧ ∀ (v : Word) (e : BitVec 4), exec (.shelfAreaWriteRefused (cellOffset c) ⟨v, e⟩ []) s =
      .next (if e.getLsbD 0 = false then s
        else if s.cell c = .free ∧ v.setWidth 8 = (1 : Byte) then s.setCell c .posted
        else if (s.cell c = .posted ∨ s.cell c = .finished ∨ s.cell c = .refused)
          ∧ v.setWidth 8 = (0 : Byte) then s.setCell c .free
        else s.latch .guard)

/-- CELL_BODY_WRITE (R179): while the cell is FREE the enabled bytes of the word are stored, and every
other byte of every cell stands; while it is not FREE the write is refused, whichever bytes it enables
(log 24). With the cell's state POSTED in the same request the body word goes first: it is stored and the
cell is then POSTED, or each of the two words is refused (R175, R179). -/
def Obligations.CellBodyWrite : Prop :=
  ∀ (c : CellId) (w : Nat) (v : Word) (e : BitVec 4) (p : WordData) (s : State), s.Live → Inv s →
    (Instr.cellBodyWrite c w ⟨v, e⟩ []).wellFormed = true →
    let posts := p.enable.getLsbD 0 = true ∧ p.value.setWidth 8 = (1 : Byte)
    (s.cell c = .free → ∃ m, exec (.cellBodyWrite c w ⟨v, e⟩ []) s = .next { s with mem := m }
      ∧ (posts → exec (.cellBodyWrite c w ⟨v, e⟩ [⟨cellOffset c, p⟩]) s =
        .next (({ s with mem := m } : State).setCell c .posted))
      ∧ Memory.wf m = true
      ∧ ∀ a, Memory.read m a =
        if cellOffset c + 4 * w ≤ a ∧ a < cellOffset c + 4 * w + 4
            ∧ e.getLsbD (a - (cellOffset c + 4 * w)) = true
        then (v >>> (8 * (a - (cellOffset c + 4 * w)))).setWidth 8 else Memory.read s.mem a)
    ∧ (s.cell c ≠ .free → exec (.cellBodyWrite c w ⟨v, e⟩ []) s = .next (s.latch .guard)
      ∧ (posts → exec (.cellBodyWrite c w ⟨v, e⟩ [⟨cellOffset c, p⟩]) s =
        .next ((s.latch .guard).latch .guard)))

/-- READ_COUNT_WRITE (R181), with r the read count, w the write count and r' the value the write would
store: stored when r' less r is no more than w less r, modulo 65536, else refused. A stored advance
makes the room test (R164, R170); a stored write of r changes nothing. -/
def Obligations.ReadCountWrite : Prop :=
  ∀ (v : Word) (e : BitVec 4) (s : State), s.Live →
    let r := s.journal.readCount
    let r' : Word16 := (mergeWord (r.setWidth 32) v e).setWidth 16
    (¬ (r' - r).toNat ≤ (s.journal.writeCount - r).toNat →
      exec (.readCountWrite ⟨v, e⟩ []) s = .next (s.latch .guard))
    ∧ ((r' - r).toNat ≤ (s.journal.writeCount - r).toNat → r' = r →
      exec (.readCountWrite ⟨v, e⟩ []) s = .next s)
    ∧ ((r' - r).toNat ≤ (s.journal.writeCount - r).toNat → r' ≠ r →
      exec (.readCountWrite ⟨v, e⟩ []) s =
        .next (roomTest { s with journal := { s.journal with readCount := r' } }))

/-- Handing a notice (R168, R169, R170). The room test comes first: with a gap pending, RUN set and
room, one GAP notice that carries the mask is written at the next entry, the mask is emptied and the gap
is cleared; otherwise it does nothing. Then the notice is written at the next entry when RUN is set, the
journal is not full and no gap is pending; otherwise its source is marked in the gap mask and a gap is
pending. Nothing changes but the journal, the ATTENTION bits, the count of messages sent and the shelf
revision. An entry that holds a notice shows it in the Shelf Area as 11_formats lays it out. -/
def Obligations.NoticeWrittenOrFolded : Prop :=
  (∀ (n : Notice) (s : State),
    let u := roomTest s
    ((s.journal.gapPending = true ∧ s.port.run = true ∧ s.journal.full = false) →
      u.journal = { s.journal with
        entries := s.journal.entries.set (entryOf s.journal.writeCount) (some (gapNotice s))
        writeCount := s.journal.writeCount + 1, gapMask := 0, gapPending := false }
      ∧ u.port.attention = s.port.attention ||| Attention.journal.mask
      ∧ u.shelfRevision = s.shelfRevision + 1)
    ∧ (¬ (s.journal.gapPending = true ∧ s.port.run = true ∧ s.journal.full = false) → u = s)
    ∧ ((u.port.run = true ∧ u.journal.full = false ∧ u.journal.gapPending = false) →
      (handNotice n s).journal = { u.journal with
        entries := u.journal.entries.set (entryOf u.journal.writeCount) (some n)
        writeCount := u.journal.writeCount + 1 }
      ∧ (handNotice n s).port.attention = u.port.attention ||| Attention.journal.mask)
    ∧ (¬ (u.port.run = true ∧ u.journal.full = false ∧ u.journal.gapPending = false) →
      (handNotice n s).journal = { u.journal with
        gapMask := u.journal.gapMask ||| n.mark, gapPending := true }
      ∧ (handNotice n s).port.attention =
        if u.journal.full then u.port.attention ||| Attention.journalFull.mask
        else u.port.attention)
    ∧ (∃ j a k r, u = { s with
        journal := j, port := { s.port with attention := a, messages := k }, shelfRevision := r })
    ∧ ∃ j a k r, handNotice n s = { s with
        journal := j, port := { s.port with attention := a, messages := k }, shelfRevision := r })
  ∧ ∀ (s : State) (e : Fin 128) (n : Notice), s.journal.entries[e.val]'e.isLt = some n →
    s.Shows (0x2000 + 32 * e.val) ([n.body.codes.1, match n.slot with
        | some i => BitVec.ofNat 8 (i.val + 1)
        | none => 0, n.body.codes.2, stateByte n.state] ++ le32 n.time ++ le16 n.gen
      ++ [stateByte n.prev] ++ n.body.portBytes ++ [if n.tag.isSome then 1 else 0]
      ++ le16 (n.tag.getD 0) ++ le32 (n.body.mask.setWidth 32) ++ List.replicate 12 0)

/-- SHELF_AREA_WRITE_REFUSED and REGISTER_WRITE_REFUSED (R177, R188): a write of the area header, the
shelf record, the write count, a slot record, the journal, an offset in no region, STATUS, SHELF-TIME or
beyond the registers is refused: nothing is stored and ATTENTION.GUARD latches. A write of the word at
0x0100 that enables neither byte of the write count reaches ignored bytes alone and changes nothing
(R176, R177). A write of a cell, of the read count, of ATTENTION or of ATTENTION-ENABLE is the write that
its own command makes. A request of several words is applied one word at a time, in ascending order of
address, with the words that hold a cell's state field after every other word (R175), and a refused word
does not stop the others (R177). That each word is applied as the request of that word alone, a whole
event of its own, is the model's choice (log 22). -/
def Obligations.GuardRefusesWrites : Prop :=
  (∀ (a : Nat) (d : WordData) (s : State), s.Live →
    ((a < 0x0400 ∧ a ≠ 0x0100 ∧ a ≠ 0x0104) ∨ (0x1400 ≤ a ∧ a < 0x4000) →
      exec (.shelfAreaWriteRefused a d []) s = .next (s.latch .guard))
    ∧ exec (.shelfAreaWriteRefused 0x0100 d []) s =
      .next (if d.enable.getLsbD 0 = true ∨ d.enable.getLsbD 1 = true then s.latch .guard else s)
    ∧ (a = 0x4004 ∨ (0x4010 ≤ a ∧ a < 0x8000) →
      exec (.registerWriteRefused a d []) s = .next (s.latch .guard)))
  ∧ (∃ f : WordWrite → State → State,
    (∀ (w : WordWrite) (s : State), exec (.shelfAreaWriteRefused w.addr w.data []) s = .next (f w s))
    ∧ ∀ (c : CellId) (w a : Nat) (d : WordData) (more : List WordWrite) (s : State),
      let request := fun (addr : Nat) =>
        (requestOrder (⟨addr, d⟩ :: more)).foldl (fun (t : State) (w : WordWrite) => f w t) s
      exec (.cellBodyWrite c w d more) s = .next (request (cellOffset c + 4 * w))
      ∧ exec (.readCountWrite d more) s = .next (request 0x0104)
      ∧ exec (.shelfAreaWriteRefused a d more) s = .next (request a)
      ∧ exec (.attentionClear d more) s = .next (request 0x4008)
      ∧ exec (.attentionEnableWrite d more) s = .next (request 0x400C)
      ∧ exec (.registerWriteRefused a d more) s = .next (request a))
  ∧ ∀ ws : List WordWrite, (requestOrder ws).Perm ws ∧ (requestOrder ws).Pairwise fun u v =>
    if isStateWord u = isStateWord v then u.addr ≤ v.addr else isStateWord v = true

/-- RUN_SET, RUN_CLEAR and NOTICE_ENABLE_WRITE (R184): RUN and NOTICE-ENABLE are stored and the NOTICE
condition is evaluated afresh; RUN going from clear to set brings the room test (R171); nothing else
changes. -/
def Obligations.ControlWrites : Prop :=
  ∀ (n : Bool) (s : State), s.Live →
    let stored := fun (r : Bool) => s.updatePort fun p => { p with run := r, noticeEnable := n }
    exec (.runSet n) s = .next (if s.port.run then stored true else roomTest (stored true))
    ∧ exec (.runClear n) s = .next (stored false)
    ∧ exec (.noticeEnableWrite n) s = .next (stored s.port.run)

/-- ATTENTION_CLEAR, ATTENTION_ENABLE_WRITE and MESSAGE_ENABLE_CHANGE (R186, R187). A clear clears each
bit written as 1 in the enabled low byte and, in message form, sends one message if the condition still
holds. An enable write stores the six enables from the enabled low byte and, in message form, sends one
message if that makes the condition hold. When messages become enabled one is sent if the condition
holds; the NOTICE pin shows the condition while they are not. A latch sets its bit whatever its enable,
and in message form sends one message if that makes the condition hold. Nothing else changes. -/
def Obligations.AttentionRegisters : Prop :=
  ∀ (v : Word) (e : BitVec 4) (b : Bool) (s : State), s.Live →
    (∃ t, exec (.attentionClear ⟨v, e⟩ []) s = .next t
      ∧ t.port.attention =
        (if e.getLsbD 0 then s.port.attention &&& ~~~(v.setWidth 6) else s.port.attention)
      ∧ t.port.messages = s.port.messages +
        (if t.port.noticeHolds = true ∧ s.port.messageEnable = true then 1 else 0)
      ∧ t = { s with port := { s.port with
          attention := t.port.attention, messages := t.port.messages } })
    ∧ (∃ t, exec (.attentionEnableWrite ⟨v, e⟩ []) s = .next t
      ∧ t.port.enable = (if e.getLsbD 0 then v.setWidth 6 else s.port.enable)
      ∧ t.port.messages = s.port.messages +
        (if t.port.noticeHolds = true ∧ s.port.noticeHolds = false ∧ s.port.messageEnable = true
          then 1 else 0)
      ∧ t = { s with port := { s.port with
          enable := t.port.enable, messages := t.port.messages } })
    ∧ (∃ t, exec (.messageEnableChange b) s = .next t
      ∧ t = { s with port := { s.port with messageEnable := b, messages := t.port.messages } }
      ∧ t.port.messages = s.port.messages +
        (if b = true ∧ s.port.messageEnable = false ∧ s.port.noticeHolds = true then 1 else 0)
      ∧ t.noticePin = (s.port.noticeHolds && !b))
    ∧ ∀ a : Attention, ∃ p : MgmtPort, s.latch a = { s with port := p }
      ∧ p = { s.port with attention := s.port.attention ||| a.mask, messages := p.messages }
      ∧ p.messages = s.port.messages +
        (if p.noticeHolds = true ∧ s.port.noticeHolds = false ∧ s.port.messageEnable = true
          then 1 else 0)

/-! ### The hold of the RESET line -/

/-- RESET_LINE_ASSERT asserts the RESET line (that the command is the edge of the line, and not the
take, is the model's reading, log 18). The part takes it, and is held with every latch and field at its
level, once it has been asserted for 1 ms without a break; a release before that ends the assertion and
starts nothing (R193), an assertion of a line already asserted is no new one (the model's choice, log
2). During the hold every host write is discarded: nothing is stored and nothing latches (R175). The
NOTICE pin is deasserted and every word of the window reads zeros. Outside the hold a word of the Shelf
Area reads its four bytes, and the area header, the shelf record, the two counts and the order cells
read as 11_formats lays them out, and so do the five registers (R184 to R188). -/
def Obligations.HoldDiscardsHostWrites : Prop :=
  (∀ (a : Nat) (w : Nat) (cell : CellId) (d : WordData) (more : List WordWrite) (n : Bool) (s : State),
    exec .resetLineAssert s = .next { s with resetLine := some (s.resetLine.getD s.time) }
    ∧ (s.held = false → exec .resetLineRelease s = .next { s with resetLine := none })
    ∧ (s.pending = [] → s.resetLine = none → ∃ t, exec .resetLineAssert s = .next t ∧ t.held = s.held
      ∧ step t = .next { s with time := s.time + 1, held := true, resetLine := some s.time })
    ∧ (s.Ready → s.held = true →
      (∀ c ∈ [Instr.restart, .cellPost cell, .cellWithdraw cell, .cellReturn cell,
        .cellBodyWrite cell w d more, .readCountWrite d more, .shelfAreaWriteRefused a d more,
        .runSet n, .runClear n, .noticeEnableWrite n, .attentionClear d more,
        .attentionEnableWrite d more, .registerWriteRefused a d more], exec c s = .next s)
      ∧ s.noticePin = false ∧ s.readWord a = 0))
  ∧ (∀ (s : State) (a : Nat), s.held = false → a < 0x4000 → s.readWord a =
    ofBytes32 (s.areaByte a) (s.areaByte (a + 1)) (s.areaByte (a + 2)) (s.areaByte (a + 3)))
  ∧ (∀ (s : State), s.held = false →
    s.readWord 0x4000 = (if s.port.run then 1 else 0) ||| (if s.port.noticeEnable then 2 else 0)
    ∧ (let w := s.readWord 0x4004
      w.extractLsb' 0 2 = (match s.port.cause with
        | .powerOn => 1
        | .resetLine => 2
        | .restartBit => 3)
      ∧ w.getLsbD 2 = s.alloc.feedALost ∧ w.getLsbD 3 = s.alloc.feedBLost
      ∧ w.extractLsb' 4 6 = s.straps.shelfNumber ∧ w.extractLsb' 10 2 = s.straps.budgetCode
      ∧ w.extractLsb' 12 2 = s.straps.feedLevel ∧ w.getLsbD 14 = s.straps.feedHold
      ∧ w.getLsbD 15 = decide (s.straps.handleDefault = .selfRetire)
      ∧ w.getLsbD 16 = decide (s.straps.faultDefault = .notify)
      ∧ w.extractLsb' 17 7 = 0 ∧ w.extractLsb' 24 8 = 1)
    ∧ s.readWord 0x4008 = s.port.attention.setWidth 32 ∧ s.readWord 0x400C = s.port.enable.setWidth 32
    ∧ s.readWord 0x4010 = s.time ∧ ∀ a, 0x4014 ≤ a → s.readWord a = 0)
  ∧ (∀ (s : State) (c : CellId), s.Shows (cellOffset c) [(s.cell c).code, 0, 0, 0]
    ∧ ∀ k, 4 ≤ k → k < 128 → s.areaByte (cellOffset c + k) = Memory.read s.mem (cellOffset c + k))
  ∧ ∀ (s : State), ∀ f ∈ [(0x00, [1, 0, 32, 16] ++ le16 128 ++ List.replicate 10 0),
      (0x10, le16 s.shelfRevision ++ [0, 0]), (0x14, le16 (BitVec.ofNat 16 s.alloc.capacity)),
      (0x16, le16 (BitVec.ofNat 16 s.alloc.hubReserve)), (0x18, le16 (BitVec.ofNat 16 s.alloc.granted)),
      (0x1A, [if s.alloc.feedALost then 1 else 0, if s.alloc.feedBLost then 1 else 0]),
      (0x1C, le16 (BitVec.ofNat 16 s.settings.rampGap)),
      (0x1E, le16 (BitVec.ofNat 16 s.settings.rampWindow)),
      (0x20, le16 (BitVec.ofNat 16 s.settings.minOn)),
      (0x22, le16 (BitVec.ofNat 16 s.settings.minOff)),
      (0x24, le16 (BitVec.ofNat 16 s.settings.drainLimit)),
      (0x26, [BitVec.ofNat 8 s.settings.windowLimit, BitVec.ofNat 8 s.history.length]),
      (0x28, le32 (BitVec.ofNat 32 s.settings.quiesceLimit)),
      (0x2C, (List.range 4).flatMap fun k => le32 (s.history.getD k 0)),
      (0x3C, (List.range 16).map fun k => match s.alloc.queue[k]? with
        | some q => BitVec.ofNat 8 (q.slot.val + 1)
        | none => 0),
      (0x4C, (List.range 4).flatMap fun k => match s.alloc.shelf[k]? with
        | some e => [BitVec.ofNat 8 e.cell.val, e.kind.code]
        | none => [0xFF, 0]),
      (0x54, le32 (s.journal.gapMask.setWidth 32)),
      (0x58, [if s.journal.gapPending then 1 else 0, s.straps.shelfNumber.setWidth 8,
        s.straps.budgetCode.setWidth 8, s.straps.feedLevel.setWidth 8,
        if s.straps.feedHold then 1 else 0, if s.straps.handleDefault = .selfRetire then 1 else 0,
        if s.straps.faultDefault = .notify then 1 else 0]),
      (0x5F, List.replicate 157 0), (0xFC, le16 s.shelfRevision ++ [0, 0]),
      (0x100, le16 s.journal.writeCount ++ [0, 0]), (0x104, le16 s.journal.readCount ++ [0, 0])],
    s.Shows f.1 f.2

/-- During the hold of the RESET line no deadline, frame or take is acted on; contacts, handles, feeds,
power-good and ALERT change their raw level alone, held or not, with at most the time from which its
debounce runs; and a trip on a slot whose switch latch is ON clears
the latch and asserts the blade reset (R193). -/
def Obligations.HoldStopsEvents : Prop :=
  ∀ (i : SlotId) (p : PortId) (f : List Byte) (r : RefKind) (s : State), s.Ready → s.held = true →
    (∀ c ∈ [Instr.admitBlade, .retire, .survey, .readIdentity, .clearFault, .cut, .cancel, .hold,
        .unhold, .setPolicy, .setBudget, .setTiming, .badKindTake, .settleExpiry i,
        .waitDeadlineExpiry i, .reexaminationExpiry, .rampLimitExpiry i, .resetHoldExpiry i,
        .deferralExpiry i, .minuteExpiry i, .horizonExpiry i r, .historyEntryAge, .bootLimitExpiry i,
        .quiesceDeadlineExpiry i, .offerDeadlineExpiry p, .drainDeadlineExpiry p, .frameArrival i f,
        .replyDeadlineExpiry i, .notBeforeExpiry i, .pollDeadlineExpiry i, .recoveryDeadlineExpiry i,
        .probePauseExpiry i, .programLimitExpiry i, .indicatorBlinkPhase i], exec c s = .next s)
    ∧ (∀ b : Bool, exec (.alert i b) s = .next (s.modPins i fun x => { x with alert := b }))
    ∧ (∀ (b h : Bool) (cu : Instr × State), cu ∈ [
        (Instr.contactDebounce i .long ⟨b, h⟩, s.modPins i fun x => { x with long := b }),
        (.contactDebounce i .short ⟨b, h⟩, s.modPins i fun x => { x with short := b }),
        (.handleDebounce i ⟨b, h⟩, s.modPins i fun x => { x with handleOpen := b }),
        (.feedDebounce .a ⟨b, h⟩, { s with feedALow := b }),
        (.feedDebounce .b ⟨b, h⟩, { s with feedBLow := b })] →
      ∃ d, exec cu.1 s = .next { cu.2 with debounceFrom := d } ∧ (h = true → d = s.debounceFrom))
    ∧ exec (.powerGood i) s = .next (s.modPins i fun x => { x with powerGood := true })
    ∧ exec (.powerGoodLoss i) s = .next (s.modPins i fun x => { x with powerGood := false })
    ∧ exec (.trip i) s = .next (if (s.pwr i).switchOn
        then s.modPower i fun x => { x with switchOn := false, resetAsserted := true } else s)

/-! ### The Order Intake and the orders -/

/-- The intake takes a cell when RUN is set and a cell is posted: the first posted cell at or after the
pointer, wrapping from cell 31 to cell 0; else it takes none and the pointer stays (that a take command
then changes nothing at all is the model's choice, log 2). A take moves the pointer to the cell after
the one taken, 31 being followed by 0, and brings it nearer to every other posted cell, so that none
waits for more than 32 takes; the pointer is 0 after power-on reset and after a warm restart (R36). -/
def Obligations.IntakeTakesFirstPosted : Prop :=
  (∀ (s : State) (c : CellId), s.intakeNext = some c ↔
    s.port.run = true ∧ s.cell c = .posted
    ∧ ∀ k : Nat, k < (c - s.pointer : CellId).val → s.cell (s.pointer + Fin.ofNat 32 k) ≠ .posted)
  ∧ (∀ s : State, s.intakeNext = none ↔ s.port.run = false ∨ ∀ c, s.cell c ≠ .posted)
  ∧ (∀ (s : State) (c : CellId), Inv s → s.Live → s.intakeNext = some c →
    ∃ t, exec (takeCommand (s.cellKind c)) s = .next t ∧ t.pointer = c + 1)
  ∧ (∀ (s : State) (k : Option OrderKind), s.Live → s.intakeNext = none →
    exec (takeCommand k) s = .next s)
  ∧ (∀ (s : State) (c d : CellId), s.cell c = .posted → s.intakeNext = some d → d ≠ c →
    (c - (d + 1) : CellId).val < (c - s.pointer : CellId).val)
  ∧ State.reset.pointer = 0
  ∧ ∀ s : State, Inv s → s.Live → ∃ t, exec .restart s = .next t ∧ t.pointer = 0

/-- The intake checks, in their order (R38): the refusal is the code of the first check that fails. The
parameters of each kind are in range as R38 and, for the seven settings, R80 give; the states in which an
order of each kind may act are those of R48 to R56. -/
def Obligations.IntakeChecksInOrder : Prop :=
  (∀ (s : State) (c : CellId),
    (OrderKind.ofCode (s.rd8 c 0x04) = none → intakeRefusal s c = some .badKind)
    ∧ ∀ k, OrderKind.ofCode (s.rd8 c 0x04) = some k →
      (k.orderClass = .shelfQueued →
        (s.rd8 c 0x05 ≠ 0 → intakeRefusal s c = some .badSlot)
        ∧ (s.rd8 c 0x05 = 0 → s.paramsInRange c k = false → intakeRefusal s c = some .badParam)
        ∧ (s.rd8 c 0x05 = 0 → s.paramsInRange c k = true → intakeRefusal s c =
            if 4 ≤ s.alloc.shelf.length then some .listFull else none))
      ∧ (k.orderClass ≠ .shelfQueued →
        (s.rd8 c 0x05 = 0 ∨ 16 < (s.rd8 c 0x05).toNat → intakeRefusal s c = some .badSlot)
        ∧ ∀ i : SlotId, (s.rd8 c 0x05).toNat = i.val + 1 →
          (s.paramsInRange c k = false → intakeRefusal s c = some .badParam)
          ∧ (s.paramsInRange c k = true → k.orderClass = .slotQueued → intakeRefusal s c =
              if (s.slot i).state = .vacant then some .slotEmpty
              else if 4 ≤ (s.slot i).orders.length then some .listFull else none)
          ∧ (s.paramsInRange c k = true → k.orderClass = .immediate → intakeRefusal s c =
              if s.cellCondition c ≠ 0 ∧ s.cellCondition c ≠ (s.slot i).gen then some .stale
              else if k.allows (s.slot i).state = false then some .wrongState else none)))
  ∧ (∀ (s : State) (c : CellId),
    let b := fun (k : Nat) => (s.rd8 c k).toNat
    let w := fun (k : Nat) => (s.rd16 c k).toNat
    (s.paramsInRange c .admitBlade = true ↔ b 0x0C ≤ 3 ∧ w 0x0E ≤ 3600)
    ∧ (s.paramsInRange c .retire = true ↔ b 0x0C ≤ 239)
    ∧ (s.paramsInRange c .readIdentity = true ↔ b 0x0C ≤ 7 ∧ (b 0x0D = 1 ∨ b 0x0D = 2)
      ∧ b 0x0C + b 0x0D ≤ 8)
    ∧ (s.paramsInRange c .setPolicy = true ↔ b 0x0C ≤ 1 ∧ b 0x0D ≤ 1 ∧ b 0x0E ≤ 1)
    ∧ (s.paramsInRange c .setBudget = true ↔ w 0x0C ≤ 6000 ∧ w 0x0E ≤ 6000 ∧ w 0x0E ≤ w 0x0C)
    ∧ (s.paramsInRange c .setTiming = true ↔ 10 ≤ w 0x0C ∧ w 0x0C ≤ 1000
      ∧ 100 ≤ w 0x0E ∧ w 0x0E ≤ 5000 ∧ w 0x10 ≤ 60000 ∧ w 0x12 ≤ 60000
      ∧ 500 ≤ w 0x14 ∧ w 0x14 ≤ 60000
      ∧ 1000 ≤ (s.rd32 c 0x16).toNat ∧ (s.rd32 c 0x16).toNat ≤ 120000 ∧ 1 ≤ b 0x1A ∧ b 0x1A ≤ 4)
    ∧ ∀ k ∈ [OrderKind.survey, .clearFault, .cut, .cancel, .hold, .unhold],
      s.paramsInRange c k = true)
  ∧ ∀ st : SlotState,
    (∀ k ∈ [OrderKind.admitBlade, .survey], k.allows st = true ↔ st = .parked)
    ∧ (OrderKind.retire.allows st = true ↔ st = .inService)
    ∧ (∀ k ∈ [OrderKind.readIdentity, .clearFault],
      k.allows st = true ↔ st = .parked ∨ st = .inService ∨ st = .faulted)
    ∧ (OrderKind.cut.allows st = true ↔ st ∈ [SlotState.awaitPower, .ramping, .booting, .joining,
      .inService, .leaving, .quiescing, .stamping, .poweringOff, .resuming])
    ∧ (∀ k ∈ [OrderKind.cancel, .hold, .unhold], k.allows st = true ↔ st ≠ .vacant)
    ∧ OrderKind.setPolicy.allows st = true

/-- An order that fails an intake check is refused (R39): the cell becomes REFUSED with the refusal code
as outcome, time taken and time finished equal, and the generation and state of the slot it names, 0 and
NONE when it names none; ATTENTION.ORDER-DONE latches. No slot, list, budget or setting changes. This
holds for every kind, and for a kind byte that matches none, BAD_KIND_TAKE, which is refused BAD-KIND
(`takeCommand none` is `badKindTake`). -/
def Obligations.IntakeRefuses : Prop :=
  ∀ (s : State) (c : CellId) (code : OrderRefusal), s.Live → Inv s → s.intakeNext = some c →
    intakeRefusal s c = some code →
    ∃ t, exec (takeCommand (s.cellKind c)) s = .next t
    ∧ t.cell c = .refused ∧ t.rd8 c 0x1C = code.code ∧ t.rd8 c 0x1D = 0 ∧ t.rd8 c 0x1F = 0
    ∧ t.rd32 c 0x20 = s.time ∧ t.rd32 c 0x24 = s.time
    ∧ (∀ i, s.cellSlot c = some i →
        t.rd16 c 0x28 = (s.slot i).gen ∧ t.rd8 c 0x1E = (s.slot i).state.code)
    ∧ (s.cellSlot c = none → t.rd16 c 0x28 = 0 ∧ t.rd8 c 0x1E = 0xFF)
    ∧ (s.cellKind c = none → code = .badKind)
    ∧ t.port.attention = s.port.attention ||| Attention.orderDone.mask
    ∧ t.pointer = c + 1 ∧ OtherCells c s t
    ∧ t.slots = s.slots ∧ t.alloc = s.alloc ∧ t.settings = s.settings ∧ t.power = s.power
    ∧ t.ports = s.ports ∧ t.engines = s.engines ∧ t.journal = s.journal

/-- What the part writes into a cell it refuses or finishes (R35, R39, R46): outcome, fault, generation
and state of the slot just then (0 and NONE when it has none), port summary, the two times and 64 bytes
of data, the unused bytes between written 0 (R203), then the state; ATTENTION.ORDER-DONE latches. Every
other byte and cell stands. -/
def Obligations.CellResultsWritten : Prop :=
  ∀ (c : CellId) (st : CellState) (r : CellResult) (s : State), Memory.wf s.mem = true →
    let t := writeResult c st r s
    t.cell c = st ∧ t.rd8 c 0x1C = r.code ∧ t.rd8 c 0x1D = faultByte r.fault
    ∧ (∀ i, r.slot = some i →
        t.rd8 c 0x1E = (s.slot i).state.code ∧ t.rd16 c 0x28 = (s.slot i).gen)
    ∧ (r.slot = none → t.rd8 c 0x1E = 0xFF ∧ t.rd16 c 0x28 = 0)
    ∧ t.rd8 c 0x1F = r.summary ∧ t.rd32 c 0x20 = r.taken ∧ t.rd32 c 0x24 = s.time
    ∧ (∀ k, k < 64 → t.rd8 c (0x40 + k) = byteAt r.data k)
    ∧ (∀ k, 0x2A ≤ k → k < 0x40 → t.rd8 c k = 0)
    ∧ t.port.attention = s.port.attention ||| Attention.orderDone.mask
    ∧ OtherCells c s t ∧ t.slots = s.slots ∧ t.alloc = s.alloc ∧ t.power = s.power
    ∧ t.ports = s.ports ∧ t.engines = s.engines ∧ t.journal = s.journal ∧ t.settings = s.settings

/-- A slot-queued order taken while its slot is in no settled state or has an active order waits (R13,
R40): it stands at the tail of the slot's list and its cell is TAKEN; nothing else changes. -/
def Obligations.QueuedOrderWaits : Prop :=
  ∀ (s : State) (c : CellId) (k : OrderKind) (i : SlotId), s.TakesFor c k i →
    k.orderClass = .slotQueued →
    (s.slot i).state.settled = false ∨ (s.slot i).active = true →
    ∃ t, exec (takeCommand (some k)) s = .next t
    ∧ t.slot i = { s.slot i with
        orders := (s.slot i).orders ++ [⟨c, k, s.time⟩], upd := (s.slot i).upd + 1 }
    ∧ (∀ j, j ≠ i → t.slot j = s.slot j)
    ∧ t = { s with pointer := c + 1, cells := (s.setCell c .taken).cells, slots := t.slots }

/-- ADMIT starts in PARKED with an empty list ahead of it, a VALID identity of the slot's kind and its
condition met, and the slot joins an empty Power Wait Queue (R8, R48, R63). When an examination test
fails the slot waits in AWAIT-POWER at position 1 with that test's reason (R66); the cell is TAKEN. -/
def Obligations.AdmitWaits : Prop :=
  ∀ (s : State) (c : CellId) (i : SlotId) (r : WaitReason), Inv s → s.Quiet →
    s.TakesFor c .admitBlade i → (s.slot i).state = .parked → (s.slot i).Idle →
    conditionMatches (s.cellCondition c) (s.slot i).gen = true →
    (s.slot i).idStatus = .valid → kindMatches i (s.slot i).ident.kind = true →
    examination s (entryFor i c s) = some r →
    ∃ t, exec .admitBlade s = .next t
    ∧ (t.slot i).state = .awaitPower ∧ (t.slot i).prev = .parked ∧ (t.slot i).entry = s.time
    ∧ (t.slot i).gen = nextGeneration (s.slot i).gen
    ∧ (t.slot i).waitReason = some r ∧ (t.slot i).queuePos = 1 ∧ (t.slot i).claim = (s.slot i).claim
    ∧ (t.slot i).orders = [⟨c, .admitBlade, s.time⟩] ∧ (t.slot i).active = true
    ∧ t.alloc.queue = [⟨i, (s.rd8 c 0x0C).toNat, s.time,
        if s.admitWaitLimit c = 0 then none else some (after s.time (1000 * s.admitWaitLimit c)),
        (s.slot i).ident.draw.toNat⟩]
    ∧ t.alloc.granted = s.alloc.granted ∧ t.alloc.claims = s.alloc.claims
    ∧ t.cell c = .taken ∧ t.mem = s.mem ∧ (∀ d, d ≠ c → t.cell d = s.cell d)
    ∧ t.power = s.power ∧ t.ports = s.ports ∧ t.history = s.history ∧ t.settings = s.settings
    ∧ OtherSlots i s t ∧ OtherEngines i s t

/-- ADMIT with every examination test passed is granted in the same event (R8, R69, R86): the claim is
entered, the switch latch goes ON with the blade reset asserted, the ramp limit and the minute run, the
history takes the start and the slot is RAMPING, its admissions one more. When the power-good input is
already asserted the power good is taken too and the slot is BOOTING (R86). -/
def Obligations.AdmitGranted : Prop :=
  ∀ (s : State) (c : CellId) (i : SlotId), Inv s → s.Quiet →
    s.TakesFor c .admitBlade i → (s.slot i).state = .parked → (s.slot i).Idle →
    conditionMatches (s.cellCondition c) (s.slot i).gen = true →
    (s.slot i).idStatus = .valid → kindMatches i (s.slot i).ident.kind = true →
    examination s (entryFor i c s) = none →
    ∃ t, exec .admitBlade s = .next t
    ∧ (t.slot i).state = (if (s.pinsOf i).powerGood then .booting else .ramping)
    ∧ (t.slot i).prev = (if (s.pinsOf i).powerGood then .ramping else .awaitPower)
    ∧ (t.slot i).entry = s.time
    ∧ (t.slot i).waitReason = none ∧ (t.slot i).queuePos = 0
    ∧ (t.slot i).claim = (s.slot i).ident.draw.toNat
    ∧ (t.slot i).admissions = min 255 ((s.slot i).admissions + 1)
    ∧ (t.slot i).orders = [⟨c, .admitBlade, s.time⟩] ∧ (t.slot i).active = true
    ∧ t.alloc.queue = [] ∧ t.alloc.claims[i] = (s.slot i).ident.draw.toNat
    ∧ t.alloc.granted + s.alloc.claims[i] = s.alloc.granted + (s.slot i).ident.draw.toNat
    ∧ (t.pwr i).switchOn = true ∧ (t.pwr i).resetAsserted = true
    ∧ (t.pwr i).minute = some (after s.time 60000)
    ∧ ((s.pinsOf i).powerGood = false → i ∈ t.alloc.ramping
        ∧ (t.pwr i).rampLimit = some (after s.time (rampLimitOf (s.slot i).ident.inrush)))
    ∧ ((s.pinsOf i).powerGood = true → (t.pwr i).rampLimit = none ∧ (t.pwr i).goodTime = s.time
        ∧ (t.pwr i).resetHold = some (after s.time 50))
    ∧ t.history = appendHistory s.history s.time
    ∧ t.cell c = .taken ∧ t.mem = s.mem ∧ (∀ d, d ≠ c → t.cell d = s.cell d)
    ∧ t.ports = s.ports ∧ t.settings = s.settings
    ∧ OtherSlots i s t ∧ OtherEngines i s t ∧ OtherPower i s t

/-- A waiting ADMIT that fails a start check of its own is refused (R44, R45, R48): IDENTITY-INVALID
unless the identity is VALID, else KIND-MISMATCH unless the blade's kind is the slot's. Any slot-queued
order is first refused STALE when its condition is not met, then WRONG-STATE when the settled state is
not one its kind allows; a hub's RETIRE without FORCE is refused LAST-HUB by the redundancy guard
(R123): with the other hub not IN-SERVICE and some port of the hub OPEN, OPENING or CLOSING. Its cell
becomes REFUSED and its list is empty again. -/
def Obligations.StartRefuses : Prop :=
  (∀ (s : State) (c : CellId) (k : OrderKind) (i : SlotId) (code : OrderRefusal), Inv s → s.Quiet →
    s.TakesFor c k i → k.orderClass = .slotQueued → (s.slot i).state.settled = true →
    (s.slot i).Idle →
    (if conditionMatches (s.cellCondition c) (s.slot i).gen = false then some .stale
      else if k.allows (s.slot i).state = false then some .wrongState
      else if k = .admitBlade ∧ (s.slot i).idStatus ≠ .valid then some .identityInvalid
      else if k = .admitBlade ∧ kindMatches i (s.slot i).ident.kind = false then some .kindMismatch
      else if k = .retire ∧ s.guardRefuses i = true ∧ s.cellForce c = false then some .lastHub
      else none) = some code →
    ∃ t, exec (takeCommand (some k)) s = .next t
    ∧ t.cell c = .refused ∧ t.rd8 c 0x1C = code.code
    ∧ t.rd16 c 0x28 = (s.slot i).gen ∧ t.rd8 c 0x1E = (s.slot i).state.code
    ∧ t.rd32 c 0x20 = s.time ∧ t.rd32 c 0x24 = s.time
    ∧ t.port.attention = s.port.attention ||| Attention.orderDone.mask
    ∧ (t.slot i).Like { s.slot i with read := none } ∧ OtherSlots i s t ∧ OtherCells c s t
    ∧ t.alloc = s.alloc ∧ t.power = s.power ∧ t.ports = s.ports ∧ t.engines = s.engines
    ∧ t.journal = s.journal ∧ t.settings = s.settings)
  ∧ ∀ (s : State) (i : SlotId), s.guardRefuses i = true ↔
    isHub i = true ∧ (s.slot (otherHub i)).state ≠ .inService
    ∧ ∃ p, hubSlot p = i
      ∧ ((s.portOf p).state = .opened ∨ (s.portOf p).state = .opening ∨ (s.portOf p).state = .closing)

/-- RETIRE of an IN-SERVICE slot with every port ISOLATED (R14, R15, R16, R49): the retirement context
is set up, and the slot, having no port to withdraw, goes through LEAVING to QUIESCING with its quiesce
deadline; QUIESCE goes onto its link when that is UP. RETIRE of an IN-SERVICE node slot whose two ports
are OPEN and whose link is UP (R14, R112): the slot is LEAVING, each port is CLOSING with its gate open
and a drain deadline, PATH-CLOSE for each goes onto the node's link, and the other ports stand. Either
way the cell is TAKEN. -/
def Obligations.RetireStarts : Prop :=
  (∀ (s : State) (c : CellId) (i : SlotId), Inv s → s.Quiet →
    s.TakesFor c .retire i → (s.slot i).state = .inService → (s.slot i).Idle →
    conditionMatches (s.cellCondition c) (s.slot i).gen = true →
    (∀ p, nodeSlot p = i ∨ hubSlot p = i → (s.portOf p).state = .isolated) →
    ∃ t, exec .retire s = .next t
    ∧ (t.slot i).state = .quiescing ∧ (t.slot i).prev = .leaving ∧ (t.slot i).entry = s.time
    ∧ (t.slot i).gen = nextGeneration (nextGeneration (s.slot i).gen)
    ∧ (t.slot i).retire = some ⟨s.rd8 c 0x0C, s.cellGentle c, s.cellStamp c, some c⟩
    ∧ (t.slot i).quiesce = some (after s.time s.settings.quiesceLimit)
    ∧ (t.slot i).orders = [⟨c, .retire, s.time⟩] ∧ (t.slot i).active = true
    ∧ (s.linkUp i = true → (t.engine i).Carries .quiesce)
    ∧ t.cell c = .taken ∧ t.mem = s.mem ∧ (∀ d, d ≠ c → t.cell d = s.cell d)
    ∧ t.ports = s.ports ∧ t.power = s.power ∧ t.alloc = s.alloc
    ∧ OtherSlots i s t ∧ OtherEngines i s t)
  ∧ (∀ (s : State) (c : CellId) (n : NodeId), Inv s → s.Quiet →
    s.TakesFor c .retire (nodeSlot ⟨n, 0⟩) → (s.slot (nodeSlot ⟨n, 0⟩)).state = .inService →
    (s.slot (nodeSlot ⟨n, 0⟩)).Idle → s.linkUp (nodeSlot ⟨n, 0⟩) = true →
    conditionMatches (s.cellCondition c) (s.slot (nodeSlot ⟨n, 0⟩)).gen = true →
    (s.portOf ⟨n, 0⟩).state = .opened → (s.portOf ⟨n, 1⟩).state = .opened →
    (s.engine (nodeSlot ⟨n, 0⟩)).queued (fun m => decide (m = .pathOpen 0) || decide (m = .pathOpen 1))
      = false →
    ∃ t, exec .retire s = .next t
    ∧ (t.slot (nodeSlot ⟨n, 0⟩)).state = .leaving ∧ (t.slot (nodeSlot ⟨n, 0⟩)).prev = .inService
    ∧ (t.slot (nodeSlot ⟨n, 0⟩)).retire = some ⟨s.rd8 c 0x0C, s.cellGentle c, s.cellStamp c, some c⟩
    ∧ (∀ h, (t.portOf ⟨n, h⟩).state = .closing ∧ (t.portOf ⟨n, h⟩).gate = true
        ∧ (t.portOf ⟨n, h⟩).deadline = some (after s.time s.settings.drainLimit)
        ∧ (t.engine (nodeSlot ⟨n, 0⟩)).Carries (.pathClose h))
    ∧ (∀ p, p.node ≠ n → t.portOf p = s.portOf p)
    ∧ t.cell c = .taken ∧ t.mem = s.mem ∧ (∀ d, d ≠ c → t.cell d = s.cell d)
    ∧ t.power = s.power ∧ t.alloc = s.alloc
    ∧ OtherSlots (nodeSlot ⟨n, 0⟩) s t ∧ OtherEngines (nodeSlot ⟨n, 0⟩) s t)

/-- SURVEY of a PARKED slot (R6, R50, R151): the slot is SURVEYING with its identity cleared and its
link UP, the survey is at its first page and IDENT-PAGE 0 is on the link. The cell is TAKEN. That the
identity reason is NONE again is the model's reading (log 37). -/
def Obligations.SurveyStarts : Prop :=
  ∀ (s : State) (c : CellId) (i : SlotId), Inv s → s.Quiet →
    s.TakesFor c .survey i → (s.slot i).state = .parked → (s.slot i).Idle →
    conditionMatches (s.cellCondition c) (s.slot i).gen = true →
    ∃ t, exec .survey s = .next t
    ∧ (t.slot i).state = .surveying ∧ (t.slot i).prev = .parked ∧ (t.slot i).entry = s.time
    ∧ (t.slot i).gen = nextGeneration (s.slot i).gen
    ∧ (t.slot i).idStatus = .none ∧ (t.slot i).idReason = .none ∧ (t.slot i).ident = Identity.zero
    ∧ (t.slot i).survey = some ⟨.page0, none, []⟩
    ∧ (t.slot i).orders = [⟨c, .survey, s.time⟩] ∧ (t.slot i).active = true
    ∧ t.linkUp i = true ∧ (t.engine i).Carries (.identPage 0)
    ∧ t.cell c = .taken ∧ t.mem = s.mem ∧ (∀ d, d ≠ c → t.cell d = s.cell d)
    ∧ t.power = s.power ∧ t.alloc = s.alloc ∧ t.ports = s.ports
    ∧ OtherSlots i s t ∧ OtherEngines i s t

/-- READ-IDENTITY in a settled state (R51): with the link UP the read is active and IDENT-PAGE for the
first page is on the link, the cell TAKEN; with the link not UP the order finishes LINK-LOST at once,
its data zero. The slot keeps its state. A page returned by the blade is kept: with a page still to come
IDENT-PAGE for the next page follows it onto the link; with none the order finishes DONE, its data the
pages in the order read and zero beyond them. -/
def Obligations.ReadIdentityStarts : Prop :=
  (∀ (s : State) (c : CellId) (i : SlotId), Inv s → s.Quiet →
    s.TakesFor c .readIdentity i → (s.slot i).state.settled = true → (s.slot i).Idle →
    conditionMatches (s.cellCondition c) (s.slot i).gen = true →
    ∃ t, exec .readIdentity s = .next t
    ∧ (s.linkUp i = true → t.cell c = .taken ∧ t.mem = s.mem
        ∧ (t.slot i).Like { s.slot i with
            orders := [⟨c, .readIdentity, s.time⟩], active := true,
            read := some ⟨Fin.ofNat 8 (s.readFirst c), s.readCountParam c - 1, []⟩ }
        ∧ (t.engine i).Carries (.identPage (Fin.ofNat 8 (s.readFirst c))))
    ∧ (s.linkUp i = false → t.cell c = .finished ∧ t.rd8 c 0x1C = OrderOutcome.linkLost.code
        ∧ (∀ k, k < 64 → t.rd8 c (0x40 + k) = 0)
        ∧ (t.slot i).Like { s.slot i with read := none } ∧ t.engine i = s.engine i)
    ∧ OtherCells c s t ∧ t.power = s.power ∧ t.alloc = s.alloc ∧ t.ports = s.ports
    ∧ t.journal = s.journal ∧ OtherSlots i s t ∧ OtherEngines i s t)
  ∧ ∀ (s : State) (i : SlotId) (e : OrderEntry) (d : PageRead) (o : Outstanding) (f : List Byte)
      (r : Reply), Inv s → s.Live → (s.slot i).state.settled = true → (s.slot i).latch = false →
    (s.slot i).orders = [e] → (s.slot i).active = true → e.kind = .readIdentity →
    (s.slot i).read = some d → s.linkUp i = true → (s.engine i).out = some o → o.live = true →
    o.msg = .identPage d.page → judgeReply o.msg o.seq f = some r → r.answer = .ok →
    ∃ t, exec (.frameArrival i f) s = .next t
    ∧ (d.left ≠ 0 → CellsKept s t ∧ (t.slot i).Like { s.slot i with
          read := some ⟨d.page + 1, d.left - 1, d.data ++ r.payload⟩ }
        ∧ (t.engine i).Carries (.identPage (d.page + 1)))
    ∧ (d.left = 0 → t.cell e.cell = .finished ∧ t.rd8 e.cell 0x1C = OrderOutcome.done.code
        ∧ t.rd8 e.cell 0x1E = (s.slot i).state.code ∧ t.rd16 e.cell 0x28 = (s.slot i).gen
        ∧ (∀ k, k < 64 → t.rd8 e.cell (0x40 + k) = byteAt (d.data ++ r.payload) k)
        ∧ (t.slot i).Like { s.slot i with orders := [], active := false, read := none })
    ∧ OtherCells e.cell s t ∧ t.power = s.power ∧ t.alloc = s.alloc ∧ t.ports = s.ports
    ∧ t.journal = s.journal ∧ OtherSlots i s t ∧ OtherEngines i s t

/-- CLEAR-FAULT in a settled state (R52): in FAULTED the slot moves to PARKED with its fault cleared,
DONE; in PARKED or IN-SERVICE a fault is cleared without a move, DONE; with no fault nothing is done,
NOTHING. -/
def Obligations.ClearFaultActs : Prop :=
  ∀ (s : State) (c : CellId) (i : SlotId), Inv s → s.Quiet →
    s.TakesFor c .clearFault i → (s.slot i).state.settled = true → (s.slot i).Idle →
    conditionMatches (s.cellCondition c) (s.slot i).gen = true →
    ∃ t, exec .clearFault s = .next t ∧ t.cell c = .finished
    ∧ t.rd8 c 0x1C = (if (s.slot i).state ≠ .faulted ∧ (s.slot i).fault = none
        then OrderOutcome.nothing.code else OrderOutcome.done.code)
    ∧ (t.slot i).fault = none
    ∧ (t.slot i).faultTime = (if (s.slot i).state ≠ .faulted ∧ (s.slot i).fault = none
        then (s.slot i).faultTime else 0)
    ∧ (t.slot i).state = (if (s.slot i).state = .faulted then .parked else (s.slot i).state)
    ∧ (t.slot i).gen = (if (s.slot i).state = .faulted then nextGeneration (s.slot i).gen
        else (s.slot i).gen)
    ∧ t.rd8 c 0x1E = (t.slot i).state.code ∧ t.rd16 c 0x28 = (t.slot i).gen
    ∧ (t.slot i).orders = [] ∧ (t.slot i).active = false
    ∧ OtherCells c s t ∧ t.power = s.power ∧ t.alloc = s.alloc ∧ t.ports = s.ports
    ∧ OtherSlots i s t ∧ OtherEngines i s t

/-- CUT (R53). In AWAIT-POWER the slot's queue entry goes and the slot moves to PARKED. In a payload-on
state the slot moves to PARKED, its switch is OFF with the blade reset asserted, its ports are ISOLATED
with their gates closed, its claim is returned, its retirement is gone, and of its own requests none is
queued and one outstanding is overtaken. Its orders finish OVERTAKEN and leave the list; the CUT
finishes DONE with the slot as it then is. -/
def Obligations.CutRemovesPayload : Prop :=
  ∀ (s : State) (c : CellId) (i : SlotId), Inv s → s.QuietBut i → s.TakesFor c .cut i →
    (∀ e ∈ (s.slot i).orders, e.cell ≠ c) →
    ∃ t, exec .cut s = .next t
    ∧ (t.slot i).state = .parked ∧ (t.slot i).prev = (s.slot i).state ∧ (t.slot i).entry = s.time
    ∧ (t.slot i).gen = nextGeneration (s.slot i).gen
    ∧ (t.slot i).orders = [] ∧ (t.slot i).active = false ∧ (t.slot i).retire = none
    ∧ (t.slot i).stamp = none ∧ (t.slot i).latch = false ∧ (t.slot i).read = none
    ∧ t.cell c = .finished ∧ t.rd8 c 0x1C = OrderOutcome.done.code
    ∧ t.rd8 c 0x1E = SlotState.parked.code ∧ t.rd16 c 0x28 = (t.slot i).gen
    ∧ (∀ e ∈ (s.slot i).orders, t.cell e.cell = .finished
        ∧ t.rd8 e.cell 0x1C = OrderOutcome.overtaken.code)
    ∧ (∀ d, d ≠ c → (∀ e ∈ (s.slot i).orders, e.cell ≠ d) → t.cell d = s.cell d)
    ∧ ((s.slot i).state = .awaitPower → t.alloc.queue = [] ∧ (t.slot i).waitReason = none
        ∧ (t.slot i).queuePos = 0 ∧ t.power = s.power ∧ t.ports = s.ports)
    ∧ ((s.slot i).state ≠ .awaitPower →
        (t.slot i).claim = 0 ∧ t.alloc.claims[i] = 0
        ∧ t.alloc.granted + s.alloc.claims[i] = s.alloc.granted
        ∧ (t.pwr i).switchOn = false ∧ (t.pwr i).resetAsserted = true
        ∧ ((s.pwr i).switchOn = true → (t.pwr i).offTime = s.time)
        ∧ (∀ q ∈ (t.engine i).queue, q.msg.isOwn = false)
        ∧ (∀ o, (t.engine i).out = some o → o.msg.isOwn = true → o.live = false)
        ∧ ∀ p, nodeSlot p = i ∨ hubSlot p = i →
          (t.portOf p).state = .isolated ∧ (t.portOf p).gate = false)
    ∧ OtherSlots i s t ∧ OtherPower i s t ∧ t.settings = s.settings ∧ t.history = s.history

/-- CANCEL (R54): every waiting order finishes CANCELLED and leaves the list; an ADMIT active in
AWAIT-POWER does too, its queue entry goes and the slot moves to PARKED; any other active order goes on.
The CANCEL finishes DONE if it finished an order, else NOTHING. -/
def Obligations.CancelWithdraws : Prop :=
  ∀ (s : State) (c : CellId) (i : SlotId), Inv s → s.QuietBut i → s.TakesFor c .cancel i →
    (∀ e ∈ (s.slot i).orders, e.cell ≠ c) →
    let cancels := (s.slot i).state = .awaitPower ∧ s.activeKind i = some .admitBlade
    ∃ t, exec .cancel s = .next t ∧ t.cell c = .finished
    ∧ t.rd8 c 0x1C = (if ¬ cancels ∧ (s.slot i).waiting = [] then OrderOutcome.nothing.code
        else OrderOutcome.done.code)
    ∧ (∀ e ∈ (s.slot i).waiting, t.cell e.cell = .finished
        ∧ t.rd8 e.cell 0x1C = OrderOutcome.cancelled.code)
    ∧ (cancels → (∀ e ∈ (s.slot i).orders, t.cell e.cell = .finished
          ∧ t.rd8 e.cell 0x1C = OrderOutcome.cancelled.code)
        ∧ (t.slot i).state = .parked ∧ (t.slot i).gen = nextGeneration (s.slot i).gen
        ∧ (t.slot i).orders = [] ∧ (t.slot i).active = false ∧ t.alloc.queue = [])
    ∧ (¬ cancels → (t.slot i).Like { s.slot i with
        orders := if (s.slot i).active then (s.slot i).orders.take 1 else [] }
      ∧ t.alloc = s.alloc ∧ t.engines = s.engines ∧ t.journal = s.journal)
    ∧ OtherSlots i s t ∧ t.power = s.power ∧ t.ports = s.ports ∧ t.settings = s.settings

/-- HOLD and UNHOLD (R55), and SET-POLICY (R56), of a slot on which no handle request then acts: the
flag is set, cleared, or the policy replaced by the cell's three parts, and nothing else of the slot;
HOLD and UNHOLD finish DONE when the flag changed, else NOTHING; SET-POLICY finishes DONE. -/
def Obligations.HoldAndPolicy : Prop :=
  ∀ (s : State) (c : CellId) (k : OrderKind) (i : SlotId), Inv s → s.TakesFor c k i →
    ∀ x : Slot, (k = .hold ∧ x = { s.slot i with hold := true }
        ∨ k = .unhold ∧ x = { s.slot i with hold := false }
        ∨ k = .setPolicy ∧ x = { s.slot i with policy := s.policyParam c }) →
      (s.modSlot i fun _ => x).handleActs i = false →
    ∃ t, exec (takeCommand (some k)) s = .next t ∧ t.cell c = .finished
    ∧ t.rd8 c 0x1C = (if k ≠ .setPolicy ∧ x = s.slot i then OrderOutcome.nothing.code
        else OrderOutcome.done.code)
    ∧ (t.slot i).Like x ∧ t.rd8 c 0x1E = (s.slot i).state.code ∧ t.rd16 c 0x28 = (s.slot i).gen
    ∧ OtherSlots i s t ∧ OtherCells c s t ∧ t.alloc = s.alloc ∧ t.power = s.power
    ∧ t.ports = s.ports ∧ t.engines = s.engines ∧ t.journal = s.journal ∧ t.settings = s.settings

/-- UNHOLD and SET-POLICY that let a latched handle request act (R28, R55, R56). In AWAIT-POWER the
request cancels the ADMIT and the slot moves to PARKED in the same event, before the order's cell is
written, which shows PARKED and the new generation. In IN-SERVICE with no order active a retirement with
reason 240 begins, and the cell shows LEAVING and the generation of that move; a slot with no port to
withdraw then goes on to QUIESCING (R16; that the cell is written before the leave test, and before what
else the move brings, is the model's reading, log 33). -/
def Obligations.UnholdLetsHandleAct : Prop :=
  (∀ (s : State) (c : CellId) (k : OrderKind) (i : SlotId) (e : OrderEntry), Inv s →
    s.TakesFor c k i → s.QuietBut i → (s.slot i).state = .awaitPower →
    (s.slot i).orders = [e] → (s.slot i).active = true → e.kind = .admitBlade →
    e.cell ≠ c → (s.slot i).latch = true →
    (k = .unhold ∧ (s.slot i).hold = true ∧ (s.slot i).policy.handle = .selfRetire
      ∨ k = .setPolicy ∧ (s.slot i).hold = false ∧ (s.policyParam c).handle = .selfRetire) →
    ∃ t, exec (takeCommand (some k)) s = .next t
    ∧ (t.slot i).state = .parked ∧ (t.slot i).gen = nextGeneration (s.slot i).gen
    ∧ (t.slot i).latch = false ∧ (t.slot i).orders = [] ∧ t.alloc.queue = []
    ∧ t.cell e.cell = .finished ∧ t.rd8 e.cell 0x1C = OrderOutcome.cancelled.code
    ∧ t.cell c = .finished ∧ t.rd8 c 0x1C = OrderOutcome.done.code
    ∧ t.rd8 c 0x1E = SlotState.parked.code ∧ t.rd16 c 0x28 = (t.slot i).gen
    ∧ OtherSlots i s t ∧ t.power = s.power ∧ t.ports = s.ports)
  ∧ ∀ (s : State) (c : CellId) (k : OrderKind) (i : SlotId), Inv s →
    s.TakesFor c k i → s.QuietBut i → (s.slot i).state = .inService →
    (s.slot i).orders = [] → (s.slot i).active = false → (s.slot i).latch = true →
    (∀ p, nodeSlot p = i ∨ hubSlot p = i → (s.portOf p).state = .isolated) →
    (k = .unhold ∧ (s.slot i).hold = true ∧ (s.slot i).policy.handle = .selfRetire
      ∨ k = .setPolicy ∧ (s.slot i).hold = false ∧ (s.policyParam c).handle = .selfRetire) →
    ∃ t, exec (takeCommand (some k)) s = .next t
    ∧ (t.slot i).state = .quiescing ∧ (t.slot i).prev = .leaving ∧ (t.slot i).latch = false
    ∧ (t.slot i).gen = nextGeneration (nextGeneration (s.slot i).gen)
    ∧ (t.slot i).retire = some ⟨240, false, (t.slot i).policy.stampOnHandle, none⟩
    ∧ (t.slot i).policy = (if k = .setPolicy then s.policyParam c else (s.slot i).policy)
    ∧ (t.slot i).hold = false
    ∧ (t.slot i).quiesce = some (after s.time s.settings.quiesceLimit)
    ∧ t.cell c = .finished ∧ t.rd8 c 0x1C = OrderOutcome.done.code
    ∧ t.rd8 c 0x1E = SlotState.leaving.code ∧ t.rd16 c 0x28 = nextGeneration (s.slot i).gen
    ∧ OtherSlots i s t ∧ OtherCells c s t ∧ t.alloc = s.alloc ∧ t.power = s.power ∧ t.ports = s.ports

/-- SET-BUDGET on an empty shelf order list (R57, R75): a capacity of at least the granted total is
applied with the hub reserve, both at once, DONE; a smaller one leaves the budget, OVER-COMMITTED. The
results carry generation 0 and state NONE. SET-TIMING on an empty shelf order list (R57, R73, R81): with
no slot RAMPING and no power-off deferred the seven settings of the cell are put in force, DONE; while a
slot is RAMPING the order waits at the front, its cell TAKEN and the settings as they were. Applied while
power-offs are deferred it tests each against the new MIN-ON (R81): one whose MIN-ON has not passed has its
deferral moved to the power-good time plus the new MIN-ON; one whose MIN-ON has passed opens the switch in
that event, which returns the claim, parks the slot and finishes its RETIRE DONE (R18, R92). -/
def Obligations.ShelfOrdersApply : Prop :=
  (∀ (s : State) (c : CellId), Inv s → s.Quiet → s.Takes c .setBudget → s.alloc.shelf = [] →
    ∃ t, exec .setBudget s = .next t ∧ t.cell c = .finished
    ∧ (s.alloc.granted ≤ (s.rd16 c 0x0C).toNat → t.rd8 c 0x1C = OrderOutcome.done.code
        ∧ t.alloc.capacity = (s.rd16 c 0x0C).toNat ∧ t.alloc.hubReserve = (s.rd16 c 0x0E).toNat)
    ∧ (¬ s.alloc.granted ≤ (s.rd16 c 0x0C).toNat →
        t.rd8 c 0x1C = OrderOutcome.overCommitted.code ∧ t.alloc.capacity = s.alloc.capacity
        ∧ t.alloc.hubReserve = s.alloc.hubReserve ∧ t.journal = s.journal)
    ∧ t.rd16 c 0x28 = 0 ∧ t.rd8 c 0x1E = 0xFF ∧ t.rd8 c 0x1F = 0
    ∧ t.alloc.shelf = [] ∧ t.alloc.granted = s.alloc.granted ∧ t.alloc.claims = s.alloc.claims
    ∧ t.slots = s.slots ∧ t.power = s.power ∧ t.ports = s.ports ∧ t.engines = s.engines
    ∧ t.settings = s.settings ∧ OtherCells c s t)
  ∧ (∀ (s : State) (c : CellId), Inv s → s.Quiet → s.Takes c .setTiming → s.alloc.shelf = [] →
    ∃ t, exec .setTiming s = .next t
    ∧ (s.alloc.ramping = [] → (∀ i, (s.pwr i).deferral = none) →
        t.cell c = .finished ∧ t.rd8 c 0x1C = OrderOutcome.done.code ∧ t.alloc.shelf = []
        ∧ t.settings = ⟨(s.rd16 c 0x0C).toNat, (s.rd16 c 0x0E).toNat, (s.rd8 c 0x1A).toNat,
            (s.rd16 c 0x10).toNat, (s.rd16 c 0x12).toNat, (s.rd16 c 0x14).toNat,
            (s.rd32 c 0x16).toNat⟩
        ∧ t.slots = s.slots ∧ t.power = s.power ∧ OtherCells c s t)
    ∧ (s.alloc.ramping ≠ [] → t.cell c = .taken ∧ t.settings = s.settings
        ∧ t.alloc.shelf = [⟨c, .setTiming, s.time⟩] ∧ t.mem = s.mem ∧ t.slots = s.slots
        ∧ t.power = s.power ∧ t.journal = s.journal ∧ OtherCells c s t)
    ∧ (s.alloc.ramping ≠ [] ∨ (∀ i, (s.pwr i).deferral = none) → t.ports = s.ports))
  ∧ ∀ (s : State) (c : CellId), Inv s → s.Quiet → s.Takes c .setTiming → s.alloc.shelf = [] →
    s.alloc.ramping = [] →
    let minOn := (s.rd16 c 0x10).toNat
    let passed := fun (i : SlotId) =>
      (s.pwr i).onRef = none ∨ minOn ≤ (s.time - (s.pwr i).goodTime).toNat
    ((∀ i, (s.pwr i).deferral ≠ none → ¬ passed i) →
      ∃ t, exec .setTiming s = .next t ∧ t.settings = s.settingsParam c
      ∧ t.cell c = .finished ∧ t.rd8 c 0x1C = OrderOutcome.done.code ∧ t.alloc.shelf = []
      ∧ (∀ i, t.pwr i = if (s.pwr i).deferral = none then s.pwr i
        else { s.pwr i with deferral := some (after (s.pwr i).goodTime minOn) })
      ∧ t.slots = s.slots ∧ t.ports = s.ports ∧ t.engines = s.engines ∧ OtherCells c s t)
    ∧ ∀ i, (s.pwr i).deferral ≠ none → passed i → (∀ j, j ≠ i → (s.pwr j).deferral = none) →
      (s.slot i).state = .poweringOff → (s.slot i).latch = false → (s.pwr i).switchOn = true →
      ((s.slot i).orders = [] ∨ (s.slot i).active = true ∧ (s.slot i).orders.length = 1) →
      (∀ e ∈ (s.slot i).orders, e.cell ≠ c) →
      ∃ t, exec .setTiming s = .next t ∧ t.settings = s.settingsParam c
      ∧ t.cell c = .finished ∧ t.rd8 c 0x1C = OrderOutcome.done.code ∧ t.alloc.shelf = []
      ∧ (t.slot i).state = .parked ∧ (t.slot i).prev = .poweringOff ∧ (t.slot i).claim = 0
      ∧ (t.slot i).retire = none ∧ (t.slot i).orders = []
      ∧ t.pwr i = { s.pwr i with
        switchOn := false, resetAsserted := true, rampLimit := none, resetHold := none
        deferral := none, minute := none, offTime := s.time, offRef := some (after s.time 60000) }
      ∧ t.alloc.claims[i] = 0 ∧ t.alloc.granted + s.alloc.claims[i] = s.alloc.granted
      ∧ (∀ e, (s.slot i).orders = [e] → t.cell e.cell = .finished
        ∧ t.rd8 e.cell 0x1C = OrderOutcome.done.code
        ∧ t.rd8 e.cell 0x1E = SlotState.parked.code ∧ t.rd8 e.cell 0x1D = 0)
      ∧ OtherSlots i s t ∧ OtherPower i s t ∧ t.ports = s.ports

/-! ### Slot sequencers -/

/-- CONTACT_DEBOUNCE (R3, R5). A change that makes presence BOTH in VACANT is an arrival: the slot is
SEATING with its settle deadline 200 ms on. A change that is no arrival and no loss changes the
debounced level, with the raw level, alone. A level that has not held yet changes the raw level alone,
from when its debounce runs; the tick queues the command for a raw level that differs from the debounced
one once it has stood for 5 ms (that the command tells the raw level too is the model's choice, log 18). -/
def Obligations.ContactChanges : Prop :=
  (∀ (s : State) (i : SlotId) (c : Contact) (made : Bool), s.Live →
    let x := (s.slot i).setContact c made
    (x.presence = .both → (s.slot i).presence ≠ .both → (s.slot i).state = .vacant →
      ∃ t, exec (.contactDebounce i c ⟨made, true⟩) s = .next t
      ∧ (t.slot i).state = .seating ∧ (t.slot i).prev = .vacant ∧ (t.slot i).entry = s.time
      ∧ (t.slot i).gen = nextGeneration (s.slot i).gen ∧ (t.slot i).presence = .both
      ∧ (t.slot i).settle = some (after s.time 200)
      ∧ t.pins = (s.modPins i (SlotPins.setContact c made)).pins
      ∧ OtherSlots i s t ∧ CellsKept s t ∧ t.alloc = s.alloc ∧ t.power = s.power
      ∧ t.ports = s.ports ∧ OtherEngines i s t)
    ∧ ((x.presence = .both → (s.slot i).presence = .both ∨ (s.slot i).state ≠ .vacant) →
        ((s.slot i).presence = .both → x.presence = .both ∨ (s.slot i).state = .vacant) →
      ∃ t, exec (.contactDebounce i c ⟨made, true⟩) s = .next t ∧ (t.slot i).Like x
      ∧ t.pins = (s.modPins i (SlotPins.setContact c made)).pins
      ∧ OtherSlots i s t ∧ CellsKept s t ∧ t.alloc = s.alloc ∧ t.power = s.power
      ∧ t.ports = s.ports ∧ t.engines = s.engines ∧ t.journal = s.journal))
  ∧ (∀ (s : State) (i : SlotId) (c : Contact) (made : Bool),
    let same := SlotPins.contact c (s.pinsOf i) = made
    ∃ t, exec (.contactDebounce i c ⟨made, false⟩) s = .next t
    ∧ t = { s.modPins i (SlotPins.setContact c made) with debounceFrom := t.debounceFrom }
    ∧ t.timesOf i = (if same then s.timesOf i else InputTimes.setContact c s.time (s.timesOf i))
    ∧ (∀ j, j ≠ i → t.timesOf j = s.timesOf j)
    ∧ t.debounceFrom.feedA = s.debounceFrom.feedA ∧ t.debounceFrom.feedB = s.debounceFrom.feedB)
  ∧ ∀ (s : State) (i : SlotId) (b : Bool), s.pending = [] → s.held = false → s.resetLine = none →
    ∃ t, step s = .next t
    ∧ (.contactDebounce i .long ⟨b, true⟩ ∈ t.pending ↔ b = (s.pinsOf i).long ∧ b ≠ (s.slot i).long
      ∧ reached (s.time + 1) (after (s.timesOf i).long 5) = true)
    ∧ (.contactDebounce i .short ⟨b, true⟩ ∈ t.pending ↔ b = (s.pinsOf i).short
      ∧ b ≠ (s.slot i).short ∧ reached (s.time + 1) (after (s.timesOf i).short 5) = true)

/-- A presence loss removes the blade (R23, R24, R25): the slot is VACANT and cleared, its policy kept,
its link ABSENT, its switch OFF with the blade reset asserted, its ports ISOLATED with declined flags
and attempts cleared, its claim returned and its queue entry gone; every order of it finishes
SLOT-VACATED. -/
def Obligations.PresenceLossVacates : Prop :=
  ∀ (s : State) (i : SlotId) (c : Contact), Inv s → s.Live → s.QuietBut i →
    (s.slot i).presence = .both → (s.slot i).state ≠ .vacant →
    ∃ t, exec (.contactDebounce i c ⟨false, true⟩) s = .next t
    ∧ (t.slot i).state = .vacant ∧ (t.slot i).prev = (s.slot i).state ∧ (t.slot i).entry = s.time
    ∧ (t.slot i).gen = nextGeneration (s.slot i).gen ∧ (t.slot i).policy = (s.slot i).policy
    ∧ (t.slot i).idStatus = .none ∧ (t.slot i).ident = Identity.zero ∧ (t.slot i).hold = false
    ∧ (t.slot i).latch = false ∧ (t.slot i).fault = none ∧ (t.slot i).admissions = 0
    ∧ (t.slot i).minutes = 0 ∧ (t.slot i).nextRow = 0 ∧ (t.slot i).lastStamp = none
    ∧ (t.slot i).lastAgent = none ∧ (t.slot i).claim = 0 ∧ (t.slot i).queuePos = 0
    ∧ (t.slot i).orders = [] ∧ (t.slot i).active = false ∧ (t.slot i).retire = none
    ∧ (t.engine i).link = .absent ∧ (t.engine i).queue = [] ∧ (t.engine i).out = none
    ∧ (t.engine i).nextSeq = (s.engine i).nextSeq
    ∧ (t.pwr i).switchOn = false ∧ (t.pwr i).resetAsserted = true
    ∧ t.alloc.claims[i] = 0 ∧ t.alloc.queue = []
    ∧ (∀ p, nodeSlot p = i ∨ hubSlot p = i → t.portOf p = ⟨.isolated, false, 0, none, false⟩)
    ∧ (∀ e ∈ (s.slot i).orders, t.cell e.cell = .finished
        ∧ t.rd8 e.cell 0x1C = OrderOutcome.slotVacated.code
        ∧ t.rd8 e.cell 0x1E = SlotState.vacant.code ∧ t.rd16 e.cell 0x28 = (t.slot i).gen)
    ∧ OtherSlots i s t ∧ OtherPower i s t ∧ t.settings = s.settings

/-- HANDLE_DEBOUNCE (R4, R5, R27): in VACANT and SEATING, and when the level is the one already held,
only the handle field and the raw level change; else a handle open latches the request and a handle
close clears it, each with a notice; and a request that does not act changes nothing more. A level that has not held yet changes the raw
level alone, from when its debounce runs; the tick queues the command for a raw level that differs from
the debounced one once it has stood for 20 ms (log 18). -/
def Obligations.HandleChanges : Prop :=
  (∀ (s : State) (i : SlotId) (isOpen : Bool), s.Live →
    let silent := (s.slot i).state = .vacant ∨ (s.slot i).state = .seating
      ∨ (s.slot i).handleOpen = isOpen
    let x : Slot := { s.slot i with
      handleOpen := isOpen, latch := if silent then (s.slot i).latch else isOpen }
    (silent ∨ (s.modSlot i fun _ => x).handleActs i = false) →
    ∃ t, exec (.handleDebounce i ⟨isOpen, true⟩) s = .next t ∧ (t.slot i).Like x
    ∧ t.pins = (s.modPins i fun p => { p with handleOpen := isOpen }).pins
    ∧ (silent → t.journal = s.journal)
    ∧ (¬ silent → s.port.run = true → s.journal.full = false → s.journal.gapPending = false →
        t.journal.writeCount = s.journal.writeCount + 1
        ∧ (t.journal.entries[(entryOf s.journal.writeCount).val]'(entryOf s.journal.writeCount).isLt)
          = some (slotNotice s i (.handle (if isOpen then .opened
              else if (s.slot i).latch then .retracted else .closed)) (s.activeTag i)))
    ∧ OtherSlots i s t ∧ CellsKept s t ∧ t.alloc = s.alloc ∧ t.power = s.power ∧ t.ports = s.ports
    ∧ t.engines = s.engines)
  ∧ (∀ (s : State) (i : SlotId) (isOpen : Bool),
    ∃ t, exec (.handleDebounce i ⟨isOpen, false⟩) s = .next t
    ∧ t = { s.modPins i (fun p => { p with handleOpen := isOpen }) with debounceFrom := t.debounceFrom }
    ∧ t.timesOf i = { s.timesOf i with
        handle := if (s.pinsOf i).handleOpen = isOpen then (s.timesOf i).handle else s.time }
    ∧ (∀ j, j ≠ i → t.timesOf j = s.timesOf j)
    ∧ t.debounceFrom.feedA = s.debounceFrom.feedA ∧ t.debounceFrom.feedB = s.debounceFrom.feedB)
  ∧ ∀ (s : State) (i : SlotId) (b : Bool), s.pending = [] → s.held = false → s.resetLine = none →
    ∃ t, step s = .next t
    ∧ (.handleDebounce i ⟨b, true⟩ ∈ t.pending ↔ b = (s.pinsOf i).handleOpen
      ∧ b ≠ (s.slot i).handleOpen ∧ reached (s.time + 1) (after (s.timesOf i).handle 20) = true)

/-- A handle open acts at once under SELF-RETIRE with HOLD clear (R28): in AWAIT-POWER with its ADMIT
active the slot moves to PARKED and the ADMIT finishes CANCELLED; in IN-SERVICE with no order active and
no port to withdraw a retirement with reason 240 begins and reaches QUIESCING. -/
def Obligations.HandleRequestActs : Prop :=
  ∀ (s : State) (i : SlotId), Inv s → s.Live → s.QuietBut i →
    (s.slot i).handleOpen = false → (s.slot i).policy.handle = .selfRetire →
    (s.slot i).hold = false →
    (∀ e, (s.slot i).state = .awaitPower → (s.slot i).orders = [e] → (s.slot i).active = true →
      e.kind = .admitBlade →
      ∃ t, exec (.handleDebounce i ⟨true, true⟩) s = .next t
      ∧ (t.slot i).state = .parked ∧ (t.slot i).gen = nextGeneration (s.slot i).gen
      ∧ (t.slot i).latch = false ∧ (t.slot i).orders = [] ∧ t.alloc.queue = []
      ∧ t.cell e.cell = .finished ∧ t.rd8 e.cell 0x1C = OrderOutcome.cancelled.code
      ∧ OtherSlots i s t ∧ OtherCells e.cell s t ∧ t.power = s.power ∧ t.ports = s.ports)
    ∧ ((s.slot i).state = .inService → (s.slot i).orders = [] → (s.slot i).active = false →
      (∀ p, nodeSlot p = i ∨ hubSlot p = i → (s.portOf p).state = .isolated) →
      ∃ t, exec (.handleDebounce i ⟨true, true⟩) s = .next t
      ∧ (t.slot i).state = .quiescing ∧ (t.slot i).prev = .leaving ∧ (t.slot i).latch = false
      ∧ (t.slot i).retire = some ⟨240, false, (s.slot i).policy.stampOnHandle, none⟩
      ∧ (t.slot i).quiesce = some (after s.time s.settings.quiesceLimit)
      ∧ OtherSlots i s t ∧ CellsKept s t ∧ t.power = s.power ∧ t.ports = s.ports)

/-- SETTLE_EXPIRY (R5, R6): when the settle deadline of a SEATING slot passes the slot is SURVEYING, its
identity cleared, its link UP, and IDENT-PAGE 0 on the link; otherwise nothing happens (the model's
choice, log 2). -/
def Obligations.SettleExpiryBeginsSurvey : Prop :=
  ∀ (s : State) (i : SlotId), Inv s → s.Live →
    ((s.slot i).state = .seating → due s.time (s.slot i).settle = true →
      ∃ t, exec (.settleExpiry i) s = .next t
      ∧ (t.slot i).state = .surveying ∧ (t.slot i).prev = .seating ∧ (t.slot i).entry = s.time
      ∧ (t.slot i).gen = nextGeneration (s.slot i).gen ∧ (t.slot i).settle = none
      ∧ (t.slot i).idStatus = .none ∧ (t.slot i).ident = Identity.zero
      ∧ (t.slot i).survey = some ⟨.page0, none, []⟩
      ∧ t.linkUp i = true ∧ (t.engine i).Carries (.identPage 0)
      ∧ OtherSlots i s t ∧ CellsKept s t ∧ t.alloc = s.alloc ∧ t.power = s.power
      ∧ t.ports = s.ports ∧ OtherEngines i s t)
    ∧ (((s.slot i).state ≠ .seating ∨ due s.time (s.slot i).settle = false) →
      exec (.settleExpiry i) s = .next s)

/-- The faults that remove power: the power faults (R19, R20, R88, R90, R91), and under the fault
response CUT a PROBE answered FAULT, AGENT-FAULT, and the loss of the link, LINK-LOST (R20; outside
STAMPING and with no page read under way). Each command below, in a payload-on state that meets its
condition, takes the slot to FAULTED: fault field and time, switch OFF with the blade reset asserted,
ports ISOLATED with gates closed, claim returned, no deadline left at the switch. An active ADMIT
finishes with the outcome of the cause, an active RETIRE finishes DONE with the cause as fault at
finish. -/
def Obligations.PowerFaultRemovesPower : Prop :=
  ∀ (s : State) (i : SlotId) (c : Instr) (cause : FaultCause) (o : Outstanding) (f : List Byte)
      (r : Reply), Inv s → s.Live → s.QuietBut i →
    (s.slot i).state.payloadOn = true →
    ((s.slot i).orders = [] ∨ (s.slot i).active = true ∧ (s.slot i).orders.length = 1) →
    (c = .bootLimitExpiry i ∧ cause = .bootTimeout ∧ (s.slot i).state = .booting
        ∧ due s.time (s.slot i).boot = true
      ∨ c = .rampLimitExpiry i ∧ cause = .rampSlow ∧ due s.time (s.pwr i).rampLimit = true
      ∨ c = .trip i ∧ cause = (if (s.pwr i).rampLimit.isSome then .rampTrip else .overcurrent)
        ∧ (s.pwr i).switchOn = true
      ∨ c = .powerGoodLoss i ∧ cause = .powerLost ∧ (s.pwr i).switchOn = true
        ∧ (s.pwr i).rampLimit = none
      ∨ c = .frameArrival i f ∧ cause = .agentFault ∧ (s.slot i).policy.fault = .cut
        ∧ ((s.slot i).agentFault = false ∨ (s.slot i).state = .resuming)
        ∧ (s.engine i).out = some o ∧ o.msg = .probe ∧ o.live = true ∧ o.recovery = false
        ∧ judgeReply .probe o.seq f = some r
        ∧ AgentState.ofCode (byteAt r.payload 0) = some .fault
      ∨ c = .replyDeadlineExpiry i ∧ cause = .linkLost ∧ (s.slot i).policy.fault = .cut
        ∧ (s.slot i).state ≠ .stamping ∧ (s.slot i).read = none ∧ (s.engine i).link = .up
        ∧ (s.engine i).out = some o ∧ o.live = true ∧ o.msg.isNotification = false
        ∧ o.recovery = false ∧ 3 ≤ o.attempt ∧ reached s.time o.deadline = true) →
    ∃ t, exec c s = .next t
    ∧ (t.slot i).state = .faulted ∧ (t.slot i).prev = (s.slot i).state
    ∧ (t.slot i).gen = nextGeneration (s.slot i).gen ∧ (t.slot i).fault = some cause
    ∧ (t.slot i).faultTime = s.time ∧ (t.slot i).claim = 0 ∧ (t.slot i).retire = none
    ∧ (t.slot i).latch = false
    ∧ (t.pwr i).switchOn = false ∧ (t.pwr i).resetAsserted = true ∧ (t.pwr i).rampLimit = none
    ∧ (t.pwr i).resetHold = none ∧ (t.pwr i).minute = none
    ∧ ((s.pwr i).switchOn = true → (t.pwr i).deferral = none ∧ (t.pwr i).offTime = s.time
        ∧ (t.pwr i).offRef = some (after s.time 60000))
    ∧ t.alloc.claims[i] = 0 ∧ t.alloc.granted + s.alloc.claims[i] = s.alloc.granted
    ∧ (∀ p, nodeSlot p = i ∨ hubSlot p = i →
        (t.portOf p).state = .isolated ∧ (t.portOf p).gate = false)
    ∧ (∀ e, (s.slot i).orders = [e] → (s.slot i).active = true →
        (e.kind = .admitBlade → (t.slot i).orders = [] ∧ t.cell e.cell = .finished
          ∧ t.rd8 e.cell 0x1C = cause.admitOutcome.code
          ∧ t.rd8 e.cell 0x1E = SlotState.faulted.code)
        ∧ (e.kind = .retire → (t.slot i).orders = [] ∧ t.cell e.cell = .finished
          ∧ t.rd8 e.cell 0x1C = OrderOutcome.done.code ∧ t.rd8 e.cell 0x1D = cause.code)
        ∧ (e.kind ≠ .admitBlade → e.kind ≠ .retire → (t.slot i).orders = [e]))
    ∧ OtherSlots i s t ∧ OtherPower i s t ∧ t.settings = s.settings ∧ t.history = s.history

/-- QUIESCE_DEADLINE_EXPIRY, a PROBE answered DRAINED in QUIESCING, and DEFERRAL_EXPIRY (R16, R18, R92),
for a retirement that makes no stamp. When the quiesce deadline of a QUIESCING slot passes or its agent
reports DRAINED, and MIN-ON has passed, or when the deferral of a POWERING-OFF slot passes, the switch
opens, the claim is returned, the slot is PARKED and its RETIRE finishes DONE. When MIN-ON has not
passed at the end of the quiesce, the slot is POWERING-OFF with its deferral at the power-good time plus
MIN-ON. The agent state of the answer is recorded (R137). -/
def Obligations.RetirementPowersOff : Prop :=
  ∀ (s : State) (i : SlotId) (c : Instr) (o : Outstanding) (f : List Byte) (r : Reply),
    Inv s → s.Live → s.Quiet →
    s.alloc.timingAtFront = false → (s.slot i).latch = false → (s.pwr i).switchOn = true →
    ((s.slot i).orders = [] ∨ (s.slot i).active = true ∧ (s.slot i).orders.length = 1) →
    (c = .quiesceDeadlineExpiry i ∧ (s.slot i).state = .quiescing
        ∧ due s.time (s.slot i).quiesce = true ∧ (s.slot i).retire.any (·.stamp) = false
      ∨ c = .frameArrival i f ∧ (s.slot i).state = .quiescing
        ∧ (s.slot i).retire.any (·.stamp) = false
        ∧ (s.engine i).out = some o ∧ o.msg = .probe ∧ o.live = true ∧ o.recovery = false
        ∧ judgeReply .probe o.seq f = some r
        ∧ AgentState.ofCode (byteAt r.payload 0) = some .drained
      ∨ c = .deferralExpiry i ∧ (s.slot i).state = .poweringOff
        ∧ due s.time (s.pwr i).deferral = true) →
    ∃ t, exec c s = .next t
    ∧ (c = .frameArrival i f → (t.slot i).lastAgent = some .drained ∧ (t.slot i).lastCause = 0)
    ∧ (c ≠ .deferralExpiry i → s.minOnPassed i = false →
        (t.slot i).state = .poweringOff ∧ (t.slot i).prev = .quiescing
        ∧ (t.slot i).retire = (s.slot i).retire ∧ (t.slot i).orders = (s.slot i).orders
        ∧ t.pwr i = { s.pwr i with deferral := some (after (s.pwr i).goodTime s.settings.minOn) }
        ∧ t.alloc = s.alloc ∧ CellsKept s t)
    ∧ ((c ≠ .deferralExpiry i → s.minOnPassed i = true) →
        (t.slot i).state = .parked ∧ (t.slot i).prev = .poweringOff ∧ (t.slot i).claim = 0
        ∧ (t.slot i).retire = none ∧ (t.slot i).orders = []
        ∧ t.pwr i = (s.pwr i).turnOff s.time
        ∧ t.alloc.claims[i] = 0 ∧ t.alloc.granted + s.alloc.claims[i] = s.alloc.granted
        ∧ ∀ e, (s.slot i).orders = [e] → t.cell e.cell = .finished
          ∧ t.rd8 e.cell 0x1C = OrderOutcome.done.code
          ∧ t.rd8 e.cell 0x1E = SlotState.parked.code ∧ t.rd8 e.cell 0x1D = 0)
    ∧ OtherSlots i s t ∧ OtherPower i s t ∧ t.ports = s.ports ∧ t.settings = s.settings

/-- The steps, the deadlines and the ends of a stamp (R17, R156 to R160). QUIESCE_DEADLINE_EXPIRY of a
retirement with STAMP, on a link that is UP, begins the stamp: the slot is STAMPING at its first step
and ROW-LOAD of the row built (R153) is on the link. PROBE_PAUSE_EXPIRY removes the pause and asks for a
PROBE, which the sequencer places on a link that is UP with none queued or outstanding (R130, R137). OK to ROW-LOAD is followed by ROW-COMMIT; OK to ROW-COMMIT begins the programming, with a limit
of 30 ms and a PROBE asked for; a PROBE answered PROGRAMMING sets the probe pause of 5 ms, any other
answer that is no fresh FAULT reads the row's page back; and BUSY starts the limit if it is absent and
asks again. A stamp ends FAILED at PROGRAM_LIMIT_EXPIRY and on NO-LOAD, SKIPPED at its start on a link
that is not UP, and when the page is read back WRITTEN, with the row pointers advanced, if it shows the
row, else FAILED; but for WRITTEN the pointers stand. While MIN-ON has not passed the slot is then
POWERING-OFF with its power-off deferred; when it has passed, the same event opens the switch, returns
the claim, parks the slot and finishes its RETIRE DONE (R18, R92). -/
def Obligations.StampDeadlines : Prop :=
  (∀ (s : State) (i : SlotId), Inv s → s.Live →
    (∀ r, (s.slot i).state = .quiescing → due s.time (s.slot i).quiesce = true →
      (s.slot i).retire = some r → r.stamp = true → s.linkUp i = true →
      let row := serviceRow (s.slot i).nextSeq s.straps.shelfNumber i r.reason (s.slot i).minutes
        (s.slot i).admissions
      ∃ t, exec (.quiesceDeadlineExpiry i) s = .next t
      ∧ (t.slot i).state = .stamping ∧ (t.slot i).prev = .quiescing
      ∧ (t.slot i).stamp = some ⟨.load, (s.slot i).nextRow, row, none, none⟩
      ∧ (t.engine i).Carries (.rowLoad (s.slot i).nextRow row)
      ∧ OtherSlots i s t ∧ CellsKept s t ∧ t.alloc = s.alloc ∧ t.power = s.power
      ∧ t.ports = s.ports ∧ OtherEngines i s t)
    ∧ (∀ m, (s.slot i).stamp = some m → due s.time m.pause = true →
      ∃ t, exec (.probePauseExpiry i) s = .next t
      ∧ (t.slot i).Like { s.slot i with stamp := some { m with pause := none } }
      ∧ (s.linkUp i = true → (t.engine i).probing = true)
      ∧ (s.linkUp i = true → (s.engine i).probing = false → t.engine i = ({ s.engine i with
        queue := (s.engine i).queue ++ [⟨.probe, .sequencer, none⟩] } : Engine).serve s.time)
      ∧ (s.linkUp i = false ∨ (s.engine i).probing = true → t.engine i = s.engine i)
      ∧ OtherSlots i s t ∧ CellsKept s t ∧ t.alloc = s.alloc ∧ t.power = s.power
      ∧ t.ports = s.ports ∧ OtherEngines i s t ∧ t.journal = s.journal))
  ∧ (∀ (s : State) (i : SlotId) (m : Stamp) (o : Outstanding) (f : List Byte) (r : Reply),
    Inv s → s.Live → (s.slot i).stamp = some m → s.linkUp i = true → (s.engine i).out = some o →
    o.live = true → o.recovery = false → judgeReply o.msg o.seq f = some r →
    (m.step = .load → o.msg = .rowLoad m.row m.bytes → r.answer = .ok →
      ∃ t, exec (.frameArrival i f) s = .next t
      ∧ (t.slot i).Like { s.slot i with stamp := some { m with step := .commit, limit := none } }
      ∧ (t.engine i).Carries (.rowCommit m.row)
      ∧ OtherSlots i s t ∧ CellsKept s t ∧ t.alloc = s.alloc ∧ t.power = s.power
      ∧ t.ports = s.ports ∧ OtherEngines i s t ∧ t.journal = s.journal)
    ∧ (m.step = .commit → o.msg = .rowCommit m.row → r.answer = .ok →
      ∃ t, exec (.frameArrival i f) s = .next t
      ∧ (t.slot i).Like { s.slot i with
        stamp := some { m with step := .programming, limit := some (after s.time 30) } }
      ∧ (t.engine i).probing = true
      ∧ OtherSlots i s t ∧ CellsKept s t ∧ t.alloc = s.alloc ∧ t.power = s.power
      ∧ t.ports = s.ports ∧ OtherEngines i s t ∧ t.journal = s.journal)
    ∧ (o.msg.isOwn = true → r.answer = .busy →
      ∃ t, exec (.frameArrival i f) s = .next t
      ∧ (t.slot i).Like { s.slot i with
        stamp := some { m with limit := some (m.limit.getD (after s.time 30)) } }
      ∧ t.engine i = ({ s.engine i with
        queue := (s.engine i).queue ++ [⟨o.msg, o.placer, some (after s.time 5)⟩], out := none } : Engine).serve
          s.time
      ∧ OtherSlots i s t ∧ CellsKept s t ∧ t.alloc = s.alloc ∧ t.power = s.power
      ∧ t.ports = s.ports ∧ OtherEngines i s t ∧ t.journal = s.journal)
    ∧ (∀ st, m.step = .programming → o.msg = .probe →
      AgentState.ofCode (byteAt r.payload 0) = some st →
      st ≠ .fault ∨ (s.slot i).agentFault = true →
      ∃ t, exec (.frameArrival i f) s = .next t
      ∧ (t.slot i).Like { s.slot i with
        lastAgent := some st, lastCause := if st = .fault then byteAt r.payload 1 else 0,
        agentFault := decide (st = .fault),
        stamp := some (if st = .programming then { m with pause := some (after s.time 5) }
          else { m with step := .verify, limit := none, pause := none }) }
      ∧ (st ≠ .programming →
        (t.engine i).Carries (.identPage (if m.row.val < 4 then 6 else 7)))
      ∧ OtherSlots i s t ∧ CellsKept s t ∧ t.alloc = s.alloc ∧ t.power = s.power
      ∧ t.ports = s.ports ∧ OtherEngines i s t ∧ t.journal = s.journal))
  ∧ ∀ (s : State) (i : SlotId) (c : Instr) (m : Stamp) (o : Outstanding) (f : List Byte) (r : Reply)
      (result : StampResult), Inv s → s.Live →
    (c = .programLimitExpiry i ∧ (s.slot i).stamp = some m ∧ due s.time m.limit = true
        ∧ result = .failed
      ∨ c = .quiesceDeadlineExpiry i ∧ (s.slot i).state = .quiescing
        ∧ due s.time (s.slot i).quiesce = true ∧ (s.slot i).retire.any (·.stamp) = true
        ∧ s.linkUp i = false ∧ result = .skipped
      ∨ c = .frameArrival i f ∧ (s.slot i).stamp = some m ∧ s.linkUp i = true
        ∧ (s.engine i).out = some o ∧ o.live = true ∧ o.recovery = false
        ∧ judgeReply o.msg o.seq f = some r
        ∧ (m.step = .commit ∧ o.msg = .rowCommit m.row ∧ r.answer = .noLoad ∧ result = .failed
          ∨ m.step = .verify ∧ o.msg = .identPage (if m.row.val < 4 then 6 else 7)
            ∧ r.answer = .ok ∧ result = if (r.payload.drop (8 * (m.row.val % 4))).take 8 = m.bytes
              then .written else .failed)) →
    (s.minOnPassed i = false ∨ s.Quiet ∧ s.alloc.timingAtFront = false ∧ (s.slot i).latch = false
      ∧ (s.pwr i).switchOn = true
      ∧ ((s.slot i).orders = [] ∨ (s.slot i).active = true ∧ (s.slot i).orders.length = 1)) →
    ∃ t, exec c s = .next t ∧ (t.slot i).stamp = none ∧ (t.slot i).lastStamp = some result
    ∧ (t.slot i).nextRow = (if result = .written then (s.slot i).nextRow + 1 else (s.slot i).nextRow)
    ∧ (t.slot i).nextSeq = (if result = .written then (s.slot i).nextSeq + 1 else (s.slot i).nextSeq)
    ∧ (t.slot i).ident = (s.slot i).ident
    ∧ (s.minOnPassed i = false → (t.slot i).state = .poweringOff ∧ (t.slot i).prev = .stamping
      ∧ (t.slot i).retire = (s.slot i).retire ∧ (t.slot i).orders = (s.slot i).orders
      ∧ t.pwr i = { s.pwr i with deferral := some (after (s.pwr i).goodTime s.settings.minOn) }
      ∧ t.alloc = s.alloc ∧ CellsKept s t)
    ∧ (s.minOnPassed i = true → (t.slot i).state = .parked ∧ (t.slot i).prev = .poweringOff
      ∧ (t.slot i).claim = 0 ∧ (t.slot i).retire = none ∧ (t.slot i).orders = []
      ∧ t.pwr i = { s.pwr i with
        switchOn := false, resetAsserted := true, rampLimit := none, resetHold := none
        deferral := none, minute := none, offTime := s.time, offRef := some (after s.time 60000) }
      ∧ t.alloc.claims[i] = 0 ∧ t.alloc.granted + s.alloc.claims[i] = s.alloc.granted
      ∧ ∀ e, (s.slot i).orders = [e] → t.cell e.cell = .finished
        ∧ t.rd8 e.cell 0x1C = OrderOutcome.done.code
        ∧ t.rd8 e.cell 0x1E = SlotState.parked.code ∧ t.rd8 e.cell 0x1D = 0)
    ∧ OtherSlots i s t ∧ OtherPower i s t ∧ t.ports = s.ports ∧ t.settings = s.settings
    ∧ OtherEngines i s t

/-! ### Power Allocator and Payload Power Control -/

/-- WAIT_DEADLINE_EXPIRY (R70): when the wait deadline of a slot's entry passes, the entry leaves the
queue, the slot moves to PARKED with wait reason NONE and queue position 0, and its ADMIT finishes
POWER-TIMEOUT; while no entry of the slot is due, nothing happens (the model's choice, log 2). -/
def Obligations.WaitDeadlineParks : Prop :=
  ∀ (s : State) (i : SlotId), Inv s → s.Live →
    (∀ e, s.QuietBut i → (s.slot i).state = .awaitPower → (s.slot i).orders = [e] →
      (s.slot i).active = true → (∃ q ∈ s.alloc.queue, due s.time q.deadline = true) →
      ∃ t, exec (.waitDeadlineExpiry i) s = .next t
      ∧ (t.slot i).state = .parked ∧ (t.slot i).prev = .awaitPower
      ∧ (t.slot i).gen = nextGeneration (s.slot i).gen ∧ (t.slot i).waitReason = none
      ∧ (t.slot i).queuePos = 0 ∧ (t.slot i).orders = [] ∧ t.alloc.queue = []
      ∧ t.alloc.reexam = none
      ∧ t.cell e.cell = .finished ∧ t.rd8 e.cell 0x1C = OrderOutcome.powerTimeout.code
      ∧ OtherSlots i s t ∧ OtherCells e.cell s t ∧ t.power = s.power ∧ t.ports = s.ports
      ∧ OtherEngines i s t)
    ∧ ((∀ q ∈ s.alloc.queue, q.slot = i → due s.time q.deadline = false) →
      exec (.waitDeadlineExpiry i) s = .next s)

/-- REEXAMINATION_EXPIRY (R66, R67): when the re-examination deadline passes, the head is examined. If a
test fails the head takes its reason and the deadline that reason calls for, the power-off time plus
MIN-OFF for COOLING and the time pacing gives for PACING; with no test failing and no other entry the
head is granted and RAMPING with its switch ON (R69). While the deadline has not passed nothing happens
(the model's choice, log 2). The five tests and their reasons, in their order (R66): BUDGET, FEED,
COOLING, PACING, SETTING. Pacing permits a start when the newest entry of the history is RAMP-GAP old
and fewer than WINDOW-LIMIT entries are younger than RAMP-WINDOW (R83). When it does not, the time it
gives is the earliest at which it will, the newest entry plus RAMP-GAP or the entry k − WINDOW-LIMIT + 1
plus RAMP-WINDOW (R84), for a history in its order with entries younger than 2^31 ms. -/
def Obligations.ReexaminationExaminesHead : Prop :=
  (∀ (s : State), Inv s → s.Live →
    (due s.time s.alloc.reexam = false → exec .reexaminationExpiry s = .next s)
    ∧ (∀ e rest r, due s.time s.alloc.reexam = true → s.alloc.queue = e :: rest →
      examination s e = some r →
      ∃ t, exec .reexaminationExpiry s = .next t
      ∧ (t.slot e.slot).Like { s.slot e.slot with waitReason := some r }
      ∧ t.alloc = { s.alloc with reexam := match r with
        | .cooling => some (after (s.pwr e.slot).offTime s.settings.minOff)
        | .pacing => some (pacingTime s.settings s.history s.time)
        | .budget | .feed | .setting | .behind => none }
      ∧ OtherSlots e.slot s t ∧ CellsKept s t ∧ t.power = s.power ∧ t.ports = s.ports
      ∧ t.engines = s.engines ∧ t.journal = s.journal)
    ∧ (∀ e, due s.time s.alloc.reexam = true → s.alloc.queue = [e] → examination s e = none →
      (s.pinsOf e.slot).powerGood = false → (s.slot e.slot).state = .awaitPower →
      ∃ t, exec .reexaminationExpiry s = .next t
      ∧ (t.slot e.slot).state = .ramping ∧ (t.slot e.slot).prev = .awaitPower
      ∧ (t.slot e.slot).claim = e.claim ∧ t.alloc.queue = [] ∧ t.alloc.claims[e.slot] = e.claim
      ∧ (t.pwr e.slot).switchOn = true ∧ (t.pwr e.slot).resetAsserted = true
      ∧ (t.pwr e.slot).rampLimit =
        some (after s.time (rampLimitOf (s.slot e.slot).ident.inrush))
      ∧ t.history = appendHistory s.history s.time
      ∧ OtherSlots e.slot s t ∧ CellsKept s t ∧ OtherPower e.slot s t ∧ t.ports = s.ports
      ∧ OtherEngines e.slot s t))
  ∧ (∀ (s : State) (e : QueueEntry), examination s e =
    if s.alloc.fits e.slot e.claim = false then some .budget
    else if s.straps.feedHold = true ∧ (s.alloc.feedALost = true ∨ s.alloc.feedBLost = true)
    then some .feed
    else if (s.pwr e.slot).offRef ≠ none
      ∧ (s.time - (s.pwr e.slot).offTime).toNat < s.settings.minOff then some .cooling
    else if pacingPermits s.settings s.history s.time = false then some .pacing
    else if (s.alloc.shelf.head?.any fun d => decide (d.kind = .setTiming)) = true then some .setting
    else none)
  ∧ ∀ (st : Settings) (h : List Time) (now : Time),
    let permits := fun (t : Time) => (∀ e ∈ h.getLast?, st.rampGap ≤ (t - e).toNat)
      ∧ h.countP (fun e => decide ((t - e).toNat < st.rampWindow)) < st.windowLimit
    (∀ t, pacingPermits st h t = true ↔ permits t)
    ∧ (h.length ≤ 4 → 1 ≤ st.windowLimit → st.rampGap < 65536 → st.rampWindow < 65536 →
      (∀ e ∈ h, (now - e).toNat < 2147483648) →
      h.Pairwise (fun a b => (now - b).toNat ≤ (now - a).toNat) → ¬ permits now →
      let first := pacingTime st h now
      permits first ∧ (∀ d, d < (first - now).toNat → ¬ permits (after now d))
      ∧ ((∃ e ∈ h.getLast?, first = after e st.rampGap)
        ∨ ∃ w ∈ h[h.length - st.windowLimit]?, st.windowLimit ≤ h.length
          ∧ first = after w st.rampWindow))

/-- FEED_DEBOUNCE (R76, R77): a level that differs from the feed's state becomes its state, and
ATTENTION.FEED latches; a return to GOOD examines the head, which a queue without entries has not. A
level equal to the state changes the measurement alone. So does a level that has not held yet, from when
its debounce runs; the tick queues the command for a measurement that differs from the feed's state once
it has stood for 10 ms (log 18). -/
def Obligations.FeedChanges : Prop :=
  (∀ (s : State) (x : Feed) (lost : Bool), Inv s → s.Live →
    (s.alloc.feedLost x = lost → exec (.feedDebounce x ⟨lost, true⟩) s = .next (s.measureFeed x lost))
    ∧ (s.alloc.feedLost x ≠ lost → lost = true ∨ s.alloc.queue = [] →
      ∃ t, exec (.feedDebounce x ⟨lost, true⟩) s = .next t
      ∧ t.alloc = s.alloc.setFeed x lost
      ∧ t.port.attention &&& Attention.feed.mask = Attention.feed.mask
      ∧ (s.port.run = true → s.journal.full = false → s.journal.gapPending = false →
        t.journal.writeCount = s.journal.writeCount + 1
        ∧ (t.journal.entries[(entryOf s.journal.writeCount).val]'(entryOf s.journal.writeCount).isLt)
          = some ⟨.feed x lost, none, s.time, 0, none, none, none⟩
        ∧ t.shelfRevision = s.shelfRevision + 1)
      ∧ t.slots = s.slots ∧ CellsKept s t ∧ t.power = s.power ∧ t.ports = s.ports
      ∧ t.engines = s.engines ∧ t.settings = s.settings ∧ t.history = s.history))
  ∧ (∀ (s : State) (b : Bool),
    exec (.feedDebounce .a ⟨b, false⟩) s = .next { s with
      feedALow := b
      debounceFrom := { s.debounceFrom with
        feedA := if s.feedALow = b then s.debounceFrom.feedA else s.time } }
    ∧ exec (.feedDebounce .b ⟨b, false⟩) s = .next { s with
      feedBLow := b
      debounceFrom := { s.debounceFrom with
        feedB := if s.feedBLow = b then s.debounceFrom.feedB else s.time } })
  ∧ ∀ (s : State) (b : Bool), s.pending = [] → s.held = false → s.resetLine = none →
    ∃ t, step s = .next t
    ∧ (.feedDebounce .a ⟨b, true⟩ ∈ t.pending ↔ b = s.feedALow ∧ b ≠ s.alloc.feedALost
      ∧ reached (s.time + 1) (after s.debounceFrom.feedA 10) = true)
    ∧ (.feedDebounce .b ⟨b, true⟩ ∈ t.pending ↔ b = s.feedBLow ∧ b ≠ s.alloc.feedBLost
      ∧ reached (s.time + 1) (after s.debounceFrom.feedB 10) = true)

/-- POWER_GOOD (R9, R10, R87): in a RAMPING slot the ramp ends, the power-good time, the on-reference
and the reset hold of 50 ms are set, the slot leaves the ramping set and is BOOTING with its boot limit,
in seconds the active ADMIT's override, else the identity's boot hint, else 90. In a slot with no ramp
in progress the raw level alone changes. -/
def Obligations.PowerGoodBeginsBoot : Prop :=
  ∀ (s : State) (i : SlotId), Inv s → s.Live →
    ((s.pwr i).rampLimit = none → exec (.powerGood i) s =
      .next (s.modPins i fun p => { p with powerGood := true }))
    ∧ ((s.pwr i).rampLimit ≠ none → (s.slot i).state = .ramping → s.alloc.timingAtFront = false →
      ∃ t, exec (.powerGood i) s = .next t
      ∧ (t.slot i).state = .booting ∧ (t.slot i).prev = .ramping ∧ (t.slot i).entry = s.time
      ∧ (t.slot i).gen = nextGeneration (s.slot i).gen
      ∧ (let given := match (s.slot i).orders with
          | e :: _ => if (s.slot i).active = true ∧ e.kind = .admitBlade
            then (s.rd8 e.cell 0x10).toNat else 0
          | [] => 0
        let hint := (s.slot i).ident.bootHint.toNat
        (t.slot i).boot = some (after s.time
          (1000 * if given ≠ 0 then given else if hint ≠ 0 then hint else 90)))
      ∧ (t.slot i).orders = (s.slot i).orders ∧ (t.slot i).active = (s.slot i).active
      ∧ t.pwr i = { s.pwr i with
          rampLimit := none, goodTime := s.time, onRef := some (after s.time 60000),
          resetHold := some (after s.time 50) }
      ∧ t.alloc = { s.alloc with ramping := s.alloc.ramping.erase i }
      ∧ OtherSlots i s t ∧ CellsKept s t ∧ OtherPower i s t ∧ t.ports = s.ports
      ∧ OtherEngines i s t)

/-- The deadlines that change one field and start nothing: RESET_HOLD_EXPIRY releases the blade reset
(R89), MINUTE_EXPIRY counts a powered minute, holding at 65535, and sets the next (R96), HORIZON_EXPIRY
clears a reference (R94), HISTORY_ENTRY_AGE removes the entries of an age of 2^31 ms (R82) and
INDICATOR_BLINK_PHASE changes the phase every 500 ms (R31). The model's own: each does nothing before
its time (log 2), and the next minute and the next phase are counted from the expiry (log 17). -/
def Obligations.SimpleDeadlines : Prop :=
  ∀ (s : State) (i : SlotId), s.Live →
    exec (.resetHoldExpiry i) s = .next (if due s.time (s.pwr i).resetHold
      then s.modPower i fun p => { p with resetHold := none, resetAsserted := false } else s)
    ∧ exec (.horizonExpiry i .on) s = .next (if due s.time (s.pwr i).onRef
      then s.modPower i fun p => { p with onRef := none } else s)
    ∧ exec (.horizonExpiry i .off) s = .next (if due s.time (s.pwr i).offRef
      then s.modPower i fun p => { p with offRef := none } else s)
    ∧ (due s.time (s.pwr i).minute = false → exec (.minuteExpiry i) s = .next s)
    ∧ (due s.time (s.pwr i).minute = true → ∃ t, exec (.minuteExpiry i) s = .next t
      ∧ (t.slot i).Like { s.slot i with minutes := min 65535 ((s.slot i).minutes + 1) }
      ∧ t.power = (s.modPower i fun p => { p with minute := some (after s.time 60000) }).power
      ∧ t = { s with slots := t.slots, power := t.power } ∧ OtherSlots i s t)
    ∧ ((∀ e ∈ s.history, (s.time - e).toNat < 2147483648) → exec .historyEntryAge s = .next s)
    ∧ ((∃ e ∈ s.history, 2147483648 ≤ (s.time - e).toNat) → exec .historyEntryAge s = .next { s with
        history := s.history.filter fun e => decide ((s.time - e).toNat < 2147483648)
        shelfRevision := s.shelfRevision + 1 })
    ∧ (∀ b, (s.slot i).blink = some b → exec (.indicatorBlinkPhase i) s =
      .next (if reached s.time b.deadline
        then s.modSlot i fun x => { x with blink := some ⟨!b.lit, after s.time 500⟩ } else s))
    ∧ ((s.slot i).blink = none → exec (.indicatorBlinkPhase i) s = .next s)

/-! ### Fabric ports -/

/-- OFFER_DEADLINE_EXPIRY and DRAIN_DEADLINE_EXPIRY (R110, R116, R118), where the move of the port ends
no join and no leave. An offer that lapses leaves its port ISOLATED and declined, and on a hub link that
is UP takes back a queued ADMIT or sends DROP. A drain deadline that passes, unless every LEAVING slot
of the port is in a GENTLE retirement and there is one, leaves its port ISOLATED with its gate closed;
DROP goes onto the hub's link and PATH-LOST onto the node's, each if that link is UP and its slot not
VACANT; and one notice, DRAIN-TIMEOUT with the port's state at the deadline, is handed. Before its
deadline, or in another state, a port is left as it is (the model's choice, log 2). Slots are as they
were. -/
def Obligations.PortDeadlinesIsolate : Prop :=
  ∀ (s : State) (p : PortId), Inv s → s.Live →
    ((s.portOf p).state = .offered → due s.time (s.portOf p).deadline = true → s.KeepsCourse p →
      ∃ t, exec (.offerDeadlineExpiry p) s = .next t
      ∧ t.portOf p = ⟨.isolated, true, (s.portOf p).attempts, none, false⟩
      ∧ (s.linkUp (hubSlot p) = true →
        ((s.engine (hubSlot p)).queued (fun m => decide (m = .admitNode p.node)) = true →
          (t.engine (hubSlot p)).queued (fun m => decide (m = .admitNode p.node)) = false
          ∧ (t.engine (hubSlot p)).out = (s.engine (hubSlot p)).out)
        ∧ ((s.engine (hubSlot p)).queued (fun m => decide (m = .admitNode p.node)) = false →
          (t.engine (hubSlot p)).Carries (.drop p.node)))
      ∧ (∀ q, q ≠ p → t.portOf q = s.portOf q) ∧ (∀ j, (t.slot j).Like (s.slot j))
      ∧ CellsKept s t ∧ t.alloc = s.alloc ∧ t.power = s.power ∧ OtherEngines (hubSlot p) s t)
    ∧ ((s.portOf p).state = .closing ∨ (s.portOf p).state = .withdrawing →
      due s.time (s.portOf p).deadline = true → s.KeepsCourse p →
      (s.leavingSlots p = [] ∨ ∃ j ∈ s.leavingSlots p, s.gentle j = false) →
      (s.bothOffering p = false ∨ (s.portOf p).declined = true) →
      ∃ t, exec (.drainDeadlineExpiry p) s = .next t
      ∧ t.portOf p = ⟨.isolated, (s.portOf p).declined, (s.portOf p).attempts, none, false⟩
      ∧ ((s.slot (hubSlot p)).state ≠ .vacant → s.linkUp (hubSlot p) = true →
        (t.engine (hubSlot p)).Carries (.drop p.node))
      ∧ ((s.slot (nodeSlot p)).state ≠ .vacant → s.linkUp (nodeSlot p) = true →
        (t.engine (nodeSlot p)).Carries (.pathLost p.hub))
      ∧ (s.port.run = true → s.journal.full = false → s.journal.gapPending = false →
        t.journal.writeCount = s.journal.writeCount + 1
        ∧ (t.journal.entries[(entryOf s.journal.writeCount).val]'(entryOf s.journal.writeCount).isLt)
          = some (slotNotice s (nodeSlot p) (.port .drainTimeout p.hub (s.portOf p).state) none))
      ∧ (∀ q, q ≠ p → t.portOf q = s.portOf q) ∧ (∀ j, (t.slot j).Like (s.slot j))
      ∧ CellsKept s t ∧ t.alloc = s.alloc ∧ t.power = s.power)
    ∧ ((s.portOf p).state ≠ .offered ∨ due s.time (s.portOf p).deadline = false →
      exec (.offerDeadlineExpiry p) s = .next s)
    ∧ ((s.portOf p).state ≠ .closing ∧ (s.portOf p).state ≠ .withdrawing
        ∨ due s.time (s.portOf p).deadline = false →
      exec (.drainDeadlineExpiry p) s = .next s)

/-- DRAIN_DEADLINE_EXPIRY of a port of a node slot in a GENTLE retirement, its hub IN-SERVICE (R15,
R116, R117): the withdrawal is abandoned. The slot is back IN-SERVICE, its RETIRE finishes
DRAIN-TIMEOUT; the port, if CLOSING, is OPENING again with its deadline removed, and if WITHDRAWING
keeps its course with a fresh drain deadline. -/
def Obligations.GentleDrainAborts : Prop :=
  ∀ (s : State) (p : PortId) (e : OrderEntry) (r : Retirement), Inv s → s.Live →
    s.QuietBut (nodeSlot p) → (s.slot (nodeSlot p)).state = .leaving →
    (s.slot (hubSlot p)).state = .inService → (s.slot (nodeSlot p)).orders = [e] →
    (s.slot (nodeSlot p)).active = true → e.kind = .retire → (s.slot (nodeSlot p)).latch = false →
    (s.slot (nodeSlot p)).retire = some r → r.gentle = true →
    ((s.portOf p).state = .closing ∨ (s.portOf p).state = .withdrawing) →
    due s.time (s.portOf p).deadline = true →
    ∃ t, exec (.drainDeadlineExpiry p) s = .next t
    ∧ (t.slot (nodeSlot p)).state = .inService ∧ (t.slot (nodeSlot p)).prev = .leaving
    ∧ (t.slot (nodeSlot p)).retire = none ∧ (t.slot (nodeSlot p)).orders = []
    ∧ t.cell e.cell = .finished ∧ t.rd8 e.cell 0x1C = OrderOutcome.drainTimeout.code
    ∧ t.rd8 e.cell 0x1E = SlotState.inService.code
    ∧ ((s.portOf p).state = .closing → (t.portOf p).state = .opening
        ∧ (t.portOf p).gate = true ∧ (t.portOf p).deadline = none)
    ∧ ((s.portOf p).state = .withdrawing → (t.portOf p).state = .withdrawing
        ∧ (t.portOf p).deadline = some (after s.time s.settings.drainLimit))
    ∧ (∀ q, q.node ≠ p.node → t.portOf q = s.portOf q)
    ∧ OtherSlots (nodeSlot p) s t ∧ OtherCells e.cell s t ∧ t.alloc = s.alloc ∧ t.power = s.power

/-! ### Slot links -/

/-- FRAME_ARRIVAL and REPLY_DEADLINE_EXPIRY that end an attempt as failed (R127, R128, R135, R136). With
no request outstanding a frame is ignored. A frame that counts as no reply, or a reply deadline that has
passed, fails the attempt: a live request below its third attempt is sent again with the same sequence
and a fresh reply deadline of 25 ms; an overtaken request or a notification ends, and the engine goes
on. A reply deadline that has not passed, or that meets no request, changes nothing (the model's choice,
log 2). -/
def Obligations.FailedAttempts : Prop :=
  ∀ (s : State) (i : SlotId) (f : List Byte), s.Live →
    ((s.engine i).out = none → exec (.frameArrival i f) s = .next s
      ∧ exec (.replyDeadlineExpiry i) s = .next s)
    ∧ ∀ o, (s.engine i).out = some o →
      (reached s.time o.deadline = false → exec (.replyDeadlineExpiry i) s = .next s)
      ∧ ∀ c, (c = .frameArrival i f ∧ judgeReply o.msg o.seq f = none
          ∨ c = .replyDeadlineExpiry i ∧ reached s.time o.deadline = true) →
        (o.live = true → o.msg.isNotification = false → o.attempt < 3 → exec c s =
          .next (s.modEngine i fun e => { e with
            out := some { o with attempt := o.attempt + 1, deadline := after s.time 25 } }))
        ∧ (o.live = false ∨ o.msg.isNotification = true → o.msg ≠ .probe → exec c s =
          .next (s.modEngine i fun e => ({ e with out := none } : Engine).serve s.time))

/-- FRAME_ARRIVAL of a reply (R127, R131): the request ends and its answer is taken. ACCEPT of an ADMIT
for an OFFERED port whose slots are in service opens its gate and begins OPENING, with PATH-OPEN on the
node's link (R108); REFUSE leaves the port ISOLATED and declined (R109); OK to PATH-OPEN makes an
OPENING port OPEN (R111); OK to PATH-CLOSE makes a CLOSING port WITHDRAWING, its gate open and its drain
deadline kept, with WITHDRAW on the hub's link when that is UP (R113); CLEAR to WITHDRAW makes a
WITHDRAWING port that is not offered again at once ISOLATED, a LEAVING slot's too (R114). Where the port
becomes ISOLATED or OPEN, that is said for a move that ends no join and no leave. LATER, PENDING and
BUSY put the request back, with its placer, at the tail of its link's queue for 200, 100 and 5 ms, and the engine goes on;
nothing else changes (R109, R113, R114, R131). -/
def Obligations.HandshakeAnswers : Prop :=
  ∀ (s : State) (p : PortId) (o : Outstanding) (f : List Byte) (r : Reply), Inv s → s.Live →
    o.live = true → judgeReply o.msg o.seq f = some r →
    (o.msg = .admitNode p.node → (s.engine (hubSlot p)).out = some o →
      (s.portOf p).state = .offered →
      (r.answer = .accept → s.bothOffering p = true → s.linkUp (nodeSlot p) = true →
          (s.engine (nodeSlot p)).queued (fun m => decide (m = .pathClose p.hub)) = false →
        ∃ t, exec (.frameArrival (hubSlot p) f) s = .next t
        ∧ t.portOf p = ⟨.opening, (s.portOf p).declined, (s.portOf p).attempts, none, true⟩
        ∧ (t.engine (nodeSlot p)).Carries (.pathOpen p.hub)
        ∧ (∀ q, q ≠ p → t.portOf q = s.portOf q) ∧ (∀ j, (t.slot j).Like (s.slot j))
        ∧ CellsKept s t ∧ t.alloc = s.alloc ∧ t.power = s.power ∧ t.journal = s.journal)
      ∧ (r.answer = .refuse → s.KeepsCourse p →
        ∃ t, exec (.frameArrival (hubSlot p) f) s = .next t
        ∧ t.portOf p = ⟨.isolated, true, (s.portOf p).attempts, none, false⟩
        ∧ (∀ q, q ≠ p → t.portOf q = s.portOf q) ∧ (∀ j, (t.slot j).Like (s.slot j))
        ∧ CellsKept s t ∧ t.alloc = s.alloc ∧ t.power = s.power))
    ∧ (o.msg = .pathOpen p.hub → (s.engine (nodeSlot p)).out = some o →
      (s.portOf p).state = .opening → s.KeepsCourse p →
      ∃ t, exec (.frameArrival (nodeSlot p) f) s = .next t
      ∧ t.portOf p = { s.portOf p with state := .opened }
      ∧ (∀ q, q ≠ p → t.portOf q = s.portOf q) ∧ (∀ j, (t.slot j).Like (s.slot j))
      ∧ CellsKept s t ∧ t.alloc = s.alloc ∧ t.power = s.power ∧ t.journal = s.journal)
    ∧ (o.msg = .pathClose p.hub → (s.engine (nodeSlot p)).out = some o →
      (s.portOf p).state = .closing → r.answer = .ok → s.linkUp (hubSlot p) = true →
      s.KeepsCourse p →
      ∃ t, exec (.frameArrival (nodeSlot p) f) s = .next t
      ∧ t.portOf p = { s.portOf p with state := .withdrawing }
      ∧ ((s.engine (hubSlot p)).queued (fun m => decide (m = .admitNode p.node)) = false →
        (t.engine (hubSlot p)).Carries (.withdraw p.node))
      ∧ (∀ q, q ≠ p → t.portOf q = s.portOf q) ∧ (∀ j, (t.slot j).Like (s.slot j))
      ∧ CellsKept s t ∧ t.alloc = s.alloc ∧ t.power = s.power ∧ t.journal = s.journal)
    ∧ (o.msg = .withdraw p.node → (s.engine (hubSlot p)).out = some o →
      (s.portOf p).state = .withdrawing → r.answer = .clear → s.KeepsCourse p →
      (s.bothOffering p = false ∨ (s.portOf p).declined = true) →
      ∃ t, exec (.frameArrival (hubSlot p) f) s = .next t
      ∧ t.portOf p = ⟨.isolated, (s.portOf p).declined, (s.portOf p).attempts, none, false⟩
      ∧ (∀ q, q ≠ p → t.portOf q = s.portOf q) ∧ (∀ j, (t.slot j).Like (s.slot j))
      ∧ CellsKept s t ∧ t.alloc = s.alloc ∧ t.power = s.power ∧ t.journal = s.journal)
    ∧ ∀ (i : SlotId) (ms : Nat), (s.engine i).out = some o → s.linkUp i = true →
      (o.msg = .admitNode p.node ∧ i = hubSlot p ∧ (s.portOf p).state = .offered
          ∧ r.answer = .later ∧ ms = 200 ∧ s.bothOffering p = true ∧ s.linkUp (nodeSlot p) = true
        ∨ o.msg = .pathClose p.hub ∧ i = nodeSlot p ∧ (s.portOf p).state = .closing
          ∧ r.answer = .pending ∧ ms = 100
        ∨ o.msg = .withdraw p.node ∧ i = hubSlot p ∧ (s.portOf p).state = .withdrawing
          ∧ r.answer = .pending ∧ ms = 100
        ∨ o.msg.isOwn = true ∧ r.answer = .busy ∧ ms = 5 ∧ (s.slot i).stamp = none) →
      exec (.frameArrival i f) s = .next (s.modEngine i fun e => ({ e with
        queue := e.queue ++ [⟨o.msg, o.placer, some (after s.time ms)⟩], out := none } : Engine).serve s.time)

/-- FRAME_ARRIVAL of a REPORT to a PROBE (R137). The agent state is recorded, with its cause byte for
FAULT alone. In a state that takes nothing more from it nothing else of the slot changes; a FAULT in a
payload-on state under NOTIFY also raises AGENT-FAULT unless the answer before it was FAULT (R19, R21).
READY in BOOTING with the blade reset released moves the slot to JOINING (R10): the declined flags and
attempts of its ports are cleared and each port that can be offered is OFFERED with its ADMIT on the
hub's link (R106); with no offer made and none standing the slot is IN-SERVICE (R107). In RESUMING the
answer ends the resumption: in IN-SERVICE with its fabric as it stood, in BOOTING with a fresh boot
limit, or with AGENT-FAULT raised and, under NOTIFY, in IN-SERVICE (R199), and the RESUMED notice comes
first (R201). The answer of a recovery probe makes the link UP, offers each port of the slot that can be
offered and hands LINK with detail RECOVERED, before the answer is taken (R122, R145). -/
def Obligations.ProbeAnswerTaken : Prop :=
  ∀ (s : State) (i : SlotId) (o : Outstanding) (f : List Byte) (r : Reply) (st : AgentState),
    Inv s → s.Live → (s.engine i).out = some o → o.msg = .probe → o.live = true →
    judgeReply .probe o.seq f = some r → AgentState.ofCode (byteAt r.payload 0) = some st →
    let x : Slot := { s.slot i with
      lastAgent := some st, lastCause := if st = .fault then byteAt r.payload 1 else 0,
      agentFault := decide (st = .fault) }
    let plain := (s.slot i).state ∉ [SlotState.booting, .quiescing, .stamping, .resuming]
    let noFault := st ≠ .fault ∨ (s.slot i).state.payloadOn = false ∨ (s.slot i).agentFault = true
    (plain → noFault → o.recovery = false →
      ∃ t, exec (.frameArrival i f) s = .next t ∧ (t.slot i).Like x
      ∧ OtherSlots i s t ∧ CellsKept s t ∧ t.alloc = s.alloc ∧ t.power = s.power
      ∧ t.ports = s.ports ∧ t.journal = s.journal ∧ OtherEngines i s t)
    ∧ (plain → st = .fault → (s.slot i).state.payloadOn = true → (s.slot i).agentFault = false →
      (s.slot i).policy.fault = .notify → o.recovery = false →
      ∃ t, exec (.frameArrival i f) s = .next t
      ∧ (t.slot i).Like { x with fault := some .agentFault, faultTime := s.time }
      ∧ OtherSlots i s t ∧ CellsKept s t ∧ t.alloc = s.alloc ∧ t.power = s.power
      ∧ t.ports = s.ports ∧ OtherEngines i s t)
    ∧ ((s.slot i).state = .booting → st = .ready → (s.pwr i).resetAsserted = false →
      o.recovery = false → s.Quiet → (∀ h, isHub h ≠ isHub i → (s.slot h).state ≠ .inService) →
      (∀ q, nodeSlot q = i ∨ hubSlot q = i → (s.portOf q).state = .isolated) →
      (s.slot i).latch = false → (∀ e, (s.slot i).orders = [e] → e.kind = .admitBlade) →
      ((s.slot i).orders = [] ∨ (s.slot i).active = true ∧ (s.slot i).orders.length = 1) →
      (isHub i = true → (s.slot (otherHub i)).latch = false) →
      ∃ t, exec (.frameArrival i f) s = .next t
      ∧ (t.slot i).state = .inService ∧ (t.slot i).prev = .joining ∧ (t.slot i).orders = []
      ∧ (∀ e, (s.slot i).orders = [e] → t.cell e.cell = .finished
        ∧ t.rd8 e.cell 0x1C = OrderOutcome.done.code)
      ∧ OtherSlots i s t ∧ t.alloc = s.alloc ∧ t.power = s.power)
    ∧ ((s.slot i).state = .booting → st = .ready → (s.pwr i).resetAsserted = false →
      o.recovery = false →
      let partner := fun (q : PortId) => if nodeSlot q = i then hubSlot q else nodeSlot q
      let mine := fun (q : PortId) => nodeSlot q = i ∨ hubSlot q = i
      let offered := fun (q : PortId) => mine q ∧ (s.portOf q).state = .isolated
        ∧ ((s.slot (partner q)).state = .joining ∨ (s.slot (partner q)).state = .inService)
        ∧ s.linkUp (nodeSlot q) = true ∧ s.linkUp (hubSlot q) = true
      (∃ q, offered q) →
      (∀ q, mine q → ¬ offered q →
        (s.slot (partner q)).state ≠ .joining ∧ (s.slot (partner q)).state ≠ .leaving) →
      ∃ t, exec (.frameArrival i f) s = .next t
      ∧ (t.slot i).state = .joining ∧ (t.slot i).prev = .booting ∧ (t.slot i).entry = s.time
      ∧ (t.slot i).gen = nextGeneration (s.slot i).gen ∧ (t.slot i).boot = none
      ∧ (t.slot i).orders = (s.slot i).orders ∧ (t.slot i).active = (s.slot i).active
      ∧ (∀ q, (offered q → t.portOf q = ⟨.offered, false, 1, some (after s.time 2000), false⟩
          ∧ (t.engine (hubSlot q)).Carries (.admitNode q.node))
        ∧ (mine q → ¬ offered q → t.portOf q = { s.portOf q with declined := false, attempts := 0 })
        ∧ (¬ mine q → t.portOf q = s.portOf q))
      ∧ OtherSlots i s t ∧ CellsKept s t ∧ t.alloc = s.alloc ∧ t.power = s.power)
    ∧ ((s.slot i).state = .resuming → o.recovery = false → s.Quiet → (s.slot i).Idle →
      (isHub i = true → (s.slot (otherHub i)).latch = false) →
      (st = .fault → (s.slot i).policy.fault = .notify) →
      let boots := st = .standby ∨ st = .booting ∨ st ≠ .fault ∧ (s.pwr i).resetHold ≠ none
      let hint := (s.slot i).ident.bootHint.toNat
      ∃ t, exec (.frameArrival i f) s = .next t
      ∧ (t.slot i).prev = .resuming ∧ (t.slot i).entry = s.time
      ∧ (t.slot i).gen = nextGeneration (s.slot i).gen ∧ (t.slot i).lastAgent = some st
      ∧ (boots → (t.slot i).state = .booting ∧ t.ports = s.ports
        ∧ (t.slot i).boot = some (after s.time (1000 * if hint = 0 then 90 else hint)))
      ∧ (¬ boots → (t.slot i).state = .inService ∧ (t.slot i).boot = none)
      ∧ (if st = .fault then (t.slot i).fault = some .agentFault ∧ (t.slot i).faultTime = s.time
        else (t.slot i).fault = (s.slot i).fault ∧ (t.slot i).faultTime = (s.slot i).faultTime)
      ∧ (s.port.run = true → s.journal.full = false → s.journal.gapPending = false →
        (t.journal.entries[(entryOf s.journal.writeCount).val]'(entryOf s.journal.writeCount).isLt)
          = some (slotNotice s i (.resumed (if st = .fault then .agentFault
            else if boots then .booting else .service)) none))
      ∧ (∀ q, (s.portOf q).state ≠ .isolated ∨ nodeSlot q ≠ i ∧ hubSlot q ≠ i →
        t.portOf q = s.portOf q)
      ∧ OtherSlots i s t ∧ CellsKept s t ∧ t.alloc = s.alloc ∧ t.power = s.power)
    ∧ (plain → noFault → o.recovery = true → (s.engine i).link = .lost →
      ∃ t, exec (.frameArrival i f) s = .next t ∧ (t.slot i).Like x
      ∧ t.linkUp i = true ∧ (t.engine i).recovery = none
      ∧ (∀ q, t.portOf q =
        if (nodeSlot q = i ∨ hubSlot q = i) ∧ (s.portOf q).state = .isolated
          ∧ (s.portOf q).declined = false ∧ s.bothOffering q = true
          ∧ s.linkUp (if nodeSlot q = i then hubSlot q else nodeSlot q) = true
        then ⟨.offered, false, min 255 ((s.portOf q).attempts + 1), some (after s.time 2000), false⟩
        else s.portOf q)
      ∧ (∀ q, t.portOf q ≠ s.portOf q → (t.engine (hubSlot q)).Carries (.admitNode q.node))
      ∧ (s.port.run = true → s.journal.full = false → s.journal.gapPending = false →
        t.journal.writeCount = s.journal.writeCount + 1
        ∧ (t.journal.entries[(entryOf s.journal.writeCount).val]'(entryOf s.journal.writeCount).isLt)
          = some (slotNotice s i (.link true) (s.activeTag i)))
      ∧ OtherSlots i s t ∧ CellsKept s t ∧ t.alloc = s.alloc ∧ t.power = s.power)

/-- The third failed attempt loses the link (R128, R143). In PARKED, with no page read under way, the
link is LOST, its queue and request are gone, and the recovery deadline stands 1000 ms on; the slot
stays PARKED. In IN-SERVICE under NOTIFY, LINK-LOST is also raised in the fault field (R19, R21). The
ports of the slot, where no move of one ends a join or leave: of a node (R120), an OFFERED port whose
ADMIT is still queued is ISOLATED and its ADMIT removed, an OPENING or CLOSING port is WITHDRAWING with
WITHDRAW on the hub's link, or ISOLATED when that link is not UP (R112, R114); of a hub (R121), an
OFFERED port is ISOLATED and declined and a WITHDRAWING port ISOLATED; every other port stands. Each
port moved hands a PORT notice LINK. -/
def Obligations.ThirdFailureLosesLink : Prop :=
  ∀ (s : State) (i : SlotId) (o : Outstanding), Inv s → s.Live →
    (s.engine i).link = .up → (s.engine i).out = some o → reached s.time o.deadline = true →
    o.live = true → o.msg.isNotification = false → o.recovery = false → 3 ≤ o.attempt →
    (s.slot i).read = none →
    ((s.slot i).state = .parked ∨ (s.slot i).state = .inService
      ∧ (s.slot i).policy.fault = .notify) →
    let asked := fun (p : PortId) =>
      (s.engine (hubSlot p)).queued fun m => decide (m = .admitNode p.node)
    let resolved := fun (p : PortId) =>
      let x := s.portOf p
      let isolated := fun (d : Bool) => (⟨.isolated, d, x.attempts, none, false⟩ : Port)
      if hubSlot p = i then
        if x.state = .offered then isolated true
        else if x.state = .withdrawing then isolated x.declined else x
      else if nodeSlot p = i then
        if x.state = .offered then if asked p then isolated x.declined else x
        else if x.state = .opening ∨ x.state = .closing then
          if s.linkUp (hubSlot p) then { x with
            state := .withdrawing
            deadline := if x.state = .closing then x.deadline
              else some (after s.time s.settings.drainLimit) }
          else isolated x.declined
        else x
      else x
    (∀ p, resolved p ≠ s.portOf p → s.KeepsCourse p) →
    ∃ t, exec (.replyDeadlineExpiry i) s = .next t
    ∧ t.engine i = { s.engine i with
        link := .lost, queue := [], out := none, recovery := some (after s.time 1000) }
    ∧ (t.slot i).Like (if (s.slot i).state = .inService
      then { s.slot i with fault := some .linkLost, faultTime := s.time } else s.slot i)
    ∧ (∀ p, t.portOf p = resolved p)
    ∧ (∀ p, (resolved p).state = .withdrawing → (s.portOf p).state ≠ .withdrawing → asked p = false →
      (t.engine (hubSlot p)).Carries (.withdraw p.node))
    ∧ (∀ p, (s.portOf p).state = .offered → nodeSlot p = i →
      (t.engine (hubSlot p)).queued (fun m => decide (m = .admitNode p.node)) = false)
    ∧ (s.port.run = true → s.journal.gapPending = false →
      (s.journal.writeCount - s.journal.readCount).toNat ≤ 112 →
      ∀ p, resolved p ≠ s.portOf p → ∃ k : Nat, k < 14 ∧
        let place := entryOf (s.journal.writeCount + BitVec.ofNat 16 k)
        (t.journal.entries[place.val]'place.isLt)
          = some (slotNotice s (nodeSlot p) (.port .link p.hub (resolved p).state) none))
    ∧ OtherSlots i s t ∧ CellsKept s t ∧ t.alloc = s.alloc ∧ t.power = s.power
    ∧ (∀ j, j ≠ i → isHub j = false ∨ isHub i = true → t.engine j = s.engine j)

/-- What sets a link to work. NOT_BEFORE_EXPIRY sends the first ready message of a free line as a new
request, with the engine's next sequence and a reply deadline of 25 ms (R128, R129, R132).
POLL_DEADLINE_EXPIRY asks for a PROBE and sets the next poll deadline by the state's interval, 500 or
5000 ms or none (R139). ALERT, when it becomes asserted, asks for a PROBE (R138). A PROBE so asked
for joins the queue, placed by the engine (R130), when the link is UP and none is queued or outstanding,
and is sent on a free line (R137). A message sent keeps its placer. RECOVERY_DEADLINE_EXPIRY of a LOST link sends a recovery probe on a free line and sets the
deadline again (R145). The model's own: a poll or recovery deadline that has not passed changes nothing
(log 2), and the next poll deadline is counted from the expiry (log 17). -/
def Obligations.EngineSends : Prop :=
  ∀ (s : State) (i : SlotId), s.Live →
    let probed := fun (e : Engine) => if e.link = .up ∧ e.probing = false
      then ({ e with queue := e.queue ++ [⟨.probe, .engine, none⟩] } : Engine).serve s.time else e
    exec (.notBeforeExpiry i) s = .next (s.modEngine i (Engine.serve s.time))
    ∧ (∀ e : Engine, e.link = .up → e.out = none → ∀ q before behind,
        e.queue = before ++ q :: behind → (∀ b ∈ before, b.ready s.time = false) →
        q.ready s.time = true → e.serve s.time = { e with
          queue := before ++ behind, nextSeq := e.nextSeq + 1,
          out := some ⟨q.msg, q.placer, e.nextSeq, 1, after s.time 25, true, false⟩ })
    ∧ (∀ e : Engine, (e.link ≠ .up ∨ e.out ≠ none ∨ ∀ b ∈ e.queue, b.ready s.time = false) →
        e.serve s.time = e)
    ∧ exec (.pollDeadlineExpiry i) s = .next (if due s.time (s.engine i).poll
        then s.modEngine i fun e => { probed e with
          poll := match (s.slot i).state with
            | .booting | .quiescing => some (after s.time 500)
            | .parked | .joining | .inService | .leaving => some (after s.time 5000)
            | _ => none }
        else s)
    ∧ exec (.alert i true) s =
      .next ((s.modPins i fun x => { x with alert := true }).modEngine i probed)
    ∧ exec (.alert i false) s = .next (s.modPins i fun x => { x with alert := false })
    ∧ exec (.recoveryDeadlineExpiry i) s =
      .next (if (s.engine i).link = .lost ∧ due s.time (s.engine i).recovery = true
        then s.modEngine i fun e =>
          { (if e.out = none then ({ e with
                nextSeq := e.nextSeq + 1
                out := some ⟨.probe, .engine, e.nextSeq, 1, after s.time 25, true, true⟩ } : Engine)
              else e) with
            recovery := some (after s.time 1000) }
        else s)

/-! ### Resets -/

/-- POWER_ON_RESET (R190, R191) from any state: the queue of commands stands (log 30), the shelf time is
0, the cause is POWER-ON, and every block is as the initialization leaves it, but that each slot whose
first samples give presence BOTH has taken its arrival: it is SEATING with generation 2, its record
written once (log 6), its settle deadline 200 ms on, and its notice folded into the gap mask, RUN being
clear (R169). With the RESET line asserted across the reset the part is held and takes no first sample
(R193; log 20). -/
def Obligations.PowerOnReset : Prop :=
  ∀ (s : State) (b : BoardInputs),
    let seated := fun (i : SlotId) => !b.resetAsserted && (b.slots[i]).long && (b.slots[i]).short
    ∃ t, exec (.powerOnReset b) s = .next t
    ∧ t.pending = s.pending ∧ t.time = 0 ∧ t.held = b.resetAsserted
    ∧ t.resetLine = (if b.resetAsserted then some 0 else none) ∧ t.straps = b.straps
    ∧ t.pins = b.slots ∧ t.feedALow = b.feedALow ∧ t.feedBLow = b.feedBLow ∧ t.debounceFrom = DebounceTimes.all 0
    ∧ t.port = ⟨false, false, 0, 0, .powerOn, b.messageEnable, 0⟩ ∧ t.noticePin = false
    ∧ t.mem = [] ∧ t.pointer = 0 ∧ (∀ c, t.cell c = .free)
    ∧ t.shelfRevision = BitVec.ofNat 16 (allSlots.countP seated)
    ∧ t.journal.writeCount = 0 ∧ t.journal.readCount = 0
    ∧ (∀ k : Fin 128, t.journal.entries[k] = none)
    ∧ t.journal.gapMask.getLsbD 0 = false
    ∧ (∀ i : SlotId, t.journal.gapMask.getLsbD (i.val + 1) = seated i)
    ∧ t.journal.gapPending = allSlots.any seated
    ∧ t.alloc.capacity = 800 * (b.straps.budgetCode.toNat + 1) ∧ t.alloc.hubReserve = 0
    ∧ t.alloc.granted = 0 ∧ (∀ i : SlotId, t.alloc.claims[i] = 0) ∧ t.alloc.queue = []
    ∧ t.alloc.reexam = none ∧ t.alloc.shelf = [] ∧ t.alloc.ramping = []
    ∧ t.alloc.feedALost = false ∧ t.alloc.feedBLost = false
    ∧ t.settings = ⟨40, 500, 4, 3000, 1500, 5000, 10000⟩ ∧ t.history = []
    ∧ (∀ i, t.pwr i = ⟨false, true, none, none, none, none, 0, 0, none, none⟩)
    ∧ (∀ p, t.portOf p = ⟨.isolated, false, 0, none, false⟩)
    ∧ (∀ i, t.engine i = ⟨.absent, 0, [], none, none, none⟩)
    ∧ t.Ready
    ∧ ∀ i : SlotId, (t.slot i).state = (if seated i then .seating else .vacant)
      ∧ (t.slot i).prev = .vacant ∧ (t.slot i).entry = 0
      ∧ (t.slot i).gen = (if seated i then 2 else 1) ∧ (t.slot i).upd = (if seated i then 1 else 0)
      ∧ (t.slot i).settle = (if seated i then some 200 else none)
      ∧ (t.slot i).policy = ⟨b.straps.handleDefault, b.straps.faultDefault, false⟩
      ∧ (t.slot i).long = (!b.resetAsserted && (b.slots[i]).long)
      ∧ (t.slot i).short = (!b.resetAsserted && (b.slots[i]).short)
      ∧ (t.slot i).handleOpen = (!b.resetAsserted && (b.slots[i]).handleOpen)
      ∧ (t.slot i).Idle ∧ (t.slot i).hold = false ∧ (t.slot i).idStatus = .none
      ∧ (t.slot i).idReason = .none ∧ (t.slot i).ident = Identity.zero ∧ (t.slot i).claim = 0
      ∧ (t.slot i).waitReason = none ∧ (t.slot i).queuePos = 0 ∧ (t.slot i).fault = none
      ∧ (t.slot i).faultTime = 0 ∧ (t.slot i).lastAgent = none ∧ (t.slot i).lastCause = 0
      ∧ (t.slot i).nextRow = 0 ∧ (t.slot i).nextSeq = 0 ∧ (t.slot i).lastStamp = none
      ∧ (t.slot i).admissions = 0 ∧ (t.slot i).minutes = 0 ∧ (t.slot i).retire = none
      ∧ (t.slot i).survey = none ∧ (t.slot i).read = none ∧ (t.slot i).stamp = none
      ∧ (t.slot i).boot = none ∧ (t.slot i).quiesce = none

/-- RESTART and RESET_LINE_RELEASE make a warm restart (R194 to R198). CONTROL, ATTENTION-ENABLE and the
pointer are 0, the cause is shown, RESTARTED is latched; queue, shelf order list and ramping set are
empty; capacity, hub reserve, settings and shelf time are kept. A RECENT reference is kept, its horizon
60000 ms from its kept time, or is CLEAR once 60000 ms have passed since; a RAMPING slot found with power
good records a power good, a payload-on slot found without a power-off (R94, R97). The journal keeps its entries and
counts, and the notices of the slots that move are folded (R174). Each slot's list is empty, and each
cell that stood on one list finishes ABANDONED, with the state and generation of the slot after the
restart's moves; the other cells are as they were (R59, R195). A VACANT slot takes its first sample, of the raw levels at that moment, and
every other debounce runs from the restart (R76, R197; at a RESTART write the model's choice, log 18); a
SEATING slot passes through VACANT, cleared, and takes it; a SURVEYING slot begins its survey afresh; a
PARKED or FAULTED slot stays; one in AWAIT-POWER is PARKED (R196). A payload-on slot with its switch ON
and power good is RESUMING with its claim and a PROBE asked for; a payload-on slot without is FAULTED
with POWER-LOST, its switch OFF and its claim returned; a slot found RESUMING does the same without the
first move (R198). A port is OPEN when its gate was open and both its slots resume, else ISOLATED; its
declined flag and attempts are kept, but that a SEATING slot's entry to VACANT clears them (R106, R124).
The model's own: that a debounce under way at a RESTART write begins anew from it (DESIGN CHOICE, log 18),
a SEATING slot's whole clearing, its HOLD, latch and fault and its ports' declined flags and attempts
(log 34), and the state an ABANDONED cell shows, the slot's after the restart's moves and before the
checks of R198 and the first samples (log 19). -/
def Obligations.WarmRestart : Prop :=
  ∀ (s : State) (c : Instr) (cause : ResetCause), Inv s → s.Ready →
    (c = .restart ∧ s.held = false ∧ cause = .restartBit
      ∨ c = .resetLineRelease ∧ s.held = true ∧ cause = .resetLine) →
    ∃ t, exec c s = .next t
    ∧ t.held = false ∧ t.resetLine = (if c = .restart then s.resetLine else none)
    ∧ t.port.run = false ∧ t.port.noticeEnable = false ∧ t.port.enable = 0
    ∧ t.port.cause = cause ∧ t.pointer = 0
    ∧ t.port.attention &&& Attention.restarted.mask = Attention.restarted.mask
    ∧ t.time = s.time ∧ t.straps = s.straps ∧ t.pending = s.pending
    ∧ t.pins = s.pins ∧ t.feedALow = s.feedALow ∧ t.feedBLow = s.feedBLow
    ∧ t.debounceFrom = DebounceTimes.all s.time ∧ t.alloc.feedALost = s.alloc.feedALost
    ∧ t.alloc.feedBLost = s.alloc.feedBLost
    ∧ t.alloc.capacity = s.alloc.capacity ∧ t.alloc.hubReserve = s.alloc.hubReserve
    ∧ t.alloc.queue = [] ∧ t.alloc.shelf = [] ∧ t.alloc.ramping = [] ∧ t.settings = s.settings
    ∧ (∀ i, let p := s.pwr i
      let good := p.switchOn && (s.pinsOf i).powerGood
      let kept := fun (ref : Option Time) (time : Time) =>
        if ref = none ∨ 60000 ≤ (s.time - time).toNat then none else some (after time 60000)
      (t.pwr i).onRef = (if good = true ∧ (s.slot i).state = .ramping then some (after s.time 60000)
        else kept p.onRef p.goodTime)
      ∧ (t.pwr i).offRef = (if (s.slot i).state.payloadOn = true ∧ good = false
        then some (after s.time 60000) else kept p.offRef p.offTime))
    ∧ t.journal.entries = s.journal.entries ∧ t.journal.writeCount = s.journal.writeCount
    ∧ t.journal.readCount = s.journal.readCount
    ∧ (∀ k, s.journal.gapMask.getLsbD k = true → t.journal.gapMask.getLsbD k = true)
    ∧ (∀ i, (t.slot i).gen ≠ (s.slot i).gen →
      t.journal.gapMask.getLsbD (i.val + 1) = true ∧ t.journal.gapPending = true)
    ∧ (∀ i, ∀ e ∈ (s.slot i).orders, (∀ d ∈ s.alloc.shelf, d.cell ≠ e.cell) →
      (∀ j, ∀ d ∈ (s.slot j).orders, d.cell = e.cell → j = i) →
      let moved : SlotState := if (s.slot i).state.payloadOn then .resuming
        else if (s.slot i).state = .seating then .vacant
        else if (s.slot i).state = .awaitPower then .parked else (s.slot i).state
      t.cell e.cell = .finished ∧ t.rd8 e.cell 0x1C = OrderOutcome.abandoned.code
      ∧ t.rd8 e.cell 0x1E = moved.code
      ∧ t.rd16 e.cell 0x28 = (if moved = (s.slot i).state then (s.slot i).gen
        else nextGeneration (s.slot i).gen)
      ∧ t.port.attention &&& Attention.orderDone.mask = Attention.orderDone.mask)
    ∧ (∀ e ∈ s.alloc.shelf, (∀ j, ∀ d ∈ (s.slot j).orders, d.cell ≠ e.cell) →
      t.cell e.cell = .finished ∧ t.rd8 e.cell 0x1C = OrderOutcome.abandoned.code
      ∧ t.rd8 e.cell 0x1E = 0xFF ∧ t.rd16 e.cell 0x28 = 0
      ∧ t.port.attention &&& Attention.orderDone.mask = Attention.orderDone.mask)
    ∧ (∀ c, (∀ d ∈ s.alloc.shelf, d.cell ≠ c) → (∀ j, ∀ d ∈ (s.slot j).orders, d.cell ≠ c) →
      t.cell c = s.cell c ∧ ∀ a, cellOffset c ≤ a → a < cellOffset c + 128 →
        Memory.read t.mem a = Memory.read s.mem a)
    ∧ (let resumes := fun (i : SlotId) => (s.slot i).state.payloadOn && (s.pwr i).switchOn
        && (s.pinsOf i).powerGood
      ∀ p, let kept := (s.portOf p).gate && resumes (nodeSlot p) && resumes (hubSlot p)
        let cleared := (s.slot (nodeSlot p)).state = .seating ∨ (s.slot (hubSlot p)).state = .seating
        t.portOf p = ⟨if kept then .opened else .isolated,
          if cleared then false else (s.portOf p).declined,
          if cleared then 0 else (s.portOf p).attempts, none, kept⟩)
    ∧ ∀ i, (t.slot i).orders = [] ∧ (t.slot i).active = false
      ∧ (t.slot i).policy = (s.slot i).policy
      ∧ (t.engine i).link = (if (s.slot i).state = .vacant ∨ (s.slot i).state = .seating
          then .absent else .up)
      ∧ ((s.slot i).state = .vacant ∨ (s.slot i).state = .seating →
        let seated := (s.pinsOf i).long && (s.pinsOf i).short
        let gen := if (s.slot i).state = .vacant then (s.slot i).gen
          else nextGeneration (s.slot i).gen
        (t.slot i).state = (if seated then .seating else .vacant)
        ∧ (t.slot i).gen = (if seated then nextGeneration gen else gen)
        ∧ (t.slot i).settle = (if seated then some (after s.time 200) else none)
        ∧ (t.slot i).long = (s.pinsOf i).long ∧ (t.slot i).short = (s.pinsOf i).short
        ∧ (t.slot i).handleOpen = (s.pinsOf i).handleOpen
        ∧ ((s.slot i).state = .seating → (t.slot i).prev = (if seated then .vacant else .seating)
          ∧ (t.slot i).hold = false ∧ (t.slot i).latch = false ∧ (t.slot i).fault = none
          ∧ (t.slot i).idStatus = .none ∧ (t.slot i).ident = Identity.zero))
      ∧ ((s.slot i).state = .surveying →
        (t.slot i).state = .surveying ∧ (t.slot i).prev = (s.slot i).prev
        ∧ (t.slot i).gen = (s.slot i).gen ∧ (t.slot i).idStatus = .none
        ∧ (t.slot i).ident = Identity.zero ∧ (t.slot i).survey = some ⟨.page0, none, []⟩
        ∧ (t.engine i).Carries (.identPage 0))
      ∧ ((s.slot i).state = .resuming →
        ((s.pwr i).switchOn = true → (s.pinsOf i).powerGood = true →
          (t.slot i).state = .resuming ∧ (t.slot i).prev = (s.slot i).prev
          ∧ (t.slot i).gen = (s.slot i).gen ∧ (t.slot i).claim = (s.slot i).claim
          ∧ (t.pwr i).switchOn = true ∧ (t.engine i).Carries .probe)
        ∧ ((s.pwr i).switchOn = false ∨ (s.pinsOf i).powerGood = false →
          (t.slot i).state = .faulted ∧ (t.slot i).prev = .resuming
          ∧ (t.slot i).gen = nextGeneration (s.slot i).gen
          ∧ (t.slot i).fault = some .powerLost ∧ (t.slot i).faultTime = s.time
          ∧ (t.slot i).claim = 0 ∧ t.alloc.claims[i] = 0 ∧ (t.pwr i).switchOn = false))
      ∧ ((s.slot i).state = .parked ∨ (s.slot i).state = .faulted →
          (t.slot i).state = (s.slot i).state ∧ (t.slot i).gen = (s.slot i).gen)
      ∧ ((s.slot i).state = .awaitPower → (t.slot i).state = .parked
          ∧ (t.slot i).gen = nextGeneration (s.slot i).gen ∧ (t.slot i).waitReason = none)
      ∧ ((s.slot i).state.payloadOn = true → (s.slot i).state ≠ .resuming →
        ((s.pwr i).switchOn = true → (s.pinsOf i).powerGood = true →
          (t.slot i).state = .resuming ∧ (t.slot i).prev = (s.slot i).state
          ∧ (t.slot i).gen = nextGeneration (s.slot i).gen
          ∧ (t.slot i).claim = (s.slot i).claim ∧ t.alloc.claims[i] = s.alloc.claims[i]
          ∧ (t.pwr i).switchOn = true ∧ (t.engine i).Carries .probe)
        ∧ ((s.pwr i).switchOn = false ∨ (s.pinsOf i).powerGood = false →
          (t.slot i).state = .faulted ∧ (t.slot i).prev = .resuming
          ∧ (t.slot i).gen = nextGeneration (nextGeneration (s.slot i).gen)
          ∧ (t.slot i).fault = some .powerLost ∧ (t.slot i).faultTime = s.time
          ∧ (t.slot i).claim = 0 ∧ t.alloc.claims[i] = 0 ∧ (t.pwr i).switchOn = false))

/-! ### Rules of single functions -/

/-- A claim fits (R61): a hub's when it is no greater than the capacity less the granted total, a node's
when it is no greater than that less the hub reserve the hubs do not yet hold, 0 if negative; when that
room is negative no node claim fits. Queued claims count in neither sum. -/
def Obligations.ClaimFits : Prop :=
  ∀ (a : Allocator) (i : SlotId) (claim : Nat),
    let reserve : Int := max ((a.hubReserve : Int) - ((a.claims[14] : Int) + (a.claims[15] : Int))) 0
    (a.fits i claim = true ↔
      (claim : Int) ≤ (a.capacity : Int) - a.granted - (if 14 ≤ i.val then 0 else reserve))
    ∧ ∀ q, ({ a with queue := q } : Allocator).fits i claim = a.fits i claim

/-- The queue is kept in its order (R64): hubs before nodes, then the lower urgency, then the earlier
arrival. An entry that joins an ordered queue, having arrived no earlier than the entries there, leaves
the queue ordered, itself inside it, the others in the order they had. An entry that leaves closes its
place, the others keeping their order. -/
def Obligations.QueueKeptInOrder : Prop :=
  ∀ (e : QueueEntry) (q : List QueueEntry),
    let ordered := fun (a b : QueueEntry) =>
      b.before a = false ∧ (a.before b = false → reached b.arrival a.arrival = true)
    q.Pairwise ordered → (∀ a ∈ q, reached e.arrival a.arrival = true) →
    (insertEntry e q).Pairwise ordered
    ∧ ∃ ahead behind, q = ahead ++ behind ∧ insertEntry e q = ahead ++ e :: behind
      ∧ (∀ a ∈ ahead, e.before a = false) ∧ (∀ b ∈ behind.head?, e.before b = true)
      ∧ ∀ (s : State) (i : SlotId), (removeEntry i s).alloc.queue =
        s.alloc.queue.filter fun e => !decide (e.slot = i)

/-- The judgement of page 0 (R150): the four tests in their order. The survey keeps it, reads pages 6
and 7 whatever it is, and makes it the identity status when page 7 has been returned. -/
def Obligations.Page0Judged : Prop :=
  (∀ page : List Byte,
    (byteSum page ≠ 0 → judgePage page = .check)
    ∧ (byteSum page = 0 → byteAt page 0 ≠ 1 → judgePage page = .format)
    ∧ (byteSum page = 0 → byteAt page 0 = 1 → byteAt page 1 ≠ 1 → byteAt page 1 ≠ 2 →
      judgePage page = .kind)
    ∧ (byteSum page = 0 → byteAt page 0 = 1 → byteAt page 1 = 1 ∨ byteAt page 1 = 2 →
      judgePage page =
        if 1 ≤ (ofBytes16 (byteAt page 4) (byteAt page 5)).toNat
          ∧ (ofBytes16 (byteAt page 4) (byteAt page 5)).toNat ≤ 600 ∧ (byteAt page 6).toNat ≤ 3
        then .none else .range))
  ∧ ∀ (s : State) (i : SlotId) (v : Survey) (page : List Byte), s.linkUp i = true →
    (v.step = .page0 → ((surveyPage i v page s).slot i).survey = some ⟨.page6, some (judgePage page), []⟩
      ∧ ((surveyPage i v page s).slot i).ident = identityOf page
      ∧ ((surveyPage i v page s).engine i).Carries (.identPage 6))
    ∧ (v.step = .page6 → ((surveyPage i v page s).slot i).survey = some ⟨.page7, v.judgement, page⟩
      ∧ ((surveyPage i v page s).engine i).Carries (.identPage 7))
    ∧ ∀ r, v.step = .page7 → v.judgement = some r →
      ((surveyPage i v page s).slot i).state = .parked
      ∧ ((surveyPage i v page s).slot i).idReason = r
      ∧ ((surveyPage i v page s).slot i).idStatus = if r = .none then .valid else .invalid

/-- The row pointers after page 7 (R154): the newest valid row is the candidate after the eight rows,
the first valid row being the first candidate and each later valid row replacing it when its sequence
less the candidate's, modulo 256, is 1 to 127; the pointers are the row and the sequence after it,
modulo 8 and 256; with no valid row they are 0 and 1. A row is valid when its sum is 0 and its slot
field is 1 to 16 (R153), and the eight rows are those of pages 6 and 7, row 0 first (R148). -/
def Obligations.RowPointersFollowNewest : Prop :=
  (∀ rows : List (List Byte), (∀ r ∈ rows, rowValid r = false) → rowPointers rows = (0, 1))
  ∧ (∀ rows, rows.length = 8 → (∃ r ∈ rows, rowValid r = true) →
    ∃ k, k < 8 ∧ rowValid (rows.getD k []) = true
    ∧ rowPointers rows = (Fin.ofNat 8 (k + 1), byteAt (rows.getD k []) 0 + 1)
    ∧ (newestRow 0 none rows).map Prod.fst = some k)
  ∧ (∀ k best row rows, rowValid row = false →
    newestRow k best (row :: rows) = newestRow (k + 1) best rows)
  ∧ (∀ k row rows, rowValid row = true →
    newestRow k none (row :: rows) = newestRow (k + 1) (some (k, byteAt row 0)) rows)
  ∧ (∀ k b (q : Byte) row rows, rowValid row = true → newestRow k (some (b, q)) (row :: rows) =
    if 1 ≤ (byteAt row 0 - q).toNat ∧ (byteAt row 0 - q).toNat ≤ 127
    then newestRow (k + 1) (some (k, byteAt row 0)) rows else newestRow (k + 1) (some (b, q)) rows)
  ∧ (∀ row, rowValid row = true ↔
    byteSum row = 0 ∧ 1 ≤ (byteAt row 2).toNat ∧ (byteAt row 2).toNat ≤ 16)
  ∧ ∀ (s : State) (i : SlotId) (v : Survey) (page : List Byte), v.step = .page7 →
    (((surveyPage i v page s).slot i).nextRow, ((surveyPage i v page s).slot i).nextSeq)
      = rowPointers (rowsOf v.page6 page)
    ∧ ∀ r : Fin 8, (rowsOf v.page6 page).getD r.val [] =
      ((if r.val < 4 then v.page6 else page).drop (8 * (r.val % 4))).take 8

/-- Check bytes (R204): the bytes of a service row and of a request frame, the check byte included, sum
to 0 modulo 256, the check byte being 256 less the sum of the others, or 0 when that is 0; a page 0, a
row and a reply whose bytes do not sum to 0 fail their test. -/
def Obligations.CheckBytes : Prop :=
  (∀ bs : List Byte, (checkByte bs).toNat = (256 - (bs.map BitVec.toNat).sum % 256) % 256
    ∧ byteSum (bs ++ [checkByte bs]) = 0)
  ∧ (∀ q sh i r m a, byteSum (serviceRow q sh i r m a) = 0 ∧ (serviceRow q sh i r m a).length = 8)
  ∧ (∀ m q, byteSum (requestFrame m q) = 0)
  ∧ (∀ page, byteSum page ≠ 0 → judgePage page = .check)
  ∧ (∀ row, byteSum row ≠ 0 → rowValid row = false)
  ∧ ∀ m q f, byteSum f ≠ 0 → judgeReply m q f = none
end

