-- ==== Sys2Proof/Laws/Checks.lean ====
section
/-! SUPPORT. The conditions of the statements as conditions Lean can evaluate on a given state: each
lemma says that a condition holds exactly when its evaluated form does. -/

namespace Sys2Proof.Machine

/-- A statement about every port is one about every node and hub. -/
theorem forall_ports {P : PortId → Prop} :
    (∀ p, P p) ↔ ∀ (n : NodeId) (h : HubId), P ⟨n, h⟩ :=
  ⟨fun h n k => h ⟨n, k⟩, fun h p => h p.node p.hub⟩

/-- A parameter lies in its range exactly when it lies between the range's two ends. -/
theorem inRange_iff (lo hi n : Nat) : inRange lo hi n = true ↔ lo ≤ n ∧ n ≤ hi := by
  simp [inRange]

/-- A statement about the one entry of a list. -/
theorem forall_single {α : Type} {l : List α} {P : α → Prop} :
    (∀ e, l = [e] → P e) ↔ (l.length = 1 → ∀ e ∈ l, P e) := by
  constructor
  · intro h hl e he
    obtain ⟨x, rfl⟩ := List.length_eq_one_iff.mp hl
    rw [List.mem_singleton] at he
    exact he ▸ h x rfl
  · rintro h e rfl
    exact h rfl e (List.mem_singleton_self e)

/-- The evaluated form of `Slot.Lawful`. -/
def lawfulSlot (x : Slot) : Bool := decide
    (x.gen ≠ 0 ∧ x.orders.length ≤ 4 ∧ (x.active = true → x.orders ≠ []) ∧ x.admissions ≤ 255
    ∧ x.minutes ≤ 65535 ∧ (x.settle.isSome = true → x.state = .seating)
    ∧ (x.boot.isSome = true → x.state = .booting) ∧ (x.quiesce.isSome = true → x.state = .quiescing)
    ∧ (x.survey.isSome = true → x.state = .surveying)
    ∧ (x.stamp.isSome = true → x.state = .stamping) ∧ x.blink.isSome = x.state.blinking)

theorem lawful_slot_iff (x : Slot) : x.Lawful ↔ lawfulSlot x = true := by
  unfold lawfulSlot
  rw [decide_eq_true_eq]
  exact ⟨fun h => ⟨h.gen, h.orders, h.active, h.admissions, h.minutes, h.settle, h.boot, h.quiesce, h.survey,
    h.stamp, h.blink⟩, fun ⟨a, b, c, d, e, f, g, i, j, k, l⟩ => ⟨a, b, c, d, e, f, g, i, j, k, l⟩⟩

/-- The evaluated form of `Port.Lawful`. -/
def lawfulPort (x : Port) : Bool := decide
    (x.attempts ≤ 255 ∧ (x.state = .isolated → x.gate = false ∧ x.deadline = none)
    ∧ (x.state = .offered → x.gate = false ∧ x.deadline ≠ none)
    ∧ (x.state = .opening → x.gate = true ∧ x.deadline = none)
    ∧ (x.state = .opened → x.gate = true ∧ x.deadline = none)
    ∧ (x.state = .closing → x.gate = true ∧ x.deadline ≠ none)
    ∧ (x.state = .withdrawing → x.deadline ≠ none))

theorem lawful_port_iff (x : Port) : x.Lawful ↔ lawfulPort x = true := by
  unfold lawfulPort
  rw [decide_eq_true_eq]
  exact ⟨fun h => ⟨h.attempts, h.isolated, h.offered, h.opening, h.opened, h.closing, h.withdrawing⟩,
    fun ⟨a, b, c, d, e, f, g⟩ => ⟨a, b, c, d, e, f, g⟩⟩

/-- The evaluated form of `Power.Lawful`. -/
def lawfulPower (held : Bool) (p : Power) : Bool := decide
    ((p.switchOn = false → p.resetAsserted = true)
    ∧ (held = false → p.switchOn = false → p.rampLimit = none)
    ∧ (held = false → p.switchOn = false → p.resetHold = none)
    ∧ (held = false → p.switchOn = false → p.minute = none))

theorem lawful_power_iff (held : Bool) (p : Power) : p.Lawful held ↔ lawfulPower held p = true := by
  unfold lawfulPower
  rw [decide_eq_true_eq]
  exact ⟨fun h => ⟨h.reset, h.limit, h.hold, h.minute⟩, fun ⟨a, b, c, d⟩ => ⟨a, b, c, d⟩⟩

/-- The evaluated form of `Engine.Lawful`. -/
def lawfulEngine (e : Engine) : Bool := decide
    ((e.link ≠ .up → e.queue = []) ∧ (e.recovery ≠ none → e.link = .lost)
    ∧ (e.link = .absent → e.out = none)
    ∧ (e.link = .lost → e.out.all (·.recovery) = true)
    ∧ (∀ q ∈ e.queue, q.placer ∈ q.msg.placers)
    ∧ e.out.all (fun o => decide (o.placer ∈ o.msg.placers)) = true)

theorem lawful_engine_iff (e : Engine) : e.Lawful ↔ lawfulEngine e = true := by
  have key : e.out.all (·.recovery) = true ↔ ∀ o, e.out = some o → o.recovery = true := by
    cases e.out <;> simp
  have sent : e.out.all (fun o => decide (o.placer ∈ o.msg.placers)) = true ↔
      ∀ o, e.out = some o → o.placer ∈ o.msg.placers := by
    cases e.out <;> simp
  unfold lawfulEngine
  rw [decide_eq_true_eq]
  exact ⟨fun h => ⟨h.queue, h.recovery, h.absent, fun l => key.mpr (h.lost l), h.placed,
      sent.mpr h.sent⟩,
    fun ⟨a, b, c, d, p, q⟩ => ⟨a, b, c, fun l => key.mp (d l), p, sent.mp q⟩⟩

/-- The evaluated form of `Journal.Lawful`. -/
def lawfulJournal (j : Journal) : Bool := decide
    ((j.writeCount - j.readCount).toNat ≤ 128 ∧ (j.gapPending = true ↔ j.gapMask ≠ 0))

theorem lawful_journal_iff (j : Journal) : j.Lawful ↔ lawfulJournal j = true := by
  unfold lawfulJournal
  rw [decide_eq_true_eq]
  exact ⟨fun h => ⟨h.unread, h.gap⟩, fun ⟨a, b⟩ => ⟨a, b⟩⟩

/-- The evaluated form of `Allocator.Lawful`. -/
def lawfulAlloc (a : Allocator) : Bool := decide
    (a.granted = a.claims.toList.sum ∧ a.granted ≤ a.capacity ∧ a.shelf.length ≤ 4)

theorem lawful_alloc_iff (a : Allocator) : a.Lawful ↔ lawfulAlloc a = true := by
  unfold lawfulAlloc
  rw [decide_eq_true_eq]
  exact ⟨fun h => ⟨h.granted, h.capacity, h.shelf⟩, fun ⟨a, b, c⟩ => ⟨a, b, c⟩⟩

/-- The evaluated form of `Inv`. -/
def invHolds (s : State) : Bool :=
  Memory.wf s.mem && lawfulJournal s.journal && lawfulAlloc s.alloc && decide (s.history.length ≤ 4)
    && decide (∀ i, lawfulSlot (s.slot i) = true)
    && decide (∀ (n : NodeId) (h : HubId), lawfulPort (s.portOf ⟨n, h⟩) = true)
    && decide (∀ i, lawfulPower s.held (s.pwr i) = true)
    && decide (∀ i, lawfulEngine (s.engine i) = true)

theorem inv_iff (s : State) : Inv s ↔ invHolds s = true := by
  simp only [invHolds, Bool.and_eq_true, decide_eq_true_eq, ← lawful_journal_iff, ← lawful_alloc_iff,
    ← lawful_slot_iff, ← lawful_port_iff, ← lawful_power_iff, ← lawful_engine_iff,
    ← forall_ports (P := fun p => (s.portOf p).Lawful)]
  exact ⟨fun h => ⟨⟨⟨⟨⟨⟨⟨h.mem, h.journal⟩, h.alloc⟩, h.history⟩, h.slots⟩, h.ports⟩, h.power⟩, h.engines⟩,
    fun ⟨⟨⟨⟨⟨⟨⟨a, b⟩, c⟩, d⟩, e⟩, f⟩, g⟩, i⟩ => ⟨a, b, c, d, e, f, g, i⟩⟩

theorem ready_iff (s : State) : s.Ready ↔ (s.work = [] ∧ s.late = [] ∧ s.shelfDirty = false
    ∧ s.changed = [] ∧ s.broughtBy = none) :=
  ⟨fun h => ⟨h.work, h.late, h.shelf, h.changed, h.broughtBy⟩,
    fun ⟨a, b, c, d, e⟩ => ⟨a, b, c, d, e⟩⟩

theorem live_iff (s : State) : s.Live ↔ (s.Ready ∧ s.held = false) :=
  ⟨fun h => ⟨h.toReady, h.held⟩, fun ⟨a, b⟩ => ⟨a, b⟩⟩

theorem quiet_iff (s : State) : s.Quiet ↔
    (s.alloc.queue = [] ∧ ∀ j, (s.slot j).state ≠ .joining ∧ (s.slot j).state ≠ .leaving) :=
  ⟨fun h => ⟨h.queue, h.slots⟩, fun ⟨a, b⟩ => ⟨a, b⟩⟩

theorem quietBut_iff (s : State) (i : SlotId) : s.QuietBut i ↔
    ((s.alloc.queue = [] ∨ (s.slot i).state = .awaitPower ∧ ∀ e ∈ s.alloc.queue, e.slot = i)
    ∧ s.alloc.timingAtFront = false
    ∧ ∀ j, j ≠ i → (s.slot j).state ≠ .joining ∧ (s.slot j).state ≠ .leaving) :=
  ⟨fun h => ⟨h.queue, h.timing, h.slots⟩, fun ⟨a, b, c⟩ => ⟨a, b, c⟩⟩

/-- The evaluated form of `State.KeepsCourse`. -/
def coursesKept (s : State) (p : PortId) : Bool :=
  [nodeSlot p, hubSlot p].all fun i =>
    (decide ((s.slot i).state ≠ .joining) || (slotPorts i).any fun q => decide (q ≠ p
      ∧ ((s.portOf q).state = .offered ∨ (s.portOf q).state = .opening)))
    && (decide ((s.slot i).state ≠ .leaving)
      || (slotPorts i).any fun q => decide (q ≠ p ∧ (s.portOf q).state ≠ .isolated))

theorem keepsCourse_iff (s : State) (p : PortId) : s.KeepsCourse p ↔ coursesKept s p = true := by
  simp only [coursesKept, List.all_eq_true, List.any_eq_true, Bool.and_eq_true, Bool.or_eq_true,
    decide_eq_true_eq]
  exact ⟨fun h i hi => ⟨Decidable.not_or_of_imp (h.joining i hi), Decidable.not_or_of_imp (h.leaving i hi)⟩,
    fun h => ⟨fun i hi hs => (h i hi).1.resolve_left fun n => n hs,
      fun i hi hs => (h i hi).2.resolve_left fun n => n hs⟩⟩

theorem idle_iff (x : Slot) : x.Idle ↔ (x.orders = [] ∧ x.active = false ∧ x.latch = false) :=
  ⟨fun h => ⟨h.orders, h.active, h.latch⟩, fun ⟨a, b, c⟩ => ⟨a, b, c⟩⟩

theorem takes_iff (s : State) (c : CellId) (k : OrderKind) : s.Takes c k ↔
    (s.Live ∧ s.intakeNext = some c ∧ s.cellKind c = some k ∧ intakeRefusal s c = none) :=
  ⟨fun h => ⟨h.toLive, h.next, h.kind, h.passes⟩, fun ⟨a, b, c, d⟩ => ⟨a, b, c, d⟩⟩

theorem takesFor_iff (s : State) (c : CellId) (k : OrderKind) (i : SlotId) : s.TakesFor c k i ↔
    (s.Takes c k ∧ s.cellSlot c = some i) :=
  ⟨fun h => ⟨h.toTakes, h.slot⟩, fun ⟨a, b⟩ => ⟨a, b⟩⟩

end Sys2Proof.Machine
end

