-- ==== Sys2Proof/Laws/State.lean ====
section
/-! SUPPORT. What each update of the state changes and what it leaves: one lemma for each field and
update, and the reading of slots, payload power, engines, ports, pins and cells after an update. -/

namespace Sys2Proof.Machine

variable (s : State)

/-! Change one slot sequencer: every other field stands. -/

@[simp] theorem modSlot_pending (i : SlotId) (f : Slot → Slot) : (s.modSlot i f).pending = s.pending := rfl
@[simp] theorem modSlot_time (i : SlotId) (f : Slot → Slot) : (s.modSlot i f).time = s.time := rfl
@[simp] theorem modSlot_held (i : SlotId) (f : Slot → Slot) : (s.modSlot i f).held = s.held := rfl
@[simp] theorem modSlot_resetLine (i : SlotId) (f : Slot → Slot) : (s.modSlot i f).resetLine = s.resetLine := rfl
@[simp] theorem modSlot_straps (i : SlotId) (f : Slot → Slot) : (s.modSlot i f).straps = s.straps := rfl
@[simp] theorem modSlot_pins (i : SlotId) (f : Slot → Slot) : (s.modSlot i f).pins = s.pins := rfl
@[simp] theorem modSlot_feedALow (i : SlotId) (f : Slot → Slot) : (s.modSlot i f).feedALow = s.feedALow := rfl
@[simp] theorem modSlot_feedBLow (i : SlotId) (f : Slot → Slot) : (s.modSlot i f).feedBLow = s.feedBLow := rfl
@[simp] theorem modSlot_debounceFrom (i : SlotId) (f : Slot → Slot) : (s.modSlot i f).debounceFrom = s.debounceFrom := rfl
@[simp] theorem modSlot_port (i : SlotId) (f : Slot → Slot) : (s.modSlot i f).port = s.port := rfl
@[simp] theorem modSlot_cells (i : SlotId) (f : Slot → Slot) : (s.modSlot i f).cells = s.cells := rfl
@[simp] theorem modSlot_mem (i : SlotId) (f : Slot → Slot) : (s.modSlot i f).mem = s.mem := rfl
@[simp] theorem modSlot_shelfRevision (i : SlotId) (f : Slot → Slot) : (s.modSlot i f).shelfRevision = s.shelfRevision := rfl
@[simp] theorem modSlot_pointer (i : SlotId) (f : Slot → Slot) : (s.modSlot i f).pointer = s.pointer := rfl
@[simp] theorem modSlot_alloc (i : SlotId) (f : Slot → Slot) : (s.modSlot i f).alloc = s.alloc := rfl
@[simp] theorem modSlot_power (i : SlotId) (f : Slot → Slot) : (s.modSlot i f).power = s.power := rfl
@[simp] theorem modSlot_settings (i : SlotId) (f : Slot → Slot) : (s.modSlot i f).settings = s.settings := rfl
@[simp] theorem modSlot_history (i : SlotId) (f : Slot → Slot) : (s.modSlot i f).history = s.history := rfl
@[simp] theorem modSlot_ports (i : SlotId) (f : Slot → Slot) : (s.modSlot i f).ports = s.ports := rfl
@[simp] theorem modSlot_engines (i : SlotId) (f : Slot → Slot) : (s.modSlot i f).engines = s.engines := rfl
@[simp] theorem modSlot_journal (i : SlotId) (f : Slot → Slot) : (s.modSlot i f).journal = s.journal := rfl
@[simp] theorem modSlot_work (i : SlotId) (f : Slot → Slot) : (s.modSlot i f).work = s.work := rfl
@[simp] theorem modSlot_late (i : SlotId) (f : Slot → Slot) : (s.modSlot i f).late = s.late := rfl
@[simp] theorem modSlot_shelfDirty (i : SlotId) (f : Slot → Slot) : (s.modSlot i f).shelfDirty = s.shelfDirty := rfl
@[simp] theorem modSlot_changed (i : SlotId) (f : Slot → Slot) : (s.modSlot i f).changed = s.changed := rfl
@[simp] theorem modSlot_broughtBy (i : SlotId) (f : Slot → Slot) : (s.modSlot i f).broughtBy = s.broughtBy := rfl

/-! Change the payload power of one slot: every other field stands. -/

@[simp] theorem modPower_pending (i : SlotId) (f : Power → Power) : (s.modPower i f).pending = s.pending := rfl
@[simp] theorem modPower_time (i : SlotId) (f : Power → Power) : (s.modPower i f).time = s.time := rfl
@[simp] theorem modPower_held (i : SlotId) (f : Power → Power) : (s.modPower i f).held = s.held := rfl
@[simp] theorem modPower_resetLine (i : SlotId) (f : Power → Power) : (s.modPower i f).resetLine = s.resetLine := rfl
@[simp] theorem modPower_straps (i : SlotId) (f : Power → Power) : (s.modPower i f).straps = s.straps := rfl
@[simp] theorem modPower_pins (i : SlotId) (f : Power → Power) : (s.modPower i f).pins = s.pins := rfl
@[simp] theorem modPower_feedALow (i : SlotId) (f : Power → Power) : (s.modPower i f).feedALow = s.feedALow := rfl
@[simp] theorem modPower_feedBLow (i : SlotId) (f : Power → Power) : (s.modPower i f).feedBLow = s.feedBLow := rfl
@[simp] theorem modPower_debounceFrom (i : SlotId) (f : Power → Power) : (s.modPower i f).debounceFrom = s.debounceFrom := rfl
@[simp] theorem modPower_port (i : SlotId) (f : Power → Power) : (s.modPower i f).port = s.port := rfl
@[simp] theorem modPower_cells (i : SlotId) (f : Power → Power) : (s.modPower i f).cells = s.cells := rfl
@[simp] theorem modPower_mem (i : SlotId) (f : Power → Power) : (s.modPower i f).mem = s.mem := rfl
@[simp] theorem modPower_shelfRevision (i : SlotId) (f : Power → Power) : (s.modPower i f).shelfRevision = s.shelfRevision := rfl
@[simp] theorem modPower_pointer (i : SlotId) (f : Power → Power) : (s.modPower i f).pointer = s.pointer := rfl
@[simp] theorem modPower_slots (i : SlotId) (f : Power → Power) : (s.modPower i f).slots = s.slots := rfl
@[simp] theorem modPower_alloc (i : SlotId) (f : Power → Power) : (s.modPower i f).alloc = s.alloc := rfl
@[simp] theorem modPower_settings (i : SlotId) (f : Power → Power) : (s.modPower i f).settings = s.settings := rfl
@[simp] theorem modPower_history (i : SlotId) (f : Power → Power) : (s.modPower i f).history = s.history := rfl
@[simp] theorem modPower_ports (i : SlotId) (f : Power → Power) : (s.modPower i f).ports = s.ports := rfl
@[simp] theorem modPower_engines (i : SlotId) (f : Power → Power) : (s.modPower i f).engines = s.engines := rfl
@[simp] theorem modPower_journal (i : SlotId) (f : Power → Power) : (s.modPower i f).journal = s.journal := rfl
@[simp] theorem modPower_work (i : SlotId) (f : Power → Power) : (s.modPower i f).work = s.work := rfl
@[simp] theorem modPower_late (i : SlotId) (f : Power → Power) : (s.modPower i f).late = s.late := rfl
@[simp] theorem modPower_shelfDirty (i : SlotId) (f : Power → Power) : (s.modPower i f).shelfDirty = s.shelfDirty := rfl
@[simp] theorem modPower_changed (i : SlotId) (f : Power → Power) : (s.modPower i f).changed = s.changed := rfl
@[simp] theorem modPower_broughtBy (i : SlotId) (f : Power → Power) : (s.modPower i f).broughtBy = s.broughtBy := rfl

/-! Change one link engine: every other field stands. -/

@[simp] theorem modEngine_pending (i : SlotId) (f : Engine → Engine) : (s.modEngine i f).pending = s.pending := rfl
@[simp] theorem modEngine_time (i : SlotId) (f : Engine → Engine) : (s.modEngine i f).time = s.time := rfl
@[simp] theorem modEngine_held (i : SlotId) (f : Engine → Engine) : (s.modEngine i f).held = s.held := rfl
@[simp] theorem modEngine_resetLine (i : SlotId) (f : Engine → Engine) : (s.modEngine i f).resetLine = s.resetLine := rfl
@[simp] theorem modEngine_straps (i : SlotId) (f : Engine → Engine) : (s.modEngine i f).straps = s.straps := rfl
@[simp] theorem modEngine_pins (i : SlotId) (f : Engine → Engine) : (s.modEngine i f).pins = s.pins := rfl
@[simp] theorem modEngine_feedALow (i : SlotId) (f : Engine → Engine) : (s.modEngine i f).feedALow = s.feedALow := rfl
@[simp] theorem modEngine_feedBLow (i : SlotId) (f : Engine → Engine) : (s.modEngine i f).feedBLow = s.feedBLow := rfl
@[simp] theorem modEngine_debounceFrom (i : SlotId) (f : Engine → Engine) : (s.modEngine i f).debounceFrom = s.debounceFrom := rfl
@[simp] theorem modEngine_port (i : SlotId) (f : Engine → Engine) : (s.modEngine i f).port = s.port := rfl
@[simp] theorem modEngine_cells (i : SlotId) (f : Engine → Engine) : (s.modEngine i f).cells = s.cells := rfl
@[simp] theorem modEngine_mem (i : SlotId) (f : Engine → Engine) : (s.modEngine i f).mem = s.mem := rfl
@[simp] theorem modEngine_shelfRevision (i : SlotId) (f : Engine → Engine) : (s.modEngine i f).shelfRevision = s.shelfRevision := rfl
@[simp] theorem modEngine_pointer (i : SlotId) (f : Engine → Engine) : (s.modEngine i f).pointer = s.pointer := rfl
@[simp] theorem modEngine_slots (i : SlotId) (f : Engine → Engine) : (s.modEngine i f).slots = s.slots := rfl
@[simp] theorem modEngine_alloc (i : SlotId) (f : Engine → Engine) : (s.modEngine i f).alloc = s.alloc := rfl
@[simp] theorem modEngine_power (i : SlotId) (f : Engine → Engine) : (s.modEngine i f).power = s.power := rfl
@[simp] theorem modEngine_settings (i : SlotId) (f : Engine → Engine) : (s.modEngine i f).settings = s.settings := rfl
@[simp] theorem modEngine_history (i : SlotId) (f : Engine → Engine) : (s.modEngine i f).history = s.history := rfl
@[simp] theorem modEngine_ports (i : SlotId) (f : Engine → Engine) : (s.modEngine i f).ports = s.ports := rfl
@[simp] theorem modEngine_journal (i : SlotId) (f : Engine → Engine) : (s.modEngine i f).journal = s.journal := rfl
@[simp] theorem modEngine_work (i : SlotId) (f : Engine → Engine) : (s.modEngine i f).work = s.work := rfl
@[simp] theorem modEngine_late (i : SlotId) (f : Engine → Engine) : (s.modEngine i f).late = s.late := rfl
@[simp] theorem modEngine_shelfDirty (i : SlotId) (f : Engine → Engine) : (s.modEngine i f).shelfDirty = s.shelfDirty := rfl
@[simp] theorem modEngine_changed (i : SlotId) (f : Engine → Engine) : (s.modEngine i f).changed = s.changed := rfl
@[simp] theorem modEngine_broughtBy (i : SlotId) (f : Engine → Engine) : (s.modEngine i f).broughtBy = s.broughtBy := rfl

/-! Change one port: every other field but the list of late tests stands. -/

@[simp] theorem modPort_pending (p : PortId) (f : Port → Port) : (s.modPort p f).pending = s.pending := rfl
@[simp] theorem modPort_time (p : PortId) (f : Port → Port) : (s.modPort p f).time = s.time := rfl
@[simp] theorem modPort_held (p : PortId) (f : Port → Port) : (s.modPort p f).held = s.held := rfl
@[simp] theorem modPort_resetLine (p : PortId) (f : Port → Port) : (s.modPort p f).resetLine = s.resetLine := rfl
@[simp] theorem modPort_straps (p : PortId) (f : Port → Port) : (s.modPort p f).straps = s.straps := rfl
@[simp] theorem modPort_pins (p : PortId) (f : Port → Port) : (s.modPort p f).pins = s.pins := rfl
@[simp] theorem modPort_feedALow (p : PortId) (f : Port → Port) : (s.modPort p f).feedALow = s.feedALow := rfl
@[simp] theorem modPort_feedBLow (p : PortId) (f : Port → Port) : (s.modPort p f).feedBLow = s.feedBLow := rfl
@[simp] theorem modPort_debounceFrom (p : PortId) (f : Port → Port) : (s.modPort p f).debounceFrom = s.debounceFrom := rfl
@[simp] theorem modPort_port (p : PortId) (f : Port → Port) : (s.modPort p f).port = s.port := rfl
@[simp] theorem modPort_cells (p : PortId) (f : Port → Port) : (s.modPort p f).cells = s.cells := rfl
@[simp] theorem modPort_mem (p : PortId) (f : Port → Port) : (s.modPort p f).mem = s.mem := rfl
@[simp] theorem modPort_shelfRevision (p : PortId) (f : Port → Port) : (s.modPort p f).shelfRevision = s.shelfRevision := rfl
@[simp] theorem modPort_pointer (p : PortId) (f : Port → Port) : (s.modPort p f).pointer = s.pointer := rfl
@[simp] theorem modPort_slots (p : PortId) (f : Port → Port) : (s.modPort p f).slots = s.slots := rfl
@[simp] theorem modPort_alloc (p : PortId) (f : Port → Port) : (s.modPort p f).alloc = s.alloc := rfl
@[simp] theorem modPort_power (p : PortId) (f : Port → Port) : (s.modPort p f).power = s.power := rfl
@[simp] theorem modPort_settings (p : PortId) (f : Port → Port) : (s.modPort p f).settings = s.settings := rfl
@[simp] theorem modPort_history (p : PortId) (f : Port → Port) : (s.modPort p f).history = s.history := rfl
@[simp] theorem modPort_engines (p : PortId) (f : Port → Port) : (s.modPort p f).engines = s.engines := rfl
@[simp] theorem modPort_journal (p : PortId) (f : Port → Port) : (s.modPort p f).journal = s.journal := rfl
@[simp] theorem modPort_work (p : PortId) (f : Port → Port) : (s.modPort p f).work = s.work := rfl
@[simp] theorem modPort_shelfDirty (p : PortId) (f : Port → Port) : (s.modPort p f).shelfDirty = s.shelfDirty := rfl
@[simp] theorem modPort_changed (p : PortId) (f : Port → Port) : (s.modPort p f).changed = s.changed := rfl
@[simp] theorem modPort_broughtBy (p : PortId) (f : Port → Port) : (s.modPort p f).broughtBy = s.broughtBy := rfl

/-! Change the raw inputs of one slot: every other field stands. -/

@[simp] theorem modPins_pending (i : SlotId) (f : SlotPins → SlotPins) : (s.modPins i f).pending = s.pending := rfl
@[simp] theorem modPins_time (i : SlotId) (f : SlotPins → SlotPins) : (s.modPins i f).time = s.time := rfl
@[simp] theorem modPins_held (i : SlotId) (f : SlotPins → SlotPins) : (s.modPins i f).held = s.held := rfl
@[simp] theorem modPins_resetLine (i : SlotId) (f : SlotPins → SlotPins) : (s.modPins i f).resetLine = s.resetLine := rfl
@[simp] theorem modPins_straps (i : SlotId) (f : SlotPins → SlotPins) : (s.modPins i f).straps = s.straps := rfl
@[simp] theorem modPins_feedALow (i : SlotId) (f : SlotPins → SlotPins) : (s.modPins i f).feedALow = s.feedALow := rfl
@[simp] theorem modPins_feedBLow (i : SlotId) (f : SlotPins → SlotPins) : (s.modPins i f).feedBLow = s.feedBLow := rfl
@[simp] theorem modPins_debounceFrom (i : SlotId) (f : SlotPins → SlotPins) : (s.modPins i f).debounceFrom = s.debounceFrom := rfl
@[simp] theorem modPins_port (i : SlotId) (f : SlotPins → SlotPins) : (s.modPins i f).port = s.port := rfl
@[simp] theorem modPins_cells (i : SlotId) (f : SlotPins → SlotPins) : (s.modPins i f).cells = s.cells := rfl
@[simp] theorem modPins_mem (i : SlotId) (f : SlotPins → SlotPins) : (s.modPins i f).mem = s.mem := rfl
@[simp] theorem modPins_shelfRevision (i : SlotId) (f : SlotPins → SlotPins) : (s.modPins i f).shelfRevision = s.shelfRevision := rfl
@[simp] theorem modPins_pointer (i : SlotId) (f : SlotPins → SlotPins) : (s.modPins i f).pointer = s.pointer := rfl
@[simp] theorem modPins_slots (i : SlotId) (f : SlotPins → SlotPins) : (s.modPins i f).slots = s.slots := rfl
@[simp] theorem modPins_alloc (i : SlotId) (f : SlotPins → SlotPins) : (s.modPins i f).alloc = s.alloc := rfl
@[simp] theorem modPins_power (i : SlotId) (f : SlotPins → SlotPins) : (s.modPins i f).power = s.power := rfl
@[simp] theorem modPins_settings (i : SlotId) (f : SlotPins → SlotPins) : (s.modPins i f).settings = s.settings := rfl
@[simp] theorem modPins_history (i : SlotId) (f : SlotPins → SlotPins) : (s.modPins i f).history = s.history := rfl
@[simp] theorem modPins_ports (i : SlotId) (f : SlotPins → SlotPins) : (s.modPins i f).ports = s.ports := rfl
@[simp] theorem modPins_engines (i : SlotId) (f : SlotPins → SlotPins) : (s.modPins i f).engines = s.engines := rfl
@[simp] theorem modPins_journal (i : SlotId) (f : SlotPins → SlotPins) : (s.modPins i f).journal = s.journal := rfl
@[simp] theorem modPins_work (i : SlotId) (f : SlotPins → SlotPins) : (s.modPins i f).work = s.work := rfl
@[simp] theorem modPins_late (i : SlotId) (f : SlotPins → SlotPins) : (s.modPins i f).late = s.late := rfl
@[simp] theorem modPins_shelfDirty (i : SlotId) (f : SlotPins → SlotPins) : (s.modPins i f).shelfDirty = s.shelfDirty := rfl
@[simp] theorem modPins_changed (i : SlotId) (f : SlotPins → SlotPins) : (s.modPins i f).changed = s.changed := rfl
@[simp] theorem modPins_broughtBy (i : SlotId) (f : SlotPins → SlotPins) : (s.modPins i f).broughtBy = s.broughtBy := rfl

/-! Change since when the raw inputs of one slot stand: every other field stands. -/

@[simp] theorem modTimes_pending (i : SlotId) (f : InputTimes → InputTimes) : (s.modTimes i f).pending = s.pending := rfl
@[simp] theorem modTimes_time (i : SlotId) (f : InputTimes → InputTimes) : (s.modTimes i f).time = s.time := rfl
@[simp] theorem modTimes_held (i : SlotId) (f : InputTimes → InputTimes) : (s.modTimes i f).held = s.held := rfl
@[simp] theorem modTimes_resetLine (i : SlotId) (f : InputTimes → InputTimes) : (s.modTimes i f).resetLine = s.resetLine := rfl
@[simp] theorem modTimes_straps (i : SlotId) (f : InputTimes → InputTimes) : (s.modTimes i f).straps = s.straps := rfl
@[simp] theorem modTimes_pins (i : SlotId) (f : InputTimes → InputTimes) : (s.modTimes i f).pins = s.pins := rfl
@[simp] theorem modTimes_feedALow (i : SlotId) (f : InputTimes → InputTimes) : (s.modTimes i f).feedALow = s.feedALow := rfl
@[simp] theorem modTimes_feedBLow (i : SlotId) (f : InputTimes → InputTimes) : (s.modTimes i f).feedBLow = s.feedBLow := rfl
@[simp] theorem modTimes_port (i : SlotId) (f : InputTimes → InputTimes) : (s.modTimes i f).port = s.port := rfl
@[simp] theorem modTimes_cells (i : SlotId) (f : InputTimes → InputTimes) : (s.modTimes i f).cells = s.cells := rfl
@[simp] theorem modTimes_mem (i : SlotId) (f : InputTimes → InputTimes) : (s.modTimes i f).mem = s.mem := rfl
@[simp] theorem modTimes_shelfRevision (i : SlotId) (f : InputTimes → InputTimes) : (s.modTimes i f).shelfRevision = s.shelfRevision := rfl
@[simp] theorem modTimes_pointer (i : SlotId) (f : InputTimes → InputTimes) : (s.modTimes i f).pointer = s.pointer := rfl
@[simp] theorem modTimes_slots (i : SlotId) (f : InputTimes → InputTimes) : (s.modTimes i f).slots = s.slots := rfl
@[simp] theorem modTimes_alloc (i : SlotId) (f : InputTimes → InputTimes) : (s.modTimes i f).alloc = s.alloc := rfl
@[simp] theorem modTimes_power (i : SlotId) (f : InputTimes → InputTimes) : (s.modTimes i f).power = s.power := rfl
@[simp] theorem modTimes_settings (i : SlotId) (f : InputTimes → InputTimes) : (s.modTimes i f).settings = s.settings := rfl
@[simp] theorem modTimes_history (i : SlotId) (f : InputTimes → InputTimes) : (s.modTimes i f).history = s.history := rfl
@[simp] theorem modTimes_ports (i : SlotId) (f : InputTimes → InputTimes) : (s.modTimes i f).ports = s.ports := rfl
@[simp] theorem modTimes_engines (i : SlotId) (f : InputTimes → InputTimes) : (s.modTimes i f).engines = s.engines := rfl
@[simp] theorem modTimes_journal (i : SlotId) (f : InputTimes → InputTimes) : (s.modTimes i f).journal = s.journal := rfl
@[simp] theorem modTimes_work (i : SlotId) (f : InputTimes → InputTimes) : (s.modTimes i f).work = s.work := rfl
@[simp] theorem modTimes_late (i : SlotId) (f : InputTimes → InputTimes) : (s.modTimes i f).late = s.late := rfl
@[simp] theorem modTimes_shelfDirty (i : SlotId) (f : InputTimes → InputTimes) : (s.modTimes i f).shelfDirty = s.shelfDirty := rfl
@[simp] theorem modTimes_changed (i : SlotId) (f : InputTimes → InputTimes) : (s.modTimes i f).changed = s.changed := rfl
@[simp] theorem modTimes_broughtBy (i : SlotId) (f : InputTimes → InputTimes) : (s.modTimes i f).broughtBy = s.broughtBy := rfl

/-! Write the state of one cell: every other field stands. -/

@[simp] theorem setCell_pending (c : CellId) (x : CellState) : (s.setCell c x).pending = s.pending := rfl
@[simp] theorem setCell_time (c : CellId) (x : CellState) : (s.setCell c x).time = s.time := rfl
@[simp] theorem setCell_held (c : CellId) (x : CellState) : (s.setCell c x).held = s.held := rfl
@[simp] theorem setCell_resetLine (c : CellId) (x : CellState) : (s.setCell c x).resetLine = s.resetLine := rfl
@[simp] theorem setCell_straps (c : CellId) (x : CellState) : (s.setCell c x).straps = s.straps := rfl
@[simp] theorem setCell_pins (c : CellId) (x : CellState) : (s.setCell c x).pins = s.pins := rfl
@[simp] theorem setCell_feedALow (c : CellId) (x : CellState) : (s.setCell c x).feedALow = s.feedALow := rfl
@[simp] theorem setCell_feedBLow (c : CellId) (x : CellState) : (s.setCell c x).feedBLow = s.feedBLow := rfl
@[simp] theorem setCell_debounceFrom (c : CellId) (x : CellState) : (s.setCell c x).debounceFrom = s.debounceFrom := rfl
@[simp] theorem setCell_port (c : CellId) (x : CellState) : (s.setCell c x).port = s.port := rfl
@[simp] theorem setCell_mem (c : CellId) (x : CellState) : (s.setCell c x).mem = s.mem := rfl
@[simp] theorem setCell_shelfRevision (c : CellId) (x : CellState) : (s.setCell c x).shelfRevision = s.shelfRevision := rfl
@[simp] theorem setCell_pointer (c : CellId) (x : CellState) : (s.setCell c x).pointer = s.pointer := rfl
@[simp] theorem setCell_slots (c : CellId) (x : CellState) : (s.setCell c x).slots = s.slots := rfl
@[simp] theorem setCell_alloc (c : CellId) (x : CellState) : (s.setCell c x).alloc = s.alloc := rfl
@[simp] theorem setCell_power (c : CellId) (x : CellState) : (s.setCell c x).power = s.power := rfl
@[simp] theorem setCell_settings (c : CellId) (x : CellState) : (s.setCell c x).settings = s.settings := rfl
@[simp] theorem setCell_history (c : CellId) (x : CellState) : (s.setCell c x).history = s.history := rfl
@[simp] theorem setCell_ports (c : CellId) (x : CellState) : (s.setCell c x).ports = s.ports := rfl
@[simp] theorem setCell_engines (c : CellId) (x : CellState) : (s.setCell c x).engines = s.engines := rfl
@[simp] theorem setCell_journal (c : CellId) (x : CellState) : (s.setCell c x).journal = s.journal := rfl
@[simp] theorem setCell_work (c : CellId) (x : CellState) : (s.setCell c x).work = s.work := rfl
@[simp] theorem setCell_late (c : CellId) (x : CellState) : (s.setCell c x).late = s.late := rfl
@[simp] theorem setCell_shelfDirty (c : CellId) (x : CellState) : (s.setCell c x).shelfDirty = s.shelfDirty := rfl
@[simp] theorem setCell_changed (c : CellId) (x : CellState) : (s.setCell c x).changed = s.changed := rfl
@[simp] theorem setCell_broughtBy (c : CellId) (x : CellState) : (s.setCell c x).broughtBy = s.broughtBy := rfl

/-! Change the allocator: every other field stands. -/

@[simp] theorem modAlloc_pending (f : Allocator → Allocator) : (s.modAlloc f).pending = s.pending := rfl
@[simp] theorem modAlloc_time (f : Allocator → Allocator) : (s.modAlloc f).time = s.time := rfl
@[simp] theorem modAlloc_held (f : Allocator → Allocator) : (s.modAlloc f).held = s.held := rfl
@[simp] theorem modAlloc_resetLine (f : Allocator → Allocator) : (s.modAlloc f).resetLine = s.resetLine := rfl
@[simp] theorem modAlloc_straps (f : Allocator → Allocator) : (s.modAlloc f).straps = s.straps := rfl
@[simp] theorem modAlloc_pins (f : Allocator → Allocator) : (s.modAlloc f).pins = s.pins := rfl
@[simp] theorem modAlloc_feedALow (f : Allocator → Allocator) : (s.modAlloc f).feedALow = s.feedALow := rfl
@[simp] theorem modAlloc_feedBLow (f : Allocator → Allocator) : (s.modAlloc f).feedBLow = s.feedBLow := rfl
@[simp] theorem modAlloc_debounceFrom (f : Allocator → Allocator) : (s.modAlloc f).debounceFrom = s.debounceFrom := rfl
@[simp] theorem modAlloc_port (f : Allocator → Allocator) : (s.modAlloc f).port = s.port := rfl
@[simp] theorem modAlloc_cells (f : Allocator → Allocator) : (s.modAlloc f).cells = s.cells := rfl
@[simp] theorem modAlloc_mem (f : Allocator → Allocator) : (s.modAlloc f).mem = s.mem := rfl
@[simp] theorem modAlloc_shelfRevision (f : Allocator → Allocator) : (s.modAlloc f).shelfRevision = s.shelfRevision := rfl
@[simp] theorem modAlloc_pointer (f : Allocator → Allocator) : (s.modAlloc f).pointer = s.pointer := rfl
@[simp] theorem modAlloc_slots (f : Allocator → Allocator) : (s.modAlloc f).slots = s.slots := rfl
@[simp] theorem modAlloc_power (f : Allocator → Allocator) : (s.modAlloc f).power = s.power := rfl
@[simp] theorem modAlloc_settings (f : Allocator → Allocator) : (s.modAlloc f).settings = s.settings := rfl
@[simp] theorem modAlloc_history (f : Allocator → Allocator) : (s.modAlloc f).history = s.history := rfl
@[simp] theorem modAlloc_ports (f : Allocator → Allocator) : (s.modAlloc f).ports = s.ports := rfl
@[simp] theorem modAlloc_engines (f : Allocator → Allocator) : (s.modAlloc f).engines = s.engines := rfl
@[simp] theorem modAlloc_journal (f : Allocator → Allocator) : (s.modAlloc f).journal = s.journal := rfl
@[simp] theorem modAlloc_work (f : Allocator → Allocator) : (s.modAlloc f).work = s.work := rfl
@[simp] theorem modAlloc_late (f : Allocator → Allocator) : (s.modAlloc f).late = s.late := rfl
@[simp] theorem modAlloc_shelfDirty (f : Allocator → Allocator) : (s.modAlloc f).shelfDirty = s.shelfDirty := rfl
@[simp] theorem modAlloc_changed (f : Allocator → Allocator) : (s.modAlloc f).changed = s.changed := rfl
@[simp] theorem modAlloc_broughtBy (f : Allocator → Allocator) : (s.modAlloc f).broughtBy = s.broughtBy := rfl

/-! Mark the shelf record written: every other field stands. -/

@[simp] theorem touchShelf_pending : (s.touchShelf).pending = s.pending := rfl
@[simp] theorem touchShelf_time : (s.touchShelf).time = s.time := rfl
@[simp] theorem touchShelf_held : (s.touchShelf).held = s.held := rfl
@[simp] theorem touchShelf_resetLine : (s.touchShelf).resetLine = s.resetLine := rfl
@[simp] theorem touchShelf_straps : (s.touchShelf).straps = s.straps := rfl
@[simp] theorem touchShelf_pins : (s.touchShelf).pins = s.pins := rfl
@[simp] theorem touchShelf_feedALow : (s.touchShelf).feedALow = s.feedALow := rfl
@[simp] theorem touchShelf_feedBLow : (s.touchShelf).feedBLow = s.feedBLow := rfl
@[simp] theorem touchShelf_debounceFrom : (s.touchShelf).debounceFrom = s.debounceFrom := rfl
@[simp] theorem touchShelf_port : (s.touchShelf).port = s.port := rfl
@[simp] theorem touchShelf_cells : (s.touchShelf).cells = s.cells := rfl
@[simp] theorem touchShelf_mem : (s.touchShelf).mem = s.mem := rfl
@[simp] theorem touchShelf_shelfRevision : (s.touchShelf).shelfRevision = s.shelfRevision := rfl
@[simp] theorem touchShelf_pointer : (s.touchShelf).pointer = s.pointer := rfl
@[simp] theorem touchShelf_slots : (s.touchShelf).slots = s.slots := rfl
@[simp] theorem touchShelf_alloc : (s.touchShelf).alloc = s.alloc := rfl
@[simp] theorem touchShelf_power : (s.touchShelf).power = s.power := rfl
@[simp] theorem touchShelf_settings : (s.touchShelf).settings = s.settings := rfl
@[simp] theorem touchShelf_history : (s.touchShelf).history = s.history := rfl
@[simp] theorem touchShelf_ports : (s.touchShelf).ports = s.ports := rfl
@[simp] theorem touchShelf_engines : (s.touchShelf).engines = s.engines := rfl
@[simp] theorem touchShelf_journal : (s.touchShelf).journal = s.journal := rfl
@[simp] theorem touchShelf_work : (s.touchShelf).work = s.work := rfl
@[simp] theorem touchShelf_late : (s.touchShelf).late = s.late := rfl
@[simp] theorem touchShelf_changed : (s.touchShelf).changed = s.changed := rfl
@[simp] theorem touchShelf_broughtBy : (s.touchShelf).broughtBy = s.broughtBy := rfl

/-! Bring follow-up work: every other field stands. -/

@[simp] theorem raise_pending (js : List Job) : (s.raise js).pending = s.pending := rfl
@[simp] theorem raise_time (js : List Job) : (s.raise js).time = s.time := rfl
@[simp] theorem raise_held (js : List Job) : (s.raise js).held = s.held := rfl
@[simp] theorem raise_resetLine (js : List Job) : (s.raise js).resetLine = s.resetLine := rfl
@[simp] theorem raise_straps (js : List Job) : (s.raise js).straps = s.straps := rfl
@[simp] theorem raise_pins (js : List Job) : (s.raise js).pins = s.pins := rfl
@[simp] theorem raise_feedALow (js : List Job) : (s.raise js).feedALow = s.feedALow := rfl
@[simp] theorem raise_feedBLow (js : List Job) : (s.raise js).feedBLow = s.feedBLow := rfl
@[simp] theorem raise_debounceFrom (js : List Job) : (s.raise js).debounceFrom = s.debounceFrom := rfl
@[simp] theorem raise_port (js : List Job) : (s.raise js).port = s.port := rfl
@[simp] theorem raise_cells (js : List Job) : (s.raise js).cells = s.cells := rfl
@[simp] theorem raise_mem (js : List Job) : (s.raise js).mem = s.mem := rfl
@[simp] theorem raise_shelfRevision (js : List Job) : (s.raise js).shelfRevision = s.shelfRevision := rfl
@[simp] theorem raise_pointer (js : List Job) : (s.raise js).pointer = s.pointer := rfl
@[simp] theorem raise_slots (js : List Job) : (s.raise js).slots = s.slots := rfl
@[simp] theorem raise_alloc (js : List Job) : (s.raise js).alloc = s.alloc := rfl
@[simp] theorem raise_power (js : List Job) : (s.raise js).power = s.power := rfl
@[simp] theorem raise_settings (js : List Job) : (s.raise js).settings = s.settings := rfl
@[simp] theorem raise_history (js : List Job) : (s.raise js).history = s.history := rfl
@[simp] theorem raise_ports (js : List Job) : (s.raise js).ports = s.ports := rfl
@[simp] theorem raise_engines (js : List Job) : (s.raise js).engines = s.engines := rfl
@[simp] theorem raise_journal (js : List Job) : (s.raise js).journal = s.journal := rfl
@[simp] theorem raise_late (js : List Job) : (s.raise js).late = s.late := rfl
@[simp] theorem raise_shelfDirty (js : List Job) : (s.raise js).shelfDirty = s.shelfDirty := rfl
@[simp] theorem raise_changed (js : List Job) : (s.raise js).changed = s.changed := rfl
@[simp] theorem raise_broughtBy (js : List Job) : (s.raise js).broughtBy = s.broughtBy := rfl

/-! Ask for a late test: every other field stands. -/

@[simp] theorem testLate_pending (i : SlotId) : (s.testLate i).pending = s.pending := rfl
@[simp] theorem testLate_time (i : SlotId) : (s.testLate i).time = s.time := rfl
@[simp] theorem testLate_held (i : SlotId) : (s.testLate i).held = s.held := rfl
@[simp] theorem testLate_resetLine (i : SlotId) : (s.testLate i).resetLine = s.resetLine := rfl
@[simp] theorem testLate_straps (i : SlotId) : (s.testLate i).straps = s.straps := rfl
@[simp] theorem testLate_pins (i : SlotId) : (s.testLate i).pins = s.pins := rfl
@[simp] theorem testLate_feedALow (i : SlotId) : (s.testLate i).feedALow = s.feedALow := rfl
@[simp] theorem testLate_feedBLow (i : SlotId) : (s.testLate i).feedBLow = s.feedBLow := rfl
@[simp] theorem testLate_debounceFrom (i : SlotId) : (s.testLate i).debounceFrom = s.debounceFrom := rfl
@[simp] theorem testLate_port (i : SlotId) : (s.testLate i).port = s.port := rfl
@[simp] theorem testLate_cells (i : SlotId) : (s.testLate i).cells = s.cells := rfl
@[simp] theorem testLate_mem (i : SlotId) : (s.testLate i).mem = s.mem := rfl
@[simp] theorem testLate_shelfRevision (i : SlotId) : (s.testLate i).shelfRevision = s.shelfRevision := rfl
@[simp] theorem testLate_pointer (i : SlotId) : (s.testLate i).pointer = s.pointer := rfl
@[simp] theorem testLate_slots (i : SlotId) : (s.testLate i).slots = s.slots := rfl
@[simp] theorem testLate_alloc (i : SlotId) : (s.testLate i).alloc = s.alloc := rfl
@[simp] theorem testLate_power (i : SlotId) : (s.testLate i).power = s.power := rfl
@[simp] theorem testLate_settings (i : SlotId) : (s.testLate i).settings = s.settings := rfl
@[simp] theorem testLate_history (i : SlotId) : (s.testLate i).history = s.history := rfl
@[simp] theorem testLate_ports (i : SlotId) : (s.testLate i).ports = s.ports := rfl
@[simp] theorem testLate_engines (i : SlotId) : (s.testLate i).engines = s.engines := rfl
@[simp] theorem testLate_journal (i : SlotId) : (s.testLate i).journal = s.journal := rfl
@[simp] theorem testLate_work (i : SlotId) : (s.testLate i).work = s.work := rfl
@[simp] theorem testLate_shelfDirty (i : SlotId) : (s.testLate i).shelfDirty = s.shelfDirty := rfl
@[simp] theorem testLate_changed (i : SlotId) : (s.testLate i).changed = s.changed := rfl
@[simp] theorem testLate_broughtBy (i : SlotId) : (s.testLate i).broughtBy = s.broughtBy := rfl

/-! Name the order that brings what follows: every other field stands. -/

@[simp] theorem onBehalf_pending (c : CellId) : (s.onBehalf c).pending = s.pending := rfl
@[simp] theorem onBehalf_time (c : CellId) : (s.onBehalf c).time = s.time := rfl
@[simp] theorem onBehalf_held (c : CellId) : (s.onBehalf c).held = s.held := rfl
@[simp] theorem onBehalf_resetLine (c : CellId) : (s.onBehalf c).resetLine = s.resetLine := rfl
@[simp] theorem onBehalf_straps (c : CellId) : (s.onBehalf c).straps = s.straps := rfl
@[simp] theorem onBehalf_pins (c : CellId) : (s.onBehalf c).pins = s.pins := rfl
@[simp] theorem onBehalf_feedALow (c : CellId) : (s.onBehalf c).feedALow = s.feedALow := rfl
@[simp] theorem onBehalf_feedBLow (c : CellId) : (s.onBehalf c).feedBLow = s.feedBLow := rfl
@[simp] theorem onBehalf_debounceFrom (c : CellId) : (s.onBehalf c).debounceFrom = s.debounceFrom := rfl
@[simp] theorem onBehalf_port (c : CellId) : (s.onBehalf c).port = s.port := rfl
@[simp] theorem onBehalf_cells (c : CellId) : (s.onBehalf c).cells = s.cells := rfl
@[simp] theorem onBehalf_mem (c : CellId) : (s.onBehalf c).mem = s.mem := rfl
@[simp] theorem onBehalf_shelfRevision (c : CellId) : (s.onBehalf c).shelfRevision = s.shelfRevision := rfl
@[simp] theorem onBehalf_pointer (c : CellId) : (s.onBehalf c).pointer = s.pointer := rfl
@[simp] theorem onBehalf_slots (c : CellId) : (s.onBehalf c).slots = s.slots := rfl
@[simp] theorem onBehalf_alloc (c : CellId) : (s.onBehalf c).alloc = s.alloc := rfl
@[simp] theorem onBehalf_power (c : CellId) : (s.onBehalf c).power = s.power := rfl
@[simp] theorem onBehalf_settings (c : CellId) : (s.onBehalf c).settings = s.settings := rfl
@[simp] theorem onBehalf_history (c : CellId) : (s.onBehalf c).history = s.history := rfl
@[simp] theorem onBehalf_ports (c : CellId) : (s.onBehalf c).ports = s.ports := rfl
@[simp] theorem onBehalf_engines (c : CellId) : (s.onBehalf c).engines = s.engines := rfl
@[simp] theorem onBehalf_journal (c : CellId) : (s.onBehalf c).journal = s.journal := rfl
@[simp] theorem onBehalf_work (c : CellId) : (s.onBehalf c).work = s.work := rfl
@[simp] theorem onBehalf_late (c : CellId) : (s.onBehalf c).late = s.late := rfl
@[simp] theorem onBehalf_shelfDirty (c : CellId) : (s.onBehalf c).shelfDirty = s.shelfDirty := rfl
@[simp] theorem onBehalf_changed (c : CellId) : (s.onBehalf c).changed = s.changed := rfl

/-! Change the registers: every other field stands. -/

@[simp] theorem updatePort_pending (f : MgmtPort → MgmtPort) : (s.updatePort f).pending = s.pending := rfl
@[simp] theorem updatePort_time (f : MgmtPort → MgmtPort) : (s.updatePort f).time = s.time := rfl
@[simp] theorem updatePort_held (f : MgmtPort → MgmtPort) : (s.updatePort f).held = s.held := rfl
@[simp] theorem updatePort_resetLine (f : MgmtPort → MgmtPort) : (s.updatePort f).resetLine = s.resetLine := rfl
@[simp] theorem updatePort_straps (f : MgmtPort → MgmtPort) : (s.updatePort f).straps = s.straps := rfl
@[simp] theorem updatePort_pins (f : MgmtPort → MgmtPort) : (s.updatePort f).pins = s.pins := rfl
@[simp] theorem updatePort_feedALow (f : MgmtPort → MgmtPort) : (s.updatePort f).feedALow = s.feedALow := rfl
@[simp] theorem updatePort_feedBLow (f : MgmtPort → MgmtPort) : (s.updatePort f).feedBLow = s.feedBLow := rfl
@[simp] theorem updatePort_debounceFrom (f : MgmtPort → MgmtPort) : (s.updatePort f).debounceFrom = s.debounceFrom := rfl
@[simp] theorem updatePort_cells (f : MgmtPort → MgmtPort) : (s.updatePort f).cells = s.cells := rfl
@[simp] theorem updatePort_mem (f : MgmtPort → MgmtPort) : (s.updatePort f).mem = s.mem := rfl
@[simp] theorem updatePort_shelfRevision (f : MgmtPort → MgmtPort) : (s.updatePort f).shelfRevision = s.shelfRevision := rfl
@[simp] theorem updatePort_pointer (f : MgmtPort → MgmtPort) : (s.updatePort f).pointer = s.pointer := rfl
@[simp] theorem updatePort_slots (f : MgmtPort → MgmtPort) : (s.updatePort f).slots = s.slots := rfl
@[simp] theorem updatePort_alloc (f : MgmtPort → MgmtPort) : (s.updatePort f).alloc = s.alloc := rfl
@[simp] theorem updatePort_power (f : MgmtPort → MgmtPort) : (s.updatePort f).power = s.power := rfl
@[simp] theorem updatePort_settings (f : MgmtPort → MgmtPort) : (s.updatePort f).settings = s.settings := rfl
@[simp] theorem updatePort_history (f : MgmtPort → MgmtPort) : (s.updatePort f).history = s.history := rfl
@[simp] theorem updatePort_ports (f : MgmtPort → MgmtPort) : (s.updatePort f).ports = s.ports := rfl
@[simp] theorem updatePort_engines (f : MgmtPort → MgmtPort) : (s.updatePort f).engines = s.engines := rfl
@[simp] theorem updatePort_journal (f : MgmtPort → MgmtPort) : (s.updatePort f).journal = s.journal := rfl
@[simp] theorem updatePort_work (f : MgmtPort → MgmtPort) : (s.updatePort f).work = s.work := rfl
@[simp] theorem updatePort_late (f : MgmtPort → MgmtPort) : (s.updatePort f).late = s.late := rfl
@[simp] theorem updatePort_shelfDirty (f : MgmtPort → MgmtPort) : (s.updatePort f).shelfDirty = s.shelfDirty := rfl
@[simp] theorem updatePort_changed (f : MgmtPort → MgmtPort) : (s.updatePort f).changed = s.changed := rfl
@[simp] theorem updatePort_broughtBy (f : MgmtPort → MgmtPort) : (s.updatePort f).broughtBy = s.broughtBy := rfl

/-! Latch an ATTENTION bit: every other field stands. -/

@[simp] theorem latch_pending (b : Attention) : (s.latch b).pending = s.pending := rfl
@[simp] theorem latch_time (b : Attention) : (s.latch b).time = s.time := rfl
@[simp] theorem latch_held (b : Attention) : (s.latch b).held = s.held := rfl
@[simp] theorem latch_resetLine (b : Attention) : (s.latch b).resetLine = s.resetLine := rfl
@[simp] theorem latch_straps (b : Attention) : (s.latch b).straps = s.straps := rfl
@[simp] theorem latch_pins (b : Attention) : (s.latch b).pins = s.pins := rfl
@[simp] theorem latch_feedALow (b : Attention) : (s.latch b).feedALow = s.feedALow := rfl
@[simp] theorem latch_feedBLow (b : Attention) : (s.latch b).feedBLow = s.feedBLow := rfl
@[simp] theorem latch_debounceFrom (b : Attention) : (s.latch b).debounceFrom = s.debounceFrom := rfl
@[simp] theorem latch_cells (b : Attention) : (s.latch b).cells = s.cells := rfl
@[simp] theorem latch_mem (b : Attention) : (s.latch b).mem = s.mem := rfl
@[simp] theorem latch_shelfRevision (b : Attention) : (s.latch b).shelfRevision = s.shelfRevision := rfl
@[simp] theorem latch_pointer (b : Attention) : (s.latch b).pointer = s.pointer := rfl
@[simp] theorem latch_slots (b : Attention) : (s.latch b).slots = s.slots := rfl
@[simp] theorem latch_alloc (b : Attention) : (s.latch b).alloc = s.alloc := rfl
@[simp] theorem latch_power (b : Attention) : (s.latch b).power = s.power := rfl
@[simp] theorem latch_settings (b : Attention) : (s.latch b).settings = s.settings := rfl
@[simp] theorem latch_history (b : Attention) : (s.latch b).history = s.history := rfl
@[simp] theorem latch_ports (b : Attention) : (s.latch b).ports = s.ports := rfl
@[simp] theorem latch_engines (b : Attention) : (s.latch b).engines = s.engines := rfl
@[simp] theorem latch_journal (b : Attention) : (s.latch b).journal = s.journal := rfl
@[simp] theorem latch_work (b : Attention) : (s.latch b).work = s.work := rfl
@[simp] theorem latch_late (b : Attention) : (s.latch b).late = s.late := rfl
@[simp] theorem latch_shelfDirty (b : Attention) : (s.latch b).shelfDirty = s.shelfDirty := rfl
@[simp] theorem latch_changed (b : Attention) : (s.latch b).changed = s.changed := rfl
@[simp] theorem latch_broughtBy (b : Attention) : (s.latch b).broughtBy = s.broughtBy := rfl

end Sys2Proof.Machine
end

