-- ==== Sys2Proof/Laws/Reads.lean ====
section
/-! SUPPORT. What a slot, its payload power, its engine, a port, the raw inputs and a cell read after
an update of the state. -/

namespace Sys2Proof.Machine

variable (s : State)

/-! An update of one part leaves what the others read. -/

@[simp] theorem modSlot_pwr (i : SlotId) (f : Slot → Slot) (j : SlotId) : (s.modSlot i f).pwr j = s.pwr j := rfl
@[simp] theorem modSlot_engine (i : SlotId) (f : Slot → Slot) (j : SlotId) : (s.modSlot i f).engine j = s.engine j := rfl
@[simp] theorem modSlot_portOf (i : SlotId) (f : Slot → Slot) (q : PortId) : (s.modSlot i f).portOf q = s.portOf q := rfl
@[simp] theorem modSlot_pinsOf (i : SlotId) (f : Slot → Slot) (j : SlotId) : (s.modSlot i f).pinsOf j = s.pinsOf j := rfl
@[simp] theorem modSlot_timesOf (i : SlotId) (f : Slot → Slot) (j : SlotId) : (s.modSlot i f).timesOf j = s.timesOf j := rfl
@[simp] theorem modSlot_cell (i : SlotId) (f : Slot → Slot) (d : CellId) : (s.modSlot i f).cell d = s.cell d := rfl
@[simp] theorem modSlot_linkUp (i : SlotId) (f : Slot → Slot) (j : SlotId) : (s.modSlot i f).linkUp j = s.linkUp j := rfl
@[simp] theorem modSlot_rd8 (i : SlotId) (f : Slot → Slot) (d : CellId) (k : Nat) : (s.modSlot i f).rd8 d k = s.rd8 d k := rfl

@[simp] theorem modPower_slot (i : SlotId) (f : Power → Power) (j : SlotId) : (s.modPower i f).slot j = s.slot j := rfl
@[simp] theorem modPower_engine (i : SlotId) (f : Power → Power) (j : SlotId) : (s.modPower i f).engine j = s.engine j := rfl
@[simp] theorem modPower_portOf (i : SlotId) (f : Power → Power) (q : PortId) : (s.modPower i f).portOf q = s.portOf q := rfl
@[simp] theorem modPower_pinsOf (i : SlotId) (f : Power → Power) (j : SlotId) : (s.modPower i f).pinsOf j = s.pinsOf j := rfl
@[simp] theorem modPower_timesOf (i : SlotId) (f : Power → Power) (j : SlotId) : (s.modPower i f).timesOf j = s.timesOf j := rfl
@[simp] theorem modPower_cell (i : SlotId) (f : Power → Power) (d : CellId) : (s.modPower i f).cell d = s.cell d := rfl
@[simp] theorem modPower_linkUp (i : SlotId) (f : Power → Power) (j : SlotId) : (s.modPower i f).linkUp j = s.linkUp j := rfl
@[simp] theorem modPower_rd8 (i : SlotId) (f : Power → Power) (d : CellId) (k : Nat) : (s.modPower i f).rd8 d k = s.rd8 d k := rfl

@[simp] theorem modEngine_slot (i : SlotId) (f : Engine → Engine) (j : SlotId) : (s.modEngine i f).slot j = s.slot j := rfl
@[simp] theorem modEngine_pwr (i : SlotId) (f : Engine → Engine) (j : SlotId) : (s.modEngine i f).pwr j = s.pwr j := rfl
@[simp] theorem modEngine_portOf (i : SlotId) (f : Engine → Engine) (q : PortId) : (s.modEngine i f).portOf q = s.portOf q := rfl
@[simp] theorem modEngine_pinsOf (i : SlotId) (f : Engine → Engine) (j : SlotId) : (s.modEngine i f).pinsOf j = s.pinsOf j := rfl
@[simp] theorem modEngine_timesOf (i : SlotId) (f : Engine → Engine) (j : SlotId) : (s.modEngine i f).timesOf j = s.timesOf j := rfl
@[simp] theorem modEngine_cell (i : SlotId) (f : Engine → Engine) (d : CellId) : (s.modEngine i f).cell d = s.cell d := rfl
@[simp] theorem modEngine_rd8 (i : SlotId) (f : Engine → Engine) (d : CellId) (k : Nat) : (s.modEngine i f).rd8 d k = s.rd8 d k := rfl

@[simp] theorem modPort_slot (p : PortId) (f : Port → Port) (j : SlotId) : (s.modPort p f).slot j = s.slot j := rfl
@[simp] theorem modPort_pwr (p : PortId) (f : Port → Port) (j : SlotId) : (s.modPort p f).pwr j = s.pwr j := rfl
@[simp] theorem modPort_engine (p : PortId) (f : Port → Port) (j : SlotId) : (s.modPort p f).engine j = s.engine j := rfl
@[simp] theorem modPort_pinsOf (p : PortId) (f : Port → Port) (j : SlotId) : (s.modPort p f).pinsOf j = s.pinsOf j := rfl
@[simp] theorem modPort_timesOf (p : PortId) (f : Port → Port) (j : SlotId) : (s.modPort p f).timesOf j = s.timesOf j := rfl
@[simp] theorem modPort_cell (p : PortId) (f : Port → Port) (d : CellId) : (s.modPort p f).cell d = s.cell d := rfl
@[simp] theorem modPort_linkUp (p : PortId) (f : Port → Port) (j : SlotId) : (s.modPort p f).linkUp j = s.linkUp j := rfl
@[simp] theorem modPort_rd8 (p : PortId) (f : Port → Port) (d : CellId) (k : Nat) : (s.modPort p f).rd8 d k = s.rd8 d k := rfl

@[simp] theorem modPins_slot (i : SlotId) (f : SlotPins → SlotPins) (j : SlotId) : (s.modPins i f).slot j = s.slot j := rfl
@[simp] theorem modPins_pwr (i : SlotId) (f : SlotPins → SlotPins) (j : SlotId) : (s.modPins i f).pwr j = s.pwr j := rfl
@[simp] theorem modPins_engine (i : SlotId) (f : SlotPins → SlotPins) (j : SlotId) : (s.modPins i f).engine j = s.engine j := rfl
@[simp] theorem modPins_portOf (i : SlotId) (f : SlotPins → SlotPins) (q : PortId) : (s.modPins i f).portOf q = s.portOf q := rfl
@[simp] theorem modPins_timesOf (i : SlotId) (f : SlotPins → SlotPins) (j : SlotId) : (s.modPins i f).timesOf j = s.timesOf j := rfl
@[simp] theorem modPins_cell (i : SlotId) (f : SlotPins → SlotPins) (d : CellId) : (s.modPins i f).cell d = s.cell d := rfl
@[simp] theorem modPins_linkUp (i : SlotId) (f : SlotPins → SlotPins) (j : SlotId) : (s.modPins i f).linkUp j = s.linkUp j := rfl
@[simp] theorem modPins_rd8 (i : SlotId) (f : SlotPins → SlotPins) (d : CellId) (k : Nat) : (s.modPins i f).rd8 d k = s.rd8 d k := rfl

@[simp] theorem modTimes_slot (i : SlotId) (f : InputTimes → InputTimes) (j : SlotId) : (s.modTimes i f).slot j = s.slot j := rfl
@[simp] theorem modTimes_pwr (i : SlotId) (f : InputTimes → InputTimes) (j : SlotId) : (s.modTimes i f).pwr j = s.pwr j := rfl
@[simp] theorem modTimes_engine (i : SlotId) (f : InputTimes → InputTimes) (j : SlotId) : (s.modTimes i f).engine j = s.engine j := rfl
@[simp] theorem modTimes_portOf (i : SlotId) (f : InputTimes → InputTimes) (q : PortId) : (s.modTimes i f).portOf q = s.portOf q := rfl
@[simp] theorem modTimes_pinsOf (i : SlotId) (f : InputTimes → InputTimes) (j : SlotId) : (s.modTimes i f).pinsOf j = s.pinsOf j := rfl
@[simp] theorem modTimes_cell (i : SlotId) (f : InputTimes → InputTimes) (d : CellId) : (s.modTimes i f).cell d = s.cell d := rfl
@[simp] theorem modTimes_linkUp (i : SlotId) (f : InputTimes → InputTimes) (j : SlotId) : (s.modTimes i f).linkUp j = s.linkUp j := rfl
@[simp] theorem modTimes_rd8 (i : SlotId) (f : InputTimes → InputTimes) (d : CellId) (k : Nat) : (s.modTimes i f).rd8 d k = s.rd8 d k := rfl

@[simp] theorem setCell_slot (c : CellId) (x : CellState) (j : SlotId) : (s.setCell c x).slot j = s.slot j := rfl
@[simp] theorem setCell_pwr (c : CellId) (x : CellState) (j : SlotId) : (s.setCell c x).pwr j = s.pwr j := rfl
@[simp] theorem setCell_engine (c : CellId) (x : CellState) (j : SlotId) : (s.setCell c x).engine j = s.engine j := rfl
@[simp] theorem setCell_portOf (c : CellId) (x : CellState) (q : PortId) : (s.setCell c x).portOf q = s.portOf q := rfl
@[simp] theorem setCell_pinsOf (c : CellId) (x : CellState) (j : SlotId) : (s.setCell c x).pinsOf j = s.pinsOf j := rfl
@[simp] theorem setCell_timesOf (c : CellId) (x : CellState) (j : SlotId) : (s.setCell c x).timesOf j = s.timesOf j := rfl
@[simp] theorem setCell_linkUp (c : CellId) (x : CellState) (j : SlotId) : (s.setCell c x).linkUp j = s.linkUp j := rfl
@[simp] theorem setCell_rd8 (c : CellId) (x : CellState) (d : CellId) (k : Nat) : (s.setCell c x).rd8 d k = s.rd8 d k := rfl

@[simp] theorem modAlloc_slot (f : Allocator → Allocator) (j : SlotId) : (s.modAlloc f).slot j = s.slot j := rfl
@[simp] theorem modAlloc_pwr (f : Allocator → Allocator) (j : SlotId) : (s.modAlloc f).pwr j = s.pwr j := rfl
@[simp] theorem modAlloc_engine (f : Allocator → Allocator) (j : SlotId) : (s.modAlloc f).engine j = s.engine j := rfl
@[simp] theorem modAlloc_portOf (f : Allocator → Allocator) (q : PortId) : (s.modAlloc f).portOf q = s.portOf q := rfl
@[simp] theorem modAlloc_pinsOf (f : Allocator → Allocator) (j : SlotId) : (s.modAlloc f).pinsOf j = s.pinsOf j := rfl
@[simp] theorem modAlloc_timesOf (f : Allocator → Allocator) (j : SlotId) : (s.modAlloc f).timesOf j = s.timesOf j := rfl
@[simp] theorem modAlloc_cell (f : Allocator → Allocator) (d : CellId) : (s.modAlloc f).cell d = s.cell d := rfl
@[simp] theorem modAlloc_linkUp (f : Allocator → Allocator) (j : SlotId) : (s.modAlloc f).linkUp j = s.linkUp j := rfl
@[simp] theorem modAlloc_rd8 (f : Allocator → Allocator) (d : CellId) (k : Nat) : (s.modAlloc f).rd8 d k = s.rd8 d k := rfl

@[simp] theorem touchShelf_slot (j : SlotId) : (s.touchShelf).slot j = s.slot j := rfl
@[simp] theorem touchShelf_pwr (j : SlotId) : (s.touchShelf).pwr j = s.pwr j := rfl
@[simp] theorem touchShelf_engine (j : SlotId) : (s.touchShelf).engine j = s.engine j := rfl
@[simp] theorem touchShelf_portOf (q : PortId) : (s.touchShelf).portOf q = s.portOf q := rfl
@[simp] theorem touchShelf_pinsOf (j : SlotId) : (s.touchShelf).pinsOf j = s.pinsOf j := rfl
@[simp] theorem touchShelf_timesOf (j : SlotId) : (s.touchShelf).timesOf j = s.timesOf j := rfl
@[simp] theorem touchShelf_cell (d : CellId) : (s.touchShelf).cell d = s.cell d := rfl
@[simp] theorem touchShelf_linkUp (j : SlotId) : (s.touchShelf).linkUp j = s.linkUp j := rfl
@[simp] theorem touchShelf_rd8 (d : CellId) (k : Nat) : (s.touchShelf).rd8 d k = s.rd8 d k := rfl

@[simp] theorem raise_slot (js : List Job) (j : SlotId) : (s.raise js).slot j = s.slot j := rfl
@[simp] theorem raise_pwr (js : List Job) (j : SlotId) : (s.raise js).pwr j = s.pwr j := rfl
@[simp] theorem raise_engine (js : List Job) (j : SlotId) : (s.raise js).engine j = s.engine j := rfl
@[simp] theorem raise_portOf (js : List Job) (q : PortId) : (s.raise js).portOf q = s.portOf q := rfl
@[simp] theorem raise_pinsOf (js : List Job) (j : SlotId) : (s.raise js).pinsOf j = s.pinsOf j := rfl
@[simp] theorem raise_timesOf (js : List Job) (j : SlotId) : (s.raise js).timesOf j = s.timesOf j := rfl
@[simp] theorem raise_cell (js : List Job) (d : CellId) : (s.raise js).cell d = s.cell d := rfl
@[simp] theorem raise_linkUp (js : List Job) (j : SlotId) : (s.raise js).linkUp j = s.linkUp j := rfl
@[simp] theorem raise_rd8 (js : List Job) (d : CellId) (k : Nat) : (s.raise js).rd8 d k = s.rd8 d k := rfl

@[simp] theorem testLate_slot (i : SlotId) (j : SlotId) : (s.testLate i).slot j = s.slot j := rfl
@[simp] theorem testLate_pwr (i : SlotId) (j : SlotId) : (s.testLate i).pwr j = s.pwr j := rfl
@[simp] theorem testLate_engine (i : SlotId) (j : SlotId) : (s.testLate i).engine j = s.engine j := rfl
@[simp] theorem testLate_portOf (i : SlotId) (q : PortId) : (s.testLate i).portOf q = s.portOf q := rfl
@[simp] theorem testLate_pinsOf (i : SlotId) (j : SlotId) : (s.testLate i).pinsOf j = s.pinsOf j := rfl
@[simp] theorem testLate_timesOf (i : SlotId) (j : SlotId) : (s.testLate i).timesOf j = s.timesOf j := rfl
@[simp] theorem testLate_cell (i : SlotId) (d : CellId) : (s.testLate i).cell d = s.cell d := rfl
@[simp] theorem testLate_linkUp (i : SlotId) (j : SlotId) : (s.testLate i).linkUp j = s.linkUp j := rfl
@[simp] theorem testLate_rd8 (i : SlotId) (d : CellId) (k : Nat) : (s.testLate i).rd8 d k = s.rd8 d k := rfl

@[simp] theorem onBehalf_slot (c : CellId) (j : SlotId) : (s.onBehalf c).slot j = s.slot j := rfl
@[simp] theorem onBehalf_pwr (c : CellId) (j : SlotId) : (s.onBehalf c).pwr j = s.pwr j := rfl
@[simp] theorem onBehalf_engine (c : CellId) (j : SlotId) : (s.onBehalf c).engine j = s.engine j := rfl
@[simp] theorem onBehalf_portOf (c : CellId) (q : PortId) : (s.onBehalf c).portOf q = s.portOf q := rfl
@[simp] theorem onBehalf_pinsOf (c : CellId) (j : SlotId) : (s.onBehalf c).pinsOf j = s.pinsOf j := rfl
@[simp] theorem onBehalf_timesOf (c : CellId) (j : SlotId) : (s.onBehalf c).timesOf j = s.timesOf j := rfl
@[simp] theorem onBehalf_cell (c : CellId) (d : CellId) : (s.onBehalf c).cell d = s.cell d := rfl
@[simp] theorem onBehalf_linkUp (c : CellId) (j : SlotId) : (s.onBehalf c).linkUp j = s.linkUp j := rfl
@[simp] theorem onBehalf_rd8 (c : CellId) (d : CellId) (k : Nat) : (s.onBehalf c).rd8 d k = s.rd8 d k := rfl

@[simp] theorem updatePort_slot (f : MgmtPort → MgmtPort) (j : SlotId) : (s.updatePort f).slot j = s.slot j := rfl
@[simp] theorem updatePort_pwr (f : MgmtPort → MgmtPort) (j : SlotId) : (s.updatePort f).pwr j = s.pwr j := rfl
@[simp] theorem updatePort_engine (f : MgmtPort → MgmtPort) (j : SlotId) : (s.updatePort f).engine j = s.engine j := rfl
@[simp] theorem updatePort_portOf (f : MgmtPort → MgmtPort) (q : PortId) : (s.updatePort f).portOf q = s.portOf q := rfl
@[simp] theorem updatePort_pinsOf (f : MgmtPort → MgmtPort) (j : SlotId) : (s.updatePort f).pinsOf j = s.pinsOf j := rfl
@[simp] theorem updatePort_timesOf (f : MgmtPort → MgmtPort) (j : SlotId) : (s.updatePort f).timesOf j = s.timesOf j := rfl
@[simp] theorem updatePort_cell (f : MgmtPort → MgmtPort) (d : CellId) : (s.updatePort f).cell d = s.cell d := rfl
@[simp] theorem updatePort_linkUp (f : MgmtPort → MgmtPort) (j : SlotId) : (s.updatePort f).linkUp j = s.linkUp j := rfl
@[simp] theorem updatePort_rd8 (f : MgmtPort → MgmtPort) (d : CellId) (k : Nat) : (s.updatePort f).rd8 d k = s.rd8 d k := rfl

@[simp] theorem latch_slot (b : Attention) (j : SlotId) : (s.latch b).slot j = s.slot j := rfl
@[simp] theorem latch_pwr (b : Attention) (j : SlotId) : (s.latch b).pwr j = s.pwr j := rfl
@[simp] theorem latch_engine (b : Attention) (j : SlotId) : (s.latch b).engine j = s.engine j := rfl
@[simp] theorem latch_portOf (b : Attention) (q : PortId) : (s.latch b).portOf q = s.portOf q := rfl
@[simp] theorem latch_pinsOf (b : Attention) (j : SlotId) : (s.latch b).pinsOf j = s.pinsOf j := rfl
@[simp] theorem latch_timesOf (b : Attention) (j : SlotId) : (s.latch b).timesOf j = s.timesOf j := rfl
@[simp] theorem latch_cell (b : Attention) (d : CellId) : (s.latch b).cell d = s.cell d := rfl
@[simp] theorem latch_linkUp (b : Attention) (j : SlotId) : (s.latch b).linkUp j = s.linkUp j := rfl
@[simp] theorem latch_rd8 (b : Attention) (d : CellId) (k : Nat) : (s.latch b).rd8 d k = s.rd8 d k := rfl

/-! An update reads back where it was made, and leaves the other places. -/

theorem modSlot_slot_eq (i j : SlotId) (f : Slot → Slot) :
    (s.modSlot i f).slot j = if j = i then f (s.slot i) else s.slot j := by
  by_cases h : j = i
  · subst h; simp [State.modSlot, State.slot]
  · have h' : i.val ≠ j.val := fun e => h (Fin.ext e.symm)
    simp [State.modSlot, State.slot, h, Vector.getElem_set_ne _ _ h']

@[simp] theorem modSlot_slot_self (i : SlotId) (f : Slot → Slot) :
    (s.modSlot i f).slot i = f (s.slot i) := by rw [modSlot_slot_eq, if_pos rfl]

@[simp] theorem modSlot_slot_ne (i j : SlotId) (f : Slot → Slot) (h : j ≠ i) :
    (s.modSlot i f).slot j = s.slot j := by rw [modSlot_slot_eq, if_neg h]

theorem modPower_pwr_eq (i j : SlotId) (f : Power → Power) :
    (s.modPower i f).pwr j = if j = i then f (s.pwr i) else s.pwr j := by
  by_cases h : j = i
  · subst h; simp [State.modPower, State.pwr]
  · have h' : i.val ≠ j.val := fun e => h (Fin.ext e.symm)
    simp [State.modPower, State.pwr, h, Vector.getElem_set_ne _ _ h']

@[simp] theorem modPower_pwr_self (i : SlotId) (f : Power → Power) :
    (s.modPower i f).pwr i = f (s.pwr i) := by rw [modPower_pwr_eq, if_pos rfl]

@[simp] theorem modPower_pwr_ne (i j : SlotId) (f : Power → Power) (h : j ≠ i) :
    (s.modPower i f).pwr j = s.pwr j := by rw [modPower_pwr_eq, if_neg h]

theorem modEngine_engine_eq (i j : SlotId) (f : Engine → Engine) :
    (s.modEngine i f).engine j = if j = i then f (s.engine i) else s.engine j := by
  by_cases h : j = i
  · subst h; simp [State.modEngine, State.engine]
  · have h' : i.val ≠ j.val := fun e => h (Fin.ext e.symm)
    simp [State.modEngine, State.engine, h, Vector.getElem_set_ne _ _ h']

@[simp] theorem modEngine_engine_self (i : SlotId) (f : Engine → Engine) :
    (s.modEngine i f).engine i = f (s.engine i) := by rw [modEngine_engine_eq, if_pos rfl]

@[simp] theorem modEngine_engine_ne (i j : SlotId) (f : Engine → Engine) (h : j ≠ i) :
    (s.modEngine i f).engine j = s.engine j := by rw [modEngine_engine_eq, if_neg h]

theorem modPins_pinsOf_eq (i j : SlotId) (f : SlotPins → SlotPins) :
    (s.modPins i f).pinsOf j = if j = i then f (s.pinsOf i) else s.pinsOf j := by
  by_cases h : j = i
  · subst h; simp [State.modPins, State.pinsOf]
  · have h' : i.val ≠ j.val := fun e => h (Fin.ext e.symm)
    simp [State.modPins, State.pinsOf, h, Vector.getElem_set_ne _ _ h']

@[simp] theorem modPins_pinsOf_self (i : SlotId) (f : SlotPins → SlotPins) :
    (s.modPins i f).pinsOf i = f (s.pinsOf i) := by rw [modPins_pinsOf_eq, if_pos rfl]

@[simp] theorem modPins_pinsOf_ne (i j : SlotId) (f : SlotPins → SlotPins) (h : j ≠ i) :
    (s.modPins i f).pinsOf j = s.pinsOf j := by rw [modPins_pinsOf_eq, if_neg h]

theorem modTimes_timesOf_eq (i j : SlotId) (f : InputTimes → InputTimes) :
    (s.modTimes i f).timesOf j = if j = i then f (s.timesOf i) else s.timesOf j := by
  by_cases h : j = i
  · subst h; simp [State.modTimes, State.timesOf]
  · have h' : i.val ≠ j.val := fun e => h (Fin.ext e.symm)
    simp [State.modTimes, State.timesOf, h, Vector.getElem_set_ne _ _ h']

@[simp] theorem modTimes_timesOf_self (i : SlotId) (f : InputTimes → InputTimes) :
    (s.modTimes i f).timesOf i = f (s.timesOf i) := by rw [modTimes_timesOf_eq, if_pos rfl]

@[simp] theorem modTimes_timesOf_ne (i j : SlotId) (f : InputTimes → InputTimes) (h : j ≠ i) :
    (s.modTimes i f).timesOf j = s.timesOf j := by rw [modTimes_timesOf_eq, if_neg h]

/-- Two ports with one place in the Port Map are one port. -/
theorem portIndex_inj {p q : PortId} (h : portIndex p = portIndex q) : p = q := by
  obtain ⟨n, b⟩ := p
  obtain ⟨m, d⟩ := q
  have h1 : 2 * n.val + b.val = 2 * m.val + d.val := congrArg Fin.val h
  have h2 := b.isLt
  have h3 := d.isLt
  have h4 : n = m := Fin.ext (by omega)
  have h5 : b = d := Fin.ext (by omega)
  rw [h4, h5]

theorem modPort_portOf_eq (p q : PortId) (f : Port → Port) :
    (s.modPort p f).portOf q = if q = p then f (s.portOf p) else s.portOf q := by
  by_cases h : q = p
  · subst h; simp [State.modPort, State.portOf, State.testLate]
  · have h' : (portIndex p).val ≠ (portIndex q).val := fun e => h (portIndex_inj (Fin.ext e.symm))
    simp [State.modPort, State.portOf, State.testLate, h, Vector.getElem_set_ne _ _ h']

@[simp] theorem modPort_portOf_self (p : PortId) (f : Port → Port) :
    (s.modPort p f).portOf p = f (s.portOf p) := by rw [modPort_portOf_eq, if_pos rfl]

@[simp] theorem modPort_portOf_ne (p q : PortId) (f : Port → Port) (h : q ≠ p) :
    (s.modPort p f).portOf q = s.portOf q := by rw [modPort_portOf_eq, if_neg h]

theorem setCell_cell_eq (c d : CellId) (x : CellState) :
    (s.setCell c x).cell d = if d = c then x else s.cell d := by
  by_cases h : d = c
  · subst h; simp [State.setCell, State.cell]
  · have h' : c.val ≠ d.val := fun e => h (Fin.ext e.symm)
    simp [State.setCell, State.cell, h, Vector.getElem_set_ne _ _ h']

@[simp] theorem setCell_cell_self (c : CellId) (x : CellState) : (s.setCell c x).cell c = x := by
  rw [setCell_cell_eq, if_pos rfl]

@[simp] theorem setCell_cell_ne (c d : CellId) (x : CellState) (h : d ≠ c) :
    (s.setCell c x).cell d = s.cell d := by rw [setCell_cell_eq, if_neg h]

@[simp] theorem modAlloc_alloc (f : Allocator → Allocator) : (s.modAlloc f).alloc = f s.alloc := rfl

@[simp] theorem raise_work (js : List Job) : (s.raise js).work = s.work ++ js.map fun j => ⟨j, s.broughtBy⟩ := rfl

@[simp] theorem touchShelf_shelfDirty : s.touchShelf.shelfDirty = true := rfl

/-- An update by the identity changes nothing. -/
@[simp] theorem modSlot_id (i : SlotId) : s.modSlot i (fun x => x) = s := by
  simp [State.modSlot, State.slot]

@[simp] theorem raise_nil : s.raise [] = s := by simp [State.raise]

end Sys2Proof.Machine
end

