-- ==== Sys2Proof/Laws/Frames.lean ====
section
/-! SUPPORT. What the shared operations leave unchanged: one lemma for each operation, whose parts are
the fields it leaves and what is read of them. -/

namespace Sys2Proof.Machine

variable (s : State)

/-! Equal fields read the same. -/

theorem slot_congr {s t : State} (h : t.slots = s.slots) (j : SlotId) : t.slot j = s.slot j := by
  unfold State.slot; rw [h]

theorem pwr_congr {s t : State} (h : t.power = s.power) (j : SlotId) : t.pwr j = s.pwr j := by
  unfold State.pwr; rw [h]

theorem engine_congr {s t : State} (h : t.engines = s.engines) (j : SlotId) :
    t.engine j = s.engine j := by unfold State.engine; rw [h]

theorem linkUp_congr {s t : State} (h : t.engines = s.engines) (j : SlotId) :
    t.linkUp j = s.linkUp j := by unfold State.linkUp; rw [engine_congr h]

theorem portOf_congr {s t : State} (h : t.ports = s.ports) (q : PortId) :
    t.portOf q = s.portOf q := by unfold State.portOf; rw [h]

theorem pinsOf_congr {s t : State} (h : t.pins = s.pins) (j : SlotId) :
    t.pinsOf j = s.pinsOf j := by unfold State.pinsOf; rw [h]

theorem cell_congr {s t : State} (h : t.cells = s.cells) (k : CellId) : t.cell k = s.cell k := by
  unfold State.cell; rw [h]

/-! The operations. -/

@[simp] theorem writeNotice_frame (n : Notice) :
    (writeNotice n s).pending = s.pending ∧ (writeNotice n s).time = s.time ∧
    (writeNotice n s).held = s.held ∧ (writeNotice n s).resetLine = s.resetLine ∧
    (writeNotice n s).straps = s.straps ∧ (writeNotice n s).pins = s.pins ∧
    (writeNotice n s).feedALow = s.feedALow ∧ (writeNotice n s).feedBLow = s.feedBLow ∧
    (writeNotice n s).debounceFrom = s.debounceFrom ∧ (writeNotice n s).cells = s.cells ∧
    (writeNotice n s).mem = s.mem ∧ (writeNotice n s).pointer = s.pointer ∧
    (writeNotice n s).slots = s.slots ∧ (writeNotice n s).alloc = s.alloc ∧
    (writeNotice n s).power = s.power ∧ (writeNotice n s).settings = s.settings ∧
    (writeNotice n s).history = s.history ∧ (writeNotice n s).ports = s.ports ∧
    (writeNotice n s).engines = s.engines ∧ (writeNotice n s).work = s.work ∧
    (writeNotice n s).late = s.late ∧ (writeNotice n s).shelfDirty = s.shelfDirty ∧
    (writeNotice n s).changed = s.changed ∧ (writeNotice n s).broughtBy = s.broughtBy := by simp [Machine.writeNotice]

@[simp] theorem foldNotice_frame (n : Notice) :
    (foldNotice n s).pending = s.pending ∧ (foldNotice n s).time = s.time ∧
    (foldNotice n s).held = s.held ∧ (foldNotice n s).resetLine = s.resetLine ∧
    (foldNotice n s).straps = s.straps ∧ (foldNotice n s).pins = s.pins ∧
    (foldNotice n s).feedALow = s.feedALow ∧ (foldNotice n s).feedBLow = s.feedBLow ∧
    (foldNotice n s).debounceFrom = s.debounceFrom ∧ (foldNotice n s).cells = s.cells ∧
    (foldNotice n s).mem = s.mem ∧ (foldNotice n s).pointer = s.pointer ∧
    (foldNotice n s).slots = s.slots ∧ (foldNotice n s).alloc = s.alloc ∧
    (foldNotice n s).power = s.power ∧ (foldNotice n s).settings = s.settings ∧
    (foldNotice n s).history = s.history ∧ (foldNotice n s).ports = s.ports ∧
    (foldNotice n s).engines = s.engines ∧ (foldNotice n s).work = s.work ∧
    (foldNotice n s).late = s.late ∧ (foldNotice n s).shelfDirty = s.shelfDirty ∧
    (foldNotice n s).changed = s.changed ∧ (foldNotice n s).broughtBy = s.broughtBy := by
  unfold Machine.foldNotice
  dsimp only
  split <;> simp

@[simp] theorem roomTest_frame :
    (roomTest s).pending = s.pending ∧ (roomTest s).time = s.time ∧ (roomTest s).held = s.held ∧
    (roomTest s).resetLine = s.resetLine ∧ (roomTest s).straps = s.straps ∧
    (roomTest s).pins = s.pins ∧ (roomTest s).feedALow = s.feedALow ∧
    (roomTest s).feedBLow = s.feedBLow ∧ (roomTest s).debounceFrom = s.debounceFrom ∧
    (roomTest s).cells = s.cells ∧ (roomTest s).mem = s.mem ∧ (roomTest s).pointer = s.pointer ∧
    (roomTest s).slots = s.slots ∧ (roomTest s).alloc = s.alloc ∧ (roomTest s).power = s.power ∧
    (roomTest s).settings = s.settings ∧ (roomTest s).history = s.history ∧
    (roomTest s).ports = s.ports ∧ (roomTest s).engines = s.engines ∧ (roomTest s).work = s.work ∧
    (roomTest s).late = s.late ∧ (roomTest s).shelfDirty = s.shelfDirty ∧
    (roomTest s).changed = s.changed ∧ (roomTest s).broughtBy = s.broughtBy := by
  unfold Machine.roomTest
  split <;> simp

@[simp] theorem takeNotice_frame (n : Notice) :
    (takeNotice n s).pending = s.pending ∧ (takeNotice n s).time = s.time ∧
    (takeNotice n s).held = s.held ∧ (takeNotice n s).resetLine = s.resetLine ∧
    (takeNotice n s).straps = s.straps ∧ (takeNotice n s).pins = s.pins ∧
    (takeNotice n s).feedALow = s.feedALow ∧ (takeNotice n s).feedBLow = s.feedBLow ∧
    (takeNotice n s).debounceFrom = s.debounceFrom ∧ (takeNotice n s).cells = s.cells ∧
    (takeNotice n s).mem = s.mem ∧ (takeNotice n s).pointer = s.pointer ∧
    (takeNotice n s).slots = s.slots ∧ (takeNotice n s).alloc = s.alloc ∧
    (takeNotice n s).power = s.power ∧ (takeNotice n s).settings = s.settings ∧
    (takeNotice n s).history = s.history ∧ (takeNotice n s).ports = s.ports ∧
    (takeNotice n s).engines = s.engines ∧ (takeNotice n s).work = s.work ∧
    (takeNotice n s).late = s.late ∧ (takeNotice n s).shelfDirty = s.shelfDirty ∧
    (takeNotice n s).changed = s.changed ∧ (takeNotice n s).broughtBy = s.broughtBy := by
  unfold Machine.takeNotice
  split <;> simp

@[simp] theorem handNotice_frame (n : Notice) :
    (handNotice n s).pending = s.pending ∧ (handNotice n s).time = s.time ∧
    (handNotice n s).held = s.held ∧ (handNotice n s).resetLine = s.resetLine ∧
    (handNotice n s).straps = s.straps ∧ (handNotice n s).pins = s.pins ∧
    (handNotice n s).feedALow = s.feedALow ∧ (handNotice n s).feedBLow = s.feedBLow ∧
    (handNotice n s).debounceFrom = s.debounceFrom ∧ (handNotice n s).cells = s.cells ∧
    (handNotice n s).mem = s.mem ∧ (handNotice n s).pointer = s.pointer ∧
    (handNotice n s).slots = s.slots ∧ (handNotice n s).alloc = s.alloc ∧
    (handNotice n s).power = s.power ∧ (handNotice n s).settings = s.settings ∧
    (handNotice n s).history = s.history ∧ (handNotice n s).ports = s.ports ∧
    (handNotice n s).engines = s.engines ∧ (handNotice n s).work = s.work ∧
    (handNotice n s).late = s.late ∧ (handNotice n s).shelfDirty = s.shelfDirty ∧
    (handNotice n s).changed = s.changed ∧ (handNotice n s).broughtBy = s.broughtBy := by simp [Machine.handNotice]

@[simp] theorem portNotice_frame (p : PortId) (d : PortDetail) (st : PortState) :
    (portNotice p d st s).pending = s.pending ∧ (portNotice p d st s).time = s.time ∧
    (portNotice p d st s).held = s.held ∧ (portNotice p d st s).resetLine = s.resetLine ∧
    (portNotice p d st s).straps = s.straps ∧ (portNotice p d st s).pins = s.pins ∧
    (portNotice p d st s).feedALow = s.feedALow ∧ (portNotice p d st s).feedBLow = s.feedBLow ∧
    (portNotice p d st s).debounceFrom = s.debounceFrom ∧ (portNotice p d st s).cells = s.cells ∧
    (portNotice p d st s).mem = s.mem ∧ (portNotice p d st s).pointer = s.pointer ∧
    (portNotice p d st s).slots = s.slots ∧ (portNotice p d st s).alloc = s.alloc ∧
    (portNotice p d st s).power = s.power ∧ (portNotice p d st s).settings = s.settings ∧
    (portNotice p d st s).history = s.history ∧ (portNotice p d st s).ports = s.ports ∧
    (portNotice p d st s).engines = s.engines ∧ (portNotice p d st s).work = s.work ∧
    (portNotice p d st s).late = s.late ∧ (portNotice p d st s).shelfDirty = s.shelfDirty ∧
    (portNotice p d st s).changed = s.changed ∧ (portNotice p d st s).broughtBy = s.broughtBy := by simp [Machine.portNotice]

@[simp] theorem linkNotice_frame (i : SlotId) (b : Bool) :
    (linkNotice i b s).pending = s.pending ∧ (linkNotice i b s).time = s.time ∧
    (linkNotice i b s).held = s.held ∧ (linkNotice i b s).resetLine = s.resetLine ∧
    (linkNotice i b s).straps = s.straps ∧ (linkNotice i b s).pins = s.pins ∧
    (linkNotice i b s).feedALow = s.feedALow ∧ (linkNotice i b s).feedBLow = s.feedBLow ∧
    (linkNotice i b s).debounceFrom = s.debounceFrom ∧ (linkNotice i b s).cells = s.cells ∧
    (linkNotice i b s).mem = s.mem ∧ (linkNotice i b s).pointer = s.pointer ∧
    (linkNotice i b s).slots = s.slots ∧ (linkNotice i b s).alloc = s.alloc ∧
    (linkNotice i b s).power = s.power ∧ (linkNotice i b s).settings = s.settings ∧
    (linkNotice i b s).history = s.history ∧ (linkNotice i b s).ports = s.ports ∧
    (linkNotice i b s).engines = s.engines ∧ (linkNotice i b s).work = s.work ∧
    (linkNotice i b s).late = s.late ∧ (linkNotice i b s).shelfDirty = s.shelfDirty ∧
    (linkNotice i b s).changed = s.changed ∧ (linkNotice i b s).broughtBy = s.broughtBy := by simp [Machine.linkNotice]

@[simp] theorem handResumed_frame (i : SlotId) (d : ResumedDetail) :
    (handResumed i d s).pending = s.pending ∧ (handResumed i d s).time = s.time ∧
    (handResumed i d s).held = s.held ∧ (handResumed i d s).resetLine = s.resetLine ∧
    (handResumed i d s).straps = s.straps ∧ (handResumed i d s).pins = s.pins ∧
    (handResumed i d s).feedALow = s.feedALow ∧ (handResumed i d s).feedBLow = s.feedBLow ∧
    (handResumed i d s).debounceFrom = s.debounceFrom ∧ (handResumed i d s).cells = s.cells ∧
    (handResumed i d s).mem = s.mem ∧ (handResumed i d s).pointer = s.pointer ∧
    (handResumed i d s).slots = s.slots ∧ (handResumed i d s).alloc = s.alloc ∧
    (handResumed i d s).power = s.power ∧ (handResumed i d s).settings = s.settings ∧
    (handResumed i d s).history = s.history ∧ (handResumed i d s).ports = s.ports ∧
    (handResumed i d s).engines = s.engines ∧ (handResumed i d s).work = s.work ∧
    (handResumed i d s).late = s.late ∧ (handResumed i d s).shelfDirty = s.shelfDirty ∧
    (handResumed i d s).changed = s.changed ∧ (handResumed i d s).broughtBy = s.broughtBy := by simp [Machine.handResumed]

@[simp] theorem serveLink_frame (i : SlotId) :
    (serveLink i s).pending = s.pending ∧ (serveLink i s).time = s.time ∧
    (serveLink i s).held = s.held ∧ (serveLink i s).resetLine = s.resetLine ∧
    (serveLink i s).straps = s.straps ∧ (serveLink i s).pins = s.pins ∧
    (serveLink i s).feedALow = s.feedALow ∧ (serveLink i s).feedBLow = s.feedBLow ∧
    (serveLink i s).debounceFrom = s.debounceFrom ∧ (serveLink i s).port = s.port ∧
    (serveLink i s).cells = s.cells ∧ (serveLink i s).mem = s.mem ∧
    (serveLink i s).shelfRevision = s.shelfRevision ∧ (serveLink i s).pointer = s.pointer ∧
    (serveLink i s).slots = s.slots ∧ (serveLink i s).alloc = s.alloc ∧
    (serveLink i s).power = s.power ∧ (serveLink i s).settings = s.settings ∧
    (serveLink i s).history = s.history ∧ (serveLink i s).ports = s.ports ∧
    (serveLink i s).journal = s.journal ∧ (serveLink i s).work = s.work ∧
    (serveLink i s).late = s.late ∧ (serveLink i s).shelfDirty = s.shelfDirty ∧
    (serveLink i s).changed = s.changed ∧ (serveLink i s).broughtBy = s.broughtBy := by simp [Machine.serveLink]

@[simp] theorem enqueue_frame (i : SlotId) (m : Msg) (b : Placer) :
    (enqueue i m b s).pending = s.pending ∧ (enqueue i m b s).time = s.time ∧
    (enqueue i m b s).held = s.held ∧ (enqueue i m b s).resetLine = s.resetLine ∧
    (enqueue i m b s).straps = s.straps ∧ (enqueue i m b s).pins = s.pins ∧
    (enqueue i m b s).feedALow = s.feedALow ∧ (enqueue i m b s).feedBLow = s.feedBLow ∧
    (enqueue i m b s).debounceFrom = s.debounceFrom ∧ (enqueue i m b s).port = s.port ∧
    (enqueue i m b s).cells = s.cells ∧ (enqueue i m b s).mem = s.mem ∧
    (enqueue i m b s).shelfRevision = s.shelfRevision ∧ (enqueue i m b s).pointer = s.pointer ∧
    (enqueue i m b s).slots = s.slots ∧ (enqueue i m b s).alloc = s.alloc ∧
    (enqueue i m b s).power = s.power ∧ (enqueue i m b s).settings = s.settings ∧
    (enqueue i m b s).history = s.history ∧ (enqueue i m b s).ports = s.ports ∧
    (enqueue i m b s).journal = s.journal ∧ (enqueue i m b s).work = s.work ∧
    (enqueue i m b s).late = s.late ∧ (enqueue i m b s).shelfDirty = s.shelfDirty ∧
    (enqueue i m b s).changed = s.changed ∧ (enqueue i m b s).broughtBy = s.broughtBy := by simp [Machine.enqueue]

@[simp] theorem putBack_frame (i : SlotId) (ms : Nat) :
    (putBack i ms s).pending = s.pending ∧ (putBack i ms s).time = s.time ∧
    (putBack i ms s).held = s.held ∧ (putBack i ms s).resetLine = s.resetLine ∧
    (putBack i ms s).straps = s.straps ∧ (putBack i ms s).pins = s.pins ∧
    (putBack i ms s).feedALow = s.feedALow ∧ (putBack i ms s).feedBLow = s.feedBLow ∧
    (putBack i ms s).debounceFrom = s.debounceFrom ∧ (putBack i ms s).port = s.port ∧
    (putBack i ms s).cells = s.cells ∧ (putBack i ms s).mem = s.mem ∧
    (putBack i ms s).shelfRevision = s.shelfRevision ∧ (putBack i ms s).pointer = s.pointer ∧
    (putBack i ms s).slots = s.slots ∧ (putBack i ms s).alloc = s.alloc ∧
    (putBack i ms s).power = s.power ∧ (putBack i ms s).settings = s.settings ∧
    (putBack i ms s).history = s.history ∧ (putBack i ms s).ports = s.ports ∧
    (putBack i ms s).journal = s.journal ∧ (putBack i ms s).work = s.work ∧
    (putBack i ms s).late = s.late ∧ (putBack i ms s).shelfDirty = s.shelfDirty ∧
    (putBack i ms s).changed = s.changed ∧ (putBack i ms s).broughtBy = s.broughtBy := by simp [Machine.putBack]

@[simp] theorem endMessages_frame (i : SlotId) (p : Msg → Bool) :
    (endMessages i p s).pending = s.pending ∧ (endMessages i p s).time = s.time ∧
    (endMessages i p s).held = s.held ∧ (endMessages i p s).resetLine = s.resetLine ∧
    (endMessages i p s).straps = s.straps ∧ (endMessages i p s).pins = s.pins ∧
    (endMessages i p s).feedALow = s.feedALow ∧ (endMessages i p s).feedBLow = s.feedBLow ∧
    (endMessages i p s).debounceFrom = s.debounceFrom ∧ (endMessages i p s).port = s.port ∧
    (endMessages i p s).cells = s.cells ∧ (endMessages i p s).mem = s.mem ∧
    (endMessages i p s).shelfRevision = s.shelfRevision ∧
    (endMessages i p s).pointer = s.pointer ∧ (endMessages i p s).slots = s.slots ∧
    (endMessages i p s).alloc = s.alloc ∧ (endMessages i p s).power = s.power ∧
    (endMessages i p s).settings = s.settings ∧ (endMessages i p s).history = s.history ∧
    (endMessages i p s).ports = s.ports ∧ (endMessages i p s).journal = s.journal ∧
    (endMessages i p s).work = s.work ∧ (endMessages i p s).late = s.late ∧
    (endMessages i p s).shelfDirty = s.shelfDirty ∧ (endMessages i p s).changed = s.changed ∧
    (endMessages i p s).broughtBy = s.broughtBy := by simp [Machine.endMessages]

@[simp] theorem endOwn_frame (i : SlotId) :
    (endOwn i s).pending = s.pending ∧ (endOwn i s).time = s.time ∧ (endOwn i s).held = s.held ∧
    (endOwn i s).resetLine = s.resetLine ∧ (endOwn i s).straps = s.straps ∧
    (endOwn i s).pins = s.pins ∧ (endOwn i s).feedALow = s.feedALow ∧
    (endOwn i s).feedBLow = s.feedBLow ∧ (endOwn i s).debounceFrom = s.debounceFrom ∧
    (endOwn i s).port = s.port ∧ (endOwn i s).cells = s.cells ∧ (endOwn i s).mem = s.mem ∧
    (endOwn i s).shelfRevision = s.shelfRevision ∧ (endOwn i s).pointer = s.pointer ∧
    (endOwn i s).slots = s.slots ∧ (endOwn i s).alloc = s.alloc ∧ (endOwn i s).power = s.power ∧
    (endOwn i s).settings = s.settings ∧ (endOwn i s).history = s.history ∧
    (endOwn i s).ports = s.ports ∧ (endOwn i s).journal = s.journal ∧ (endOwn i s).work = s.work ∧
    (endOwn i s).late = s.late ∧ (endOwn i s).shelfDirty = s.shelfDirty ∧
    (endOwn i s).changed = s.changed ∧ (endOwn i s).broughtBy = s.broughtBy := by simp [Machine.endOwn]

@[simp] theorem placePort_frame (i : SlotId) (m : Msg) :
    (placePort i m s).pending = s.pending ∧ (placePort i m s).time = s.time ∧
    (placePort i m s).held = s.held ∧ (placePort i m s).resetLine = s.resetLine ∧
    (placePort i m s).straps = s.straps ∧ (placePort i m s).pins = s.pins ∧
    (placePort i m s).feedALow = s.feedALow ∧ (placePort i m s).feedBLow = s.feedBLow ∧
    (placePort i m s).debounceFrom = s.debounceFrom ∧ (placePort i m s).port = s.port ∧
    (placePort i m s).cells = s.cells ∧ (placePort i m s).mem = s.mem ∧
    (placePort i m s).shelfRevision = s.shelfRevision ∧ (placePort i m s).pointer = s.pointer ∧
    (placePort i m s).slots = s.slots ∧ (placePort i m s).alloc = s.alloc ∧
    (placePort i m s).power = s.power ∧ (placePort i m s).settings = s.settings ∧
    (placePort i m s).history = s.history ∧ (placePort i m s).ports = s.ports ∧
    (placePort i m s).journal = s.journal ∧ (placePort i m s).work = s.work ∧
    (placePort i m s).late = s.late ∧ (placePort i m s).shelfDirty = s.shelfDirty ∧
    (placePort i m s).changed = s.changed ∧ (placePort i m s).broughtBy = s.broughtBy := by
  unfold Machine.placePort
  split <;> simp

@[simp] theorem placeOwn_frame (i : SlotId) (m : Msg) :
    (placeOwn i m s).pending = s.pending ∧ (placeOwn i m s).time = s.time ∧
    (placeOwn i m s).held = s.held ∧ (placeOwn i m s).resetLine = s.resetLine ∧
    (placeOwn i m s).straps = s.straps ∧ (placeOwn i m s).pins = s.pins ∧
    (placeOwn i m s).feedALow = s.feedALow ∧ (placeOwn i m s).feedBLow = s.feedBLow ∧
    (placeOwn i m s).debounceFrom = s.debounceFrom ∧ (placeOwn i m s).port = s.port ∧
    (placeOwn i m s).cells = s.cells ∧ (placeOwn i m s).mem = s.mem ∧
    (placeOwn i m s).shelfRevision = s.shelfRevision ∧ (placeOwn i m s).pointer = s.pointer ∧
    (placeOwn i m s).slots = s.slots ∧ (placeOwn i m s).alloc = s.alloc ∧
    (placeOwn i m s).power = s.power ∧ (placeOwn i m s).settings = s.settings ∧
    (placeOwn i m s).history = s.history ∧ (placeOwn i m s).ports = s.ports ∧
    (placeOwn i m s).journal = s.journal ∧ (placeOwn i m s).work = s.work ∧
    (placeOwn i m s).late = s.late ∧ (placeOwn i m s).shelfDirty = s.shelfDirty ∧
    (placeOwn i m s).changed = s.changed ∧ (placeOwn i m s).broughtBy = s.broughtBy := by
  unfold Machine.placeOwn
  split <;> simp

@[simp] theorem askProbe_frame (i : SlotId) (b : Placer) :
    (askProbe i b s).pending = s.pending ∧ (askProbe i b s).time = s.time ∧
    (askProbe i b s).held = s.held ∧ (askProbe i b s).resetLine = s.resetLine ∧
    (askProbe i b s).straps = s.straps ∧ (askProbe i b s).pins = s.pins ∧
    (askProbe i b s).feedALow = s.feedALow ∧ (askProbe i b s).feedBLow = s.feedBLow ∧
    (askProbe i b s).debounceFrom = s.debounceFrom ∧ (askProbe i b s).port = s.port ∧
    (askProbe i b s).cells = s.cells ∧ (askProbe i b s).mem = s.mem ∧
    (askProbe i b s).shelfRevision = s.shelfRevision ∧ (askProbe i b s).pointer = s.pointer ∧
    (askProbe i b s).slots = s.slots ∧ (askProbe i b s).alloc = s.alloc ∧
    (askProbe i b s).power = s.power ∧ (askProbe i b s).settings = s.settings ∧
    (askProbe i b s).history = s.history ∧ (askProbe i b s).ports = s.ports ∧
    (askProbe i b s).journal = s.journal ∧ (askProbe i b s).work = s.work ∧
    (askProbe i b s).late = s.late ∧ (askProbe i b s).shelfDirty = s.shelfDirty ∧
    (askProbe i b s).changed = s.changed ∧ (askProbe i b s).broughtBy = s.broughtBy := by
  unfold Machine.askProbe
  split <;> simp

@[simp] theorem alertTest_frame (i : SlotId) :
    (alertTest i s).pending = s.pending ∧ (alertTest i s).time = s.time ∧
    (alertTest i s).held = s.held ∧ (alertTest i s).resetLine = s.resetLine ∧
    (alertTest i s).straps = s.straps ∧ (alertTest i s).pins = s.pins ∧
    (alertTest i s).feedALow = s.feedALow ∧ (alertTest i s).feedBLow = s.feedBLow ∧
    (alertTest i s).debounceFrom = s.debounceFrom ∧ (alertTest i s).port = s.port ∧
    (alertTest i s).cells = s.cells ∧ (alertTest i s).mem = s.mem ∧
    (alertTest i s).shelfRevision = s.shelfRevision ∧ (alertTest i s).pointer = s.pointer ∧
    (alertTest i s).slots = s.slots ∧ (alertTest i s).alloc = s.alloc ∧
    (alertTest i s).power = s.power ∧ (alertTest i s).settings = s.settings ∧
    (alertTest i s).history = s.history ∧ (alertTest i s).ports = s.ports ∧
    (alertTest i s).journal = s.journal ∧ (alertTest i s).work = s.work ∧
    (alertTest i s).late = s.late ∧ (alertTest i s).shelfDirty = s.shelfDirty ∧
    (alertTest i s).changed = s.changed ∧ (alertTest i s).broughtBy = s.broughtBy := by
  unfold Machine.alertTest
  split <;> simp

@[simp] theorem endRequest_frame (i : SlotId) :
    (endRequest i s).pending = s.pending ∧ (endRequest i s).time = s.time ∧
    (endRequest i s).held = s.held ∧ (endRequest i s).resetLine = s.resetLine ∧
    (endRequest i s).straps = s.straps ∧ (endRequest i s).pins = s.pins ∧
    (endRequest i s).feedALow = s.feedALow ∧ (endRequest i s).feedBLow = s.feedBLow ∧
    (endRequest i s).debounceFrom = s.debounceFrom ∧ (endRequest i s).port = s.port ∧
    (endRequest i s).cells = s.cells ∧ (endRequest i s).mem = s.mem ∧
    (endRequest i s).shelfRevision = s.shelfRevision ∧ (endRequest i s).pointer = s.pointer ∧
    (endRequest i s).slots = s.slots ∧ (endRequest i s).alloc = s.alloc ∧
    (endRequest i s).power = s.power ∧ (endRequest i s).settings = s.settings ∧
    (endRequest i s).history = s.history ∧ (endRequest i s).ports = s.ports ∧
    (endRequest i s).journal = s.journal ∧ (endRequest i s).work = s.work ∧
    (endRequest i s).late = s.late ∧ (endRequest i s).shelfDirty = s.shelfDirty ∧
    (endRequest i s).changed = s.changed ∧ (endRequest i s).broughtBy = s.broughtBy := by simp [Machine.endRequest]

@[simp] theorem afterRequest_frame (i : SlotId) (m : Msg) :
    (afterRequest i m s).pending = s.pending ∧ (afterRequest i m s).time = s.time ∧
    (afterRequest i m s).held = s.held ∧ (afterRequest i m s).resetLine = s.resetLine ∧
    (afterRequest i m s).straps = s.straps ∧ (afterRequest i m s).pins = s.pins ∧
    (afterRequest i m s).feedALow = s.feedALow ∧ (afterRequest i m s).feedBLow = s.feedBLow ∧
    (afterRequest i m s).debounceFrom = s.debounceFrom ∧ (afterRequest i m s).port = s.port ∧
    (afterRequest i m s).cells = s.cells ∧ (afterRequest i m s).mem = s.mem ∧
    (afterRequest i m s).shelfRevision = s.shelfRevision ∧
    (afterRequest i m s).pointer = s.pointer ∧ (afterRequest i m s).slots = s.slots ∧
    (afterRequest i m s).alloc = s.alloc ∧ (afterRequest i m s).power = s.power ∧
    (afterRequest i m s).settings = s.settings ∧ (afterRequest i m s).history = s.history ∧
    (afterRequest i m s).ports = s.ports ∧ (afterRequest i m s).journal = s.journal ∧
    (afterRequest i m s).work = s.work ∧ (afterRequest i m s).late = s.late ∧
    (afterRequest i m s).shelfDirty = s.shelfDirty ∧ (afterRequest i m s).changed = s.changed ∧
    (afterRequest i m s).broughtBy = s.broughtBy := by
  unfold Machine.afterRequest
  split <;> simp

@[simp] theorem writeResult_frame (c : CellId) (st : CellState) (r : CellResult) :
    (writeResult c st r s).pending = s.pending ∧ (writeResult c st r s).time = s.time ∧
    (writeResult c st r s).held = s.held ∧ (writeResult c st r s).resetLine = s.resetLine ∧
    (writeResult c st r s).straps = s.straps ∧ (writeResult c st r s).pins = s.pins ∧
    (writeResult c st r s).feedALow = s.feedALow ∧ (writeResult c st r s).feedBLow = s.feedBLow ∧
    (writeResult c st r s).debounceFrom = s.debounceFrom ∧
    (writeResult c st r s).shelfRevision = s.shelfRevision ∧
    (writeResult c st r s).pointer = s.pointer ∧ (writeResult c st r s).slots = s.slots ∧
    (writeResult c st r s).alloc = s.alloc ∧ (writeResult c st r s).power = s.power ∧
    (writeResult c st r s).settings = s.settings ∧ (writeResult c st r s).history = s.history ∧
    (writeResult c st r s).ports = s.ports ∧ (writeResult c st r s).engines = s.engines ∧
    (writeResult c st r s).journal = s.journal ∧ (writeResult c st r s).work = s.work ∧
    (writeResult c st r s).late = s.late ∧ (writeResult c st r s).shelfDirty = s.shelfDirty ∧
    (writeResult c st r s).changed = s.changed ∧ (writeResult c st r s).broughtBy = s.broughtBy := by simp [Machine.writeResult]

@[simp] theorem refuseCell_frame (c : CellId) (x : OrderRefusal) (i : Option SlotId) (t : Time) :
    (refuseCell c x i t s).pending = s.pending ∧ (refuseCell c x i t s).time = s.time ∧
    (refuseCell c x i t s).held = s.held ∧ (refuseCell c x i t s).resetLine = s.resetLine ∧
    (refuseCell c x i t s).straps = s.straps ∧ (refuseCell c x i t s).pins = s.pins ∧
    (refuseCell c x i t s).feedALow = s.feedALow ∧ (refuseCell c x i t s).feedBLow = s.feedBLow ∧
    (refuseCell c x i t s).debounceFrom = s.debounceFrom ∧
    (refuseCell c x i t s).shelfRevision = s.shelfRevision ∧
    (refuseCell c x i t s).pointer = s.pointer ∧ (refuseCell c x i t s).slots = s.slots ∧
    (refuseCell c x i t s).alloc = s.alloc ∧ (refuseCell c x i t s).power = s.power ∧
    (refuseCell c x i t s).settings = s.settings ∧ (refuseCell c x i t s).history = s.history ∧
    (refuseCell c x i t s).ports = s.ports ∧ (refuseCell c x i t s).engines = s.engines ∧
    (refuseCell c x i t s).journal = s.journal ∧ (refuseCell c x i t s).work = s.work ∧
    (refuseCell c x i t s).late = s.late ∧ (refuseCell c x i t s).shelfDirty = s.shelfDirty ∧
    (refuseCell c x i t s).changed = s.changed ∧ (refuseCell c x i t s).broughtBy = s.broughtBy := by simp [Machine.refuseCell]

@[simp] theorem finishCell_frame (c : CellId) (i : SlotId) (o : OrderOutcome) (t : Time) (x : Option FaultCause) (d : List Byte) :
    (finishCell c i o t x d s).pending = s.pending ∧ (finishCell c i o t x d s).time = s.time ∧
    (finishCell c i o t x d s).held = s.held ∧
    (finishCell c i o t x d s).resetLine = s.resetLine ∧
    (finishCell c i o t x d s).straps = s.straps ∧ (finishCell c i o t x d s).pins = s.pins ∧
    (finishCell c i o t x d s).feedALow = s.feedALow ∧
    (finishCell c i o t x d s).feedBLow = s.feedBLow ∧
    (finishCell c i o t x d s).debounceFrom = s.debounceFrom ∧
    (finishCell c i o t x d s).shelfRevision = s.shelfRevision ∧
    (finishCell c i o t x d s).pointer = s.pointer ∧ (finishCell c i o t x d s).slots = s.slots ∧
    (finishCell c i o t x d s).alloc = s.alloc ∧ (finishCell c i o t x d s).power = s.power ∧
    (finishCell c i o t x d s).settings = s.settings ∧
    (finishCell c i o t x d s).history = s.history ∧ (finishCell c i o t x d s).ports = s.ports ∧
    (finishCell c i o t x d s).engines = s.engines ∧
    (finishCell c i o t x d s).journal = s.journal ∧ (finishCell c i o t x d s).work = s.work ∧
    (finishCell c i o t x d s).late = s.late ∧
    (finishCell c i o t x d s).shelfDirty = s.shelfDirty ∧
    (finishCell c i o t x d s).changed = s.changed ∧
    (finishCell c i o t x d s).broughtBy = s.broughtBy := by simp [Machine.finishCell]

@[simp] theorem finishShelfCell_frame (c : CellId) (o : OrderOutcome) (t : Time) :
    (finishShelfCell c o t s).pending = s.pending ∧ (finishShelfCell c o t s).time = s.time ∧
    (finishShelfCell c o t s).held = s.held ∧ (finishShelfCell c o t s).resetLine = s.resetLine ∧
    (finishShelfCell c o t s).straps = s.straps ∧ (finishShelfCell c o t s).pins = s.pins ∧
    (finishShelfCell c o t s).feedALow = s.feedALow ∧
    (finishShelfCell c o t s).feedBLow = s.feedBLow ∧
    (finishShelfCell c o t s).debounceFrom = s.debounceFrom ∧
    (finishShelfCell c o t s).shelfRevision = s.shelfRevision ∧
    (finishShelfCell c o t s).pointer = s.pointer ∧ (finishShelfCell c o t s).slots = s.slots ∧
    (finishShelfCell c o t s).alloc = s.alloc ∧ (finishShelfCell c o t s).power = s.power ∧
    (finishShelfCell c o t s).settings = s.settings ∧
    (finishShelfCell c o t s).history = s.history ∧ (finishShelfCell c o t s).ports = s.ports ∧
    (finishShelfCell c o t s).engines = s.engines ∧
    (finishShelfCell c o t s).journal = s.journal ∧ (finishShelfCell c o t s).work = s.work ∧
    (finishShelfCell c o t s).late = s.late ∧
    (finishShelfCell c o t s).shelfDirty = s.shelfDirty ∧
    (finishShelfCell c o t s).changed = s.changed ∧
    (finishShelfCell c o t s).broughtBy = s.broughtBy := by simp [Machine.finishShelfCell]

@[simp] theorem finishActive_frame (i : SlotId) (o : OrderOutcome) (x : Option FaultCause) (d : List Byte) :
    (finishActive i o x d s).pending = s.pending ∧ (finishActive i o x d s).time = s.time ∧
    (finishActive i o x d s).held = s.held ∧ (finishActive i o x d s).resetLine = s.resetLine ∧
    (finishActive i o x d s).straps = s.straps ∧ (finishActive i o x d s).pins = s.pins ∧
    (finishActive i o x d s).feedALow = s.feedALow ∧
    (finishActive i o x d s).feedBLow = s.feedBLow ∧
    (finishActive i o x d s).debounceFrom = s.debounceFrom ∧
    (finishActive i o x d s).shelfRevision = s.shelfRevision ∧
    (finishActive i o x d s).pointer = s.pointer ∧ (finishActive i o x d s).alloc = s.alloc ∧
    (finishActive i o x d s).power = s.power ∧ (finishActive i o x d s).settings = s.settings ∧
    (finishActive i o x d s).history = s.history ∧ (finishActive i o x d s).ports = s.ports ∧
    (finishActive i o x d s).engines = s.engines ∧ (finishActive i o x d s).journal = s.journal ∧
    (finishActive i o x d s).work = s.work ∧ (finishActive i o x d s).late = s.late ∧
    (finishActive i o x d s).shelfDirty = s.shelfDirty ∧
    (finishActive i o x d s).changed = s.changed ∧
    (finishActive i o x d s).broughtBy = s.broughtBy := by
  unfold Machine.finishActive
  split <;> simp

@[simp] theorem finishActiveIf_frame (k : OrderKind) (i : SlotId) (o : OrderOutcome) (x : Option FaultCause) (d : List Byte) :
    (finishActiveIf k i o x d s).pending = s.pending ∧
    (finishActiveIf k i o x d s).time = s.time ∧ (finishActiveIf k i o x d s).held = s.held ∧
    (finishActiveIf k i o x d s).resetLine = s.resetLine ∧
    (finishActiveIf k i o x d s).straps = s.straps ∧ (finishActiveIf k i o x d s).pins = s.pins ∧
    (finishActiveIf k i o x d s).feedALow = s.feedALow ∧
    (finishActiveIf k i o x d s).feedBLow = s.feedBLow ∧
    (finishActiveIf k i o x d s).debounceFrom = s.debounceFrom ∧
    (finishActiveIf k i o x d s).shelfRevision = s.shelfRevision ∧
    (finishActiveIf k i o x d s).pointer = s.pointer ∧
    (finishActiveIf k i o x d s).alloc = s.alloc ∧ (finishActiveIf k i o x d s).power = s.power ∧
    (finishActiveIf k i o x d s).settings = s.settings ∧
    (finishActiveIf k i o x d s).history = s.history ∧
    (finishActiveIf k i o x d s).ports = s.ports ∧
    (finishActiveIf k i o x d s).engines = s.engines ∧
    (finishActiveIf k i o x d s).journal = s.journal ∧
    (finishActiveIf k i o x d s).work = s.work ∧ (finishActiveIf k i o x d s).late = s.late ∧
    (finishActiveIf k i o x d s).shelfDirty = s.shelfDirty ∧
    (finishActiveIf k i o x d s).changed = s.changed ∧
    (finishActiveIf k i o x d s).broughtBy = s.broughtBy := by
  unfold Machine.finishActiveIf
  split <;> simp

@[simp] theorem finishEntries_frame (i : SlotId) (o : OrderOutcome) (l : List OrderEntry) :
    (finishEntries i o l s).pending = s.pending ∧ (finishEntries i o l s).time = s.time ∧
    (finishEntries i o l s).held = s.held ∧ (finishEntries i o l s).resetLine = s.resetLine ∧
    (finishEntries i o l s).straps = s.straps ∧ (finishEntries i o l s).pins = s.pins ∧
    (finishEntries i o l s).feedALow = s.feedALow ∧
    (finishEntries i o l s).feedBLow = s.feedBLow ∧
    (finishEntries i o l s).debounceFrom = s.debounceFrom ∧
    (finishEntries i o l s).shelfRevision = s.shelfRevision ∧
    (finishEntries i o l s).pointer = s.pointer ∧ (finishEntries i o l s).slots = s.slots ∧
    (finishEntries i o l s).alloc = s.alloc ∧ (finishEntries i o l s).power = s.power ∧
    (finishEntries i o l s).settings = s.settings ∧ (finishEntries i o l s).history = s.history ∧
    (finishEntries i o l s).ports = s.ports ∧ (finishEntries i o l s).engines = s.engines ∧
    (finishEntries i o l s).journal = s.journal ∧ (finishEntries i o l s).work = s.work ∧
    (finishEntries i o l s).late = s.late ∧ (finishEntries i o l s).shelfDirty = s.shelfDirty ∧
    (finishEntries i o l s).changed = s.changed ∧ (finishEntries i o l s).broughtBy = s.broughtBy := by
  induction l generalizing s with
  | nil => simp [Machine.finishEntries]
  | cons e l ih => simp [Machine.finishEntries, ih]

@[simp] theorem finishAll_frame (i : SlotId) (o : OrderOutcome) :
    (finishAll i o s).pending = s.pending ∧ (finishAll i o s).time = s.time ∧
    (finishAll i o s).held = s.held ∧ (finishAll i o s).resetLine = s.resetLine ∧
    (finishAll i o s).straps = s.straps ∧ (finishAll i o s).pins = s.pins ∧
    (finishAll i o s).feedALow = s.feedALow ∧ (finishAll i o s).feedBLow = s.feedBLow ∧
    (finishAll i o s).debounceFrom = s.debounceFrom ∧
    (finishAll i o s).shelfRevision = s.shelfRevision ∧ (finishAll i o s).pointer = s.pointer ∧
    (finishAll i o s).alloc = s.alloc ∧ (finishAll i o s).power = s.power ∧
    (finishAll i o s).settings = s.settings ∧ (finishAll i o s).history = s.history ∧
    (finishAll i o s).ports = s.ports ∧ (finishAll i o s).engines = s.engines ∧
    (finishAll i o s).journal = s.journal ∧ (finishAll i o s).work = s.work ∧
    (finishAll i o s).late = s.late ∧ (finishAll i o s).shelfDirty = s.shelfDirty ∧
    (finishAll i o s).changed = s.changed ∧ (finishAll i o s).broughtBy = s.broughtBy := by simp [Machine.finishAll]

@[simp] theorem finishWaiting_frame (i : SlotId) (o : OrderOutcome) :
    (finishWaiting i o s).pending = s.pending ∧ (finishWaiting i o s).time = s.time ∧
    (finishWaiting i o s).held = s.held ∧ (finishWaiting i o s).resetLine = s.resetLine ∧
    (finishWaiting i o s).straps = s.straps ∧ (finishWaiting i o s).pins = s.pins ∧
    (finishWaiting i o s).feedALow = s.feedALow ∧ (finishWaiting i o s).feedBLow = s.feedBLow ∧
    (finishWaiting i o s).debounceFrom = s.debounceFrom ∧
    (finishWaiting i o s).shelfRevision = s.shelfRevision ∧
    (finishWaiting i o s).pointer = s.pointer ∧ (finishWaiting i o s).alloc = s.alloc ∧
    (finishWaiting i o s).power = s.power ∧ (finishWaiting i o s).settings = s.settings ∧
    (finishWaiting i o s).history = s.history ∧ (finishWaiting i o s).ports = s.ports ∧
    (finishWaiting i o s).engines = s.engines ∧ (finishWaiting i o s).journal = s.journal ∧
    (finishWaiting i o s).work = s.work ∧ (finishWaiting i o s).late = s.late ∧
    (finishWaiting i o s).shelfDirty = s.shelfDirty ∧ (finishWaiting i o s).changed = s.changed ∧
    (finishWaiting i o s).broughtBy = s.broughtBy := by simp [Machine.finishWaiting]

@[simp] theorem moveSlot_frame (i : SlotId) (n : SlotState) :
    (moveSlot i n s).pending = s.pending ∧ (moveSlot i n s).time = s.time ∧
    (moveSlot i n s).held = s.held ∧ (moveSlot i n s).resetLine = s.resetLine ∧
    (moveSlot i n s).straps = s.straps ∧ (moveSlot i n s).pins = s.pins ∧
    (moveSlot i n s).feedALow = s.feedALow ∧ (moveSlot i n s).feedBLow = s.feedBLow ∧
    (moveSlot i n s).debounceFrom = s.debounceFrom ∧ (moveSlot i n s).port = s.port ∧
    (moveSlot i n s).cells = s.cells ∧ (moveSlot i n s).mem = s.mem ∧
    (moveSlot i n s).shelfRevision = s.shelfRevision ∧ (moveSlot i n s).pointer = s.pointer ∧
    (moveSlot i n s).alloc = s.alloc ∧ (moveSlot i n s).power = s.power ∧
    (moveSlot i n s).settings = s.settings ∧ (moveSlot i n s).history = s.history ∧
    (moveSlot i n s).ports = s.ports ∧ (moveSlot i n s).journal = s.journal ∧
    (moveSlot i n s).work = s.work ∧ (moveSlot i n s).late = s.late ∧
    (moveSlot i n s).shelfDirty = s.shelfDirty ∧ (moveSlot i n s).changed = s.changed ∧
    (moveSlot i n s).broughtBy = s.broughtBy := by simp [Machine.moveSlot]

@[simp] theorem changeState_frame (i : SlotId) (n : SlotState) (d : StateDetail) (t : Option Word16) :
    (changeState i n d t s).pending = s.pending ∧ (changeState i n d t s).time = s.time ∧
    (changeState i n d t s).held = s.held ∧ (changeState i n d t s).resetLine = s.resetLine ∧
    (changeState i n d t s).straps = s.straps ∧ (changeState i n d t s).pins = s.pins ∧
    (changeState i n d t s).feedALow = s.feedALow ∧
    (changeState i n d t s).feedBLow = s.feedBLow ∧
    (changeState i n d t s).debounceFrom = s.debounceFrom ∧
    (changeState i n d t s).cells = s.cells ∧ (changeState i n d t s).mem = s.mem ∧
    (changeState i n d t s).pointer = s.pointer ∧ (changeState i n d t s).alloc = s.alloc ∧
    (changeState i n d t s).power = s.power ∧ (changeState i n d t s).settings = s.settings ∧
    (changeState i n d t s).history = s.history ∧ (changeState i n d t s).ports = s.ports ∧
    (changeState i n d t s).work = s.work ∧ (changeState i n d t s).late = s.late ∧
    (changeState i n d t s).shelfDirty = s.shelfDirty ∧
    (changeState i n d t s).changed = s.changed ∧ (changeState i n d t s).broughtBy = s.broughtBy := by simp [Machine.changeState]

@[simp] theorem changeStateOwn_frame (i : SlotId) (n : SlotState) (d : StateDetail) :
    (changeStateOwn i n d s).pending = s.pending ∧ (changeStateOwn i n d s).time = s.time ∧
    (changeStateOwn i n d s).held = s.held ∧ (changeStateOwn i n d s).resetLine = s.resetLine ∧
    (changeStateOwn i n d s).straps = s.straps ∧ (changeStateOwn i n d s).pins = s.pins ∧
    (changeStateOwn i n d s).feedALow = s.feedALow ∧
    (changeStateOwn i n d s).feedBLow = s.feedBLow ∧
    (changeStateOwn i n d s).debounceFrom = s.debounceFrom ∧
    (changeStateOwn i n d s).cells = s.cells ∧ (changeStateOwn i n d s).mem = s.mem ∧
    (changeStateOwn i n d s).pointer = s.pointer ∧ (changeStateOwn i n d s).alloc = s.alloc ∧
    (changeStateOwn i n d s).power = s.power ∧ (changeStateOwn i n d s).settings = s.settings ∧
    (changeStateOwn i n d s).history = s.history ∧ (changeStateOwn i n d s).ports = s.ports ∧
    (changeStateOwn i n d s).work = s.work ∧ (changeStateOwn i n d s).late = s.late ∧
    (changeStateOwn i n d s).shelfDirty = s.shelfDirty ∧
    (changeStateOwn i n d s).changed = s.changed ∧
    (changeStateOwn i n d s).broughtBy = s.broughtBy := by simp [Machine.changeStateOwn]

@[simp] theorem rampEnded_frame (i : SlotId) :
    (rampEnded i s).pending = s.pending ∧ (rampEnded i s).time = s.time ∧
    (rampEnded i s).held = s.held ∧ (rampEnded i s).resetLine = s.resetLine ∧
    (rampEnded i s).straps = s.straps ∧ (rampEnded i s).pins = s.pins ∧
    (rampEnded i s).feedALow = s.feedALow ∧ (rampEnded i s).feedBLow = s.feedBLow ∧
    (rampEnded i s).debounceFrom = s.debounceFrom ∧ (rampEnded i s).port = s.port ∧
    (rampEnded i s).cells = s.cells ∧ (rampEnded i s).mem = s.mem ∧
    (rampEnded i s).shelfRevision = s.shelfRevision ∧ (rampEnded i s).pointer = s.pointer ∧
    (rampEnded i s).slots = s.slots ∧ (rampEnded i s).power = s.power ∧
    (rampEnded i s).settings = s.settings ∧ (rampEnded i s).history = s.history ∧
    (rampEnded i s).ports = s.ports ∧ (rampEnded i s).engines = s.engines ∧
    (rampEnded i s).journal = s.journal ∧ (rampEnded i s).late = s.late ∧
    (rampEnded i s).shelfDirty = s.shelfDirty ∧ (rampEnded i s).changed = s.changed ∧
    (rampEnded i s).broughtBy = s.broughtBy := by
  unfold Machine.rampEnded
  dsimp only
  split
  · split <;> simp
  · simp

@[simp] theorem powerOff_frame (i : SlotId) :
    (powerOff i s).pending = s.pending ∧ (powerOff i s).time = s.time ∧
    (powerOff i s).held = s.held ∧ (powerOff i s).resetLine = s.resetLine ∧
    (powerOff i s).straps = s.straps ∧ (powerOff i s).pins = s.pins ∧
    (powerOff i s).feedALow = s.feedALow ∧ (powerOff i s).feedBLow = s.feedBLow ∧
    (powerOff i s).debounceFrom = s.debounceFrom ∧ (powerOff i s).port = s.port ∧
    (powerOff i s).cells = s.cells ∧ (powerOff i s).mem = s.mem ∧
    (powerOff i s).shelfRevision = s.shelfRevision ∧ (powerOff i s).pointer = s.pointer ∧
    (powerOff i s).slots = s.slots ∧ (powerOff i s).settings = s.settings ∧
    (powerOff i s).history = s.history ∧ (powerOff i s).ports = s.ports ∧
    (powerOff i s).engines = s.engines ∧ (powerOff i s).journal = s.journal ∧
    (powerOff i s).late = s.late ∧ (powerOff i s).shelfDirty = s.shelfDirty ∧
    (powerOff i s).changed = s.changed ∧ (powerOff i s).broughtBy = s.broughtBy := by
  unfold Machine.powerOff
  split
  · split <;> simp
  · simp

@[simp] theorem rampStart_frame (i : SlotId) :
    (rampStart i s).pending = s.pending ∧ (rampStart i s).time = s.time ∧
    (rampStart i s).held = s.held ∧ (rampStart i s).resetLine = s.resetLine ∧
    (rampStart i s).straps = s.straps ∧ (rampStart i s).pins = s.pins ∧
    (rampStart i s).feedALow = s.feedALow ∧ (rampStart i s).feedBLow = s.feedBLow ∧
    (rampStart i s).debounceFrom = s.debounceFrom ∧ (rampStart i s).port = s.port ∧
    (rampStart i s).cells = s.cells ∧ (rampStart i s).mem = s.mem ∧
    (rampStart i s).shelfRevision = s.shelfRevision ∧ (rampStart i s).pointer = s.pointer ∧
    (rampStart i s).slots = s.slots ∧ (rampStart i s).alloc = s.alloc ∧
    (rampStart i s).settings = s.settings ∧ (rampStart i s).ports = s.ports ∧
    (rampStart i s).engines = s.engines ∧ (rampStart i s).journal = s.journal ∧
    (rampStart i s).work = s.work ∧ (rampStart i s).late = s.late ∧
    (rampStart i s).shelfDirty = s.shelfDirty ∧ (rampStart i s).changed = s.changed ∧
    (rampStart i s).broughtBy = s.broughtBy := by simp [Machine.rampStart]

@[simp] theorem returnClaim_frame (i : SlotId) :
    (returnClaim i s).pending = s.pending ∧ (returnClaim i s).time = s.time ∧
    (returnClaim i s).held = s.held ∧ (returnClaim i s).resetLine = s.resetLine ∧
    (returnClaim i s).straps = s.straps ∧ (returnClaim i s).pins = s.pins ∧
    (returnClaim i s).feedALow = s.feedALow ∧ (returnClaim i s).feedBLow = s.feedBLow ∧
    (returnClaim i s).debounceFrom = s.debounceFrom ∧ (returnClaim i s).port = s.port ∧
    (returnClaim i s).cells = s.cells ∧ (returnClaim i s).mem = s.mem ∧
    (returnClaim i s).shelfRevision = s.shelfRevision ∧ (returnClaim i s).pointer = s.pointer ∧
    (returnClaim i s).power = s.power ∧ (returnClaim i s).settings = s.settings ∧
    (returnClaim i s).history = s.history ∧ (returnClaim i s).ports = s.ports ∧
    (returnClaim i s).engines = s.engines ∧ (returnClaim i s).journal = s.journal ∧
    (returnClaim i s).late = s.late ∧ (returnClaim i s).changed = s.changed ∧
    (returnClaim i s).broughtBy = s.broughtBy := by
  unfold Machine.returnClaim
  dsimp only
  split <;> simp

@[simp] theorem reportFrom_frame (n : Nat) (l : List QueueEntry) :
    (reportFrom n l s).pending = s.pending ∧ (reportFrom n l s).time = s.time ∧
    (reportFrom n l s).held = s.held ∧ (reportFrom n l s).resetLine = s.resetLine ∧
    (reportFrom n l s).straps = s.straps ∧ (reportFrom n l s).pins = s.pins ∧
    (reportFrom n l s).feedALow = s.feedALow ∧ (reportFrom n l s).feedBLow = s.feedBLow ∧
    (reportFrom n l s).debounceFrom = s.debounceFrom ∧ (reportFrom n l s).port = s.port ∧
    (reportFrom n l s).cells = s.cells ∧ (reportFrom n l s).mem = s.mem ∧
    (reportFrom n l s).shelfRevision = s.shelfRevision ∧ (reportFrom n l s).pointer = s.pointer ∧
    (reportFrom n l s).alloc = s.alloc ∧ (reportFrom n l s).power = s.power ∧
    (reportFrom n l s).settings = s.settings ∧ (reportFrom n l s).history = s.history ∧
    (reportFrom n l s).ports = s.ports ∧ (reportFrom n l s).engines = s.engines ∧
    (reportFrom n l s).journal = s.journal ∧ (reportFrom n l s).work = s.work ∧
    (reportFrom n l s).late = s.late ∧ (reportFrom n l s).shelfDirty = s.shelfDirty ∧
    (reportFrom n l s).changed = s.changed ∧ (reportFrom n l s).broughtBy = s.broughtBy := by
  induction l generalizing s n with
  | nil => simp [Machine.reportFrom]
  | cons e l ih => simp [Machine.reportFrom, ih]

@[simp] theorem setQueue_frame (l : List QueueEntry) :
    (setQueue l s).pending = s.pending ∧ (setQueue l s).time = s.time ∧
    (setQueue l s).held = s.held ∧ (setQueue l s).resetLine = s.resetLine ∧
    (setQueue l s).straps = s.straps ∧ (setQueue l s).pins = s.pins ∧
    (setQueue l s).feedALow = s.feedALow ∧ (setQueue l s).feedBLow = s.feedBLow ∧
    (setQueue l s).debounceFrom = s.debounceFrom ∧ (setQueue l s).port = s.port ∧
    (setQueue l s).cells = s.cells ∧ (setQueue l s).mem = s.mem ∧
    (setQueue l s).shelfRevision = s.shelfRevision ∧ (setQueue l s).pointer = s.pointer ∧
    (setQueue l s).power = s.power ∧ (setQueue l s).settings = s.settings ∧
    (setQueue l s).history = s.history ∧ (setQueue l s).ports = s.ports ∧
    (setQueue l s).engines = s.engines ∧ (setQueue l s).journal = s.journal ∧
    (setQueue l s).work = s.work ∧ (setQueue l s).late = s.late ∧
    (setQueue l s).changed = s.changed ∧ (setQueue l s).broughtBy = s.broughtBy := by simp [Machine.setQueue, reportQueue]

@[simp] theorem joinQueue_frame (i : SlotId) (c : CellId) :
    (joinQueue i c s).pending = s.pending ∧ (joinQueue i c s).time = s.time ∧
    (joinQueue i c s).held = s.held ∧ (joinQueue i c s).resetLine = s.resetLine ∧
    (joinQueue i c s).straps = s.straps ∧ (joinQueue i c s).pins = s.pins ∧
    (joinQueue i c s).feedALow = s.feedALow ∧ (joinQueue i c s).feedBLow = s.feedBLow ∧
    (joinQueue i c s).debounceFrom = s.debounceFrom ∧ (joinQueue i c s).port = s.port ∧
    (joinQueue i c s).cells = s.cells ∧ (joinQueue i c s).mem = s.mem ∧
    (joinQueue i c s).shelfRevision = s.shelfRevision ∧ (joinQueue i c s).pointer = s.pointer ∧
    (joinQueue i c s).power = s.power ∧ (joinQueue i c s).settings = s.settings ∧
    (joinQueue i c s).history = s.history ∧ (joinQueue i c s).ports = s.ports ∧
    (joinQueue i c s).engines = s.engines ∧ (joinQueue i c s).journal = s.journal ∧
    (joinQueue i c s).work = s.work ∧ (joinQueue i c s).late = s.late ∧
    (joinQueue i c s).changed = s.changed ∧ (joinQueue i c s).broughtBy = s.broughtBy := by simp [Machine.joinQueue]

@[simp] theorem removeEntry_frame (i : SlotId) :
    (removeEntry i s).pending = s.pending ∧ (removeEntry i s).time = s.time ∧
    (removeEntry i s).held = s.held ∧ (removeEntry i s).resetLine = s.resetLine ∧
    (removeEntry i s).straps = s.straps ∧ (removeEntry i s).pins = s.pins ∧
    (removeEntry i s).feedALow = s.feedALow ∧ (removeEntry i s).feedBLow = s.feedBLow ∧
    (removeEntry i s).debounceFrom = s.debounceFrom ∧ (removeEntry i s).port = s.port ∧
    (removeEntry i s).cells = s.cells ∧ (removeEntry i s).mem = s.mem ∧
    (removeEntry i s).shelfRevision = s.shelfRevision ∧ (removeEntry i s).pointer = s.pointer ∧
    (removeEntry i s).power = s.power ∧ (removeEntry i s).settings = s.settings ∧
    (removeEntry i s).history = s.history ∧ (removeEntry i s).ports = s.ports ∧
    (removeEntry i s).engines = s.engines ∧ (removeEntry i s).journal = s.journal ∧
    (removeEntry i s).late = s.late ∧ (removeEntry i s).changed = s.changed ∧
    (removeEntry i s).broughtBy = s.broughtBy := by
  unfold Machine.removeEntry
  split <;> simp

@[simp] theorem toIsolated_frame (p : PortId) :
    (toIsolated p s).pending = s.pending ∧ (toIsolated p s).time = s.time ∧
    (toIsolated p s).held = s.held ∧ (toIsolated p s).resetLine = s.resetLine ∧
    (toIsolated p s).straps = s.straps ∧ (toIsolated p s).pins = s.pins ∧
    (toIsolated p s).feedALow = s.feedALow ∧ (toIsolated p s).feedBLow = s.feedBLow ∧
    (toIsolated p s).debounceFrom = s.debounceFrom ∧ (toIsolated p s).port = s.port ∧
    (toIsolated p s).cells = s.cells ∧ (toIsolated p s).mem = s.mem ∧
    (toIsolated p s).shelfRevision = s.shelfRevision ∧ (toIsolated p s).pointer = s.pointer ∧
    (toIsolated p s).slots = s.slots ∧ (toIsolated p s).alloc = s.alloc ∧
    (toIsolated p s).power = s.power ∧ (toIsolated p s).settings = s.settings ∧
    (toIsolated p s).history = s.history ∧ (toIsolated p s).engines = s.engines ∧
    (toIsolated p s).journal = s.journal ∧ (toIsolated p s).work = s.work ∧
    (toIsolated p s).shelfDirty = s.shelfDirty ∧ (toIsolated p s).changed = s.changed ∧
    (toIsolated p s).broughtBy = s.broughtBy := by simp [Machine.toIsolated]

@[simp] theorem offerTest_frame (p : PortId) :
    (offerTest p s).pending = s.pending ∧ (offerTest p s).time = s.time ∧
    (offerTest p s).held = s.held ∧ (offerTest p s).resetLine = s.resetLine ∧
    (offerTest p s).straps = s.straps ∧ (offerTest p s).pins = s.pins ∧
    (offerTest p s).feedALow = s.feedALow ∧ (offerTest p s).feedBLow = s.feedBLow ∧
    (offerTest p s).debounceFrom = s.debounceFrom ∧ (offerTest p s).port = s.port ∧
    (offerTest p s).cells = s.cells ∧ (offerTest p s).mem = s.mem ∧
    (offerTest p s).shelfRevision = s.shelfRevision ∧ (offerTest p s).pointer = s.pointer ∧
    (offerTest p s).slots = s.slots ∧ (offerTest p s).alloc = s.alloc ∧
    (offerTest p s).power = s.power ∧ (offerTest p s).settings = s.settings ∧
    (offerTest p s).history = s.history ∧ (offerTest p s).journal = s.journal ∧
    (offerTest p s).work = s.work ∧ (offerTest p s).shelfDirty = s.shelfDirty ∧
    (offerTest p s).changed = s.changed ∧ (offerTest p s).broughtBy = s.broughtBy := by
  unfold Machine.offerTest
  split <;> simp

@[simp] theorem offerTests_frame (l : List PortId) :
    (offerTests l s).pending = s.pending ∧ (offerTests l s).time = s.time ∧
    (offerTests l s).held = s.held ∧ (offerTests l s).resetLine = s.resetLine ∧
    (offerTests l s).straps = s.straps ∧ (offerTests l s).pins = s.pins ∧
    (offerTests l s).feedALow = s.feedALow ∧ (offerTests l s).feedBLow = s.feedBLow ∧
    (offerTests l s).debounceFrom = s.debounceFrom ∧ (offerTests l s).port = s.port ∧
    (offerTests l s).cells = s.cells ∧ (offerTests l s).mem = s.mem ∧
    (offerTests l s).shelfRevision = s.shelfRevision ∧ (offerTests l s).pointer = s.pointer ∧
    (offerTests l s).slots = s.slots ∧ (offerTests l s).alloc = s.alloc ∧
    (offerTests l s).power = s.power ∧ (offerTests l s).settings = s.settings ∧
    (offerTests l s).history = s.history ∧ (offerTests l s).journal = s.journal ∧
    (offerTests l s).work = s.work ∧ (offerTests l s).shelfDirty = s.shelfDirty ∧
    (offerTests l s).changed = s.changed ∧ (offerTests l s).broughtBy = s.broughtBy := by
  unfold Machine.offerTests
  induction l generalizing s with
  | nil => simp
  | cons p l ih => simp [ih]

@[simp] theorem clearDeclined_frame (i : SlotId) :
    (clearDeclined i s).pending = s.pending ∧ (clearDeclined i s).time = s.time ∧
    (clearDeclined i s).held = s.held ∧ (clearDeclined i s).resetLine = s.resetLine ∧
    (clearDeclined i s).straps = s.straps ∧ (clearDeclined i s).pins = s.pins ∧
    (clearDeclined i s).feedALow = s.feedALow ∧ (clearDeclined i s).feedBLow = s.feedBLow ∧
    (clearDeclined i s).debounceFrom = s.debounceFrom ∧ (clearDeclined i s).port = s.port ∧
    (clearDeclined i s).cells = s.cells ∧ (clearDeclined i s).mem = s.mem ∧
    (clearDeclined i s).shelfRevision = s.shelfRevision ∧
    (clearDeclined i s).pointer = s.pointer ∧ (clearDeclined i s).slots = s.slots ∧
    (clearDeclined i s).alloc = s.alloc ∧ (clearDeclined i s).power = s.power ∧
    (clearDeclined i s).settings = s.settings ∧ (clearDeclined i s).history = s.history ∧
    (clearDeclined i s).engines = s.engines ∧ (clearDeclined i s).journal = s.journal ∧
    (clearDeclined i s).work = s.work ∧ (clearDeclined i s).shelfDirty = s.shelfDirty ∧
    (clearDeclined i s).changed = s.changed ∧ (clearDeclined i s).broughtBy = s.broughtBy := by
  unfold Machine.clearDeclined
  generalize slotPorts i = l
  induction l generalizing s with
  | nil => simp
  | cons p l ih => simp [ih]

@[simp] theorem beginJoin_frame (i : SlotId) :
    (beginJoin i s).pending = s.pending ∧ (beginJoin i s).time = s.time ∧
    (beginJoin i s).held = s.held ∧ (beginJoin i s).resetLine = s.resetLine ∧
    (beginJoin i s).straps = s.straps ∧ (beginJoin i s).pins = s.pins ∧
    (beginJoin i s).feedALow = s.feedALow ∧ (beginJoin i s).feedBLow = s.feedBLow ∧
    (beginJoin i s).debounceFrom = s.debounceFrom ∧ (beginJoin i s).port = s.port ∧
    (beginJoin i s).cells = s.cells ∧ (beginJoin i s).mem = s.mem ∧
    (beginJoin i s).shelfRevision = s.shelfRevision ∧ (beginJoin i s).pointer = s.pointer ∧
    (beginJoin i s).slots = s.slots ∧ (beginJoin i s).alloc = s.alloc ∧
    (beginJoin i s).power = s.power ∧ (beginJoin i s).settings = s.settings ∧
    (beginJoin i s).history = s.history ∧ (beginJoin i s).journal = s.journal ∧
    (beginJoin i s).work = s.work ∧ (beginJoin i s).shelfDirty = s.shelfDirty ∧
    (beginJoin i s).changed = s.changed ∧ (beginJoin i s).broughtBy = s.broughtBy := by simp [Machine.beginJoin]

@[simp] theorem toWithdrawing_frame (p : PortId) (b l : Bool) :
    (toWithdrawing p b l s).pending = s.pending ∧ (toWithdrawing p b l s).time = s.time ∧
    (toWithdrawing p b l s).held = s.held ∧ (toWithdrawing p b l s).resetLine = s.resetLine ∧
    (toWithdrawing p b l s).straps = s.straps ∧ (toWithdrawing p b l s).pins = s.pins ∧
    (toWithdrawing p b l s).feedALow = s.feedALow ∧
    (toWithdrawing p b l s).feedBLow = s.feedBLow ∧
    (toWithdrawing p b l s).debounceFrom = s.debounceFrom ∧
    (toWithdrawing p b l s).cells = s.cells ∧ (toWithdrawing p b l s).mem = s.mem ∧
    (toWithdrawing p b l s).pointer = s.pointer ∧ (toWithdrawing p b l s).slots = s.slots ∧
    (toWithdrawing p b l s).alloc = s.alloc ∧ (toWithdrawing p b l s).power = s.power ∧
    (toWithdrawing p b l s).settings = s.settings ∧ (toWithdrawing p b l s).history = s.history ∧
    (toWithdrawing p b l s).work = s.work ∧ (toWithdrawing p b l s).shelfDirty = s.shelfDirty ∧
    (toWithdrawing p b l s).changed = s.changed ∧ (toWithdrawing p b l s).broughtBy = s.broughtBy := by
  unfold Machine.toWithdrawing
  dsimp only
  split
  · split <;> simp
  · simp

@[simp] theorem toClosing_frame (p : PortId) :
    (toClosing p s).pending = s.pending ∧ (toClosing p s).time = s.time ∧
    (toClosing p s).held = s.held ∧ (toClosing p s).resetLine = s.resetLine ∧
    (toClosing p s).straps = s.straps ∧ (toClosing p s).pins = s.pins ∧
    (toClosing p s).feedALow = s.feedALow ∧ (toClosing p s).feedBLow = s.feedBLow ∧
    (toClosing p s).debounceFrom = s.debounceFrom ∧ (toClosing p s).cells = s.cells ∧
    (toClosing p s).mem = s.mem ∧ (toClosing p s).pointer = s.pointer ∧
    (toClosing p s).slots = s.slots ∧ (toClosing p s).alloc = s.alloc ∧
    (toClosing p s).power = s.power ∧ (toClosing p s).settings = s.settings ∧
    (toClosing p s).history = s.history ∧ (toClosing p s).work = s.work ∧
    (toClosing p s).shelfDirty = s.shelfDirty ∧ (toClosing p s).changed = s.changed ∧
    (toClosing p s).broughtBy = s.broughtBy := by
  unfold Machine.toClosing
  split <;> simp

@[simp] theorem withdrawPort_frame (p : PortId) :
    (withdrawPort s p).pending = s.pending ∧ (withdrawPort s p).time = s.time ∧
    (withdrawPort s p).held = s.held ∧ (withdrawPort s p).resetLine = s.resetLine ∧
    (withdrawPort s p).straps = s.straps ∧ (withdrawPort s p).pins = s.pins ∧
    (withdrawPort s p).feedALow = s.feedALow ∧ (withdrawPort s p).feedBLow = s.feedBLow ∧
    (withdrawPort s p).debounceFrom = s.debounceFrom ∧ (withdrawPort s p).cells = s.cells ∧
    (withdrawPort s p).mem = s.mem ∧ (withdrawPort s p).pointer = s.pointer ∧
    (withdrawPort s p).slots = s.slots ∧ (withdrawPort s p).alloc = s.alloc ∧
    (withdrawPort s p).power = s.power ∧ (withdrawPort s p).settings = s.settings ∧
    (withdrawPort s p).history = s.history ∧ (withdrawPort s p).work = s.work ∧
    (withdrawPort s p).shelfDirty = s.shelfDirty ∧ (withdrawPort s p).changed = s.changed ∧
    (withdrawPort s p).broughtBy = s.broughtBy := by
  unfold Machine.withdrawPort
  split
  · simp
  · split <;> simp
  · split <;> simp
  all_goals simp

@[simp] theorem withdrawSlot_frame (i : SlotId) :
    (withdrawSlot i s).pending = s.pending ∧ (withdrawSlot i s).time = s.time ∧
    (withdrawSlot i s).held = s.held ∧ (withdrawSlot i s).resetLine = s.resetLine ∧
    (withdrawSlot i s).straps = s.straps ∧ (withdrawSlot i s).pins = s.pins ∧
    (withdrawSlot i s).feedALow = s.feedALow ∧ (withdrawSlot i s).feedBLow = s.feedBLow ∧
    (withdrawSlot i s).debounceFrom = s.debounceFrom ∧ (withdrawSlot i s).cells = s.cells ∧
    (withdrawSlot i s).mem = s.mem ∧ (withdrawSlot i s).pointer = s.pointer ∧
    (withdrawSlot i s).slots = s.slots ∧ (withdrawSlot i s).alloc = s.alloc ∧
    (withdrawSlot i s).power = s.power ∧ (withdrawSlot i s).settings = s.settings ∧
    (withdrawSlot i s).history = s.history ∧ (withdrawSlot i s).work = s.work ∧
    (withdrawSlot i s).shelfDirty = s.shelfDirty ∧ (withdrawSlot i s).changed = s.changed ∧
    (withdrawSlot i s).broughtBy = s.broughtBy := by
  unfold Machine.withdrawSlot
  generalize slotPorts i = l
  rw [show ∀ s : State, s.testLate i = s.testLate i from fun _ => rfl]
  induction l generalizing s with
  | nil => simp
  | cons p l ih => simpa using ih (withdrawPort s p)

@[simp] theorem isolatePort_frame (p : PortId) (l : Option SlotId) (b : Bool) :
    (isolatePort p l b s).pending = s.pending ∧ (isolatePort p l b s).time = s.time ∧
    (isolatePort p l b s).held = s.held ∧ (isolatePort p l b s).resetLine = s.resetLine ∧
    (isolatePort p l b s).straps = s.straps ∧ (isolatePort p l b s).pins = s.pins ∧
    (isolatePort p l b s).feedALow = s.feedALow ∧ (isolatePort p l b s).feedBLow = s.feedBLow ∧
    (isolatePort p l b s).debounceFrom = s.debounceFrom ∧ (isolatePort p l b s).cells = s.cells ∧
    (isolatePort p l b s).mem = s.mem ∧ (isolatePort p l b s).pointer = s.pointer ∧
    (isolatePort p l b s).slots = s.slots ∧ (isolatePort p l b s).alloc = s.alloc ∧
    (isolatePort p l b s).power = s.power ∧ (isolatePort p l b s).settings = s.settings ∧
    (isolatePort p l b s).history = s.history ∧ (isolatePort p l b s).work = s.work ∧
    (isolatePort p l b s).shelfDirty = s.shelfDirty ∧ (isolatePort p l b s).changed = s.changed ∧
    (isolatePort p l b s).broughtBy = s.broughtBy := by
  unfold Machine.isolatePort
  dsimp only
  split
  · simp
  · split <;> split <;> split <;> simp

@[simp] theorem isolateSlot_frame (i : SlotId) :
    (isolateSlot i s).pending = s.pending ∧ (isolateSlot i s).time = s.time ∧
    (isolateSlot i s).held = s.held ∧ (isolateSlot i s).resetLine = s.resetLine ∧
    (isolateSlot i s).straps = s.straps ∧ (isolateSlot i s).pins = s.pins ∧
    (isolateSlot i s).feedALow = s.feedALow ∧ (isolateSlot i s).feedBLow = s.feedBLow ∧
    (isolateSlot i s).debounceFrom = s.debounceFrom ∧ (isolateSlot i s).cells = s.cells ∧
    (isolateSlot i s).mem = s.mem ∧ (isolateSlot i s).pointer = s.pointer ∧
    (isolateSlot i s).slots = s.slots ∧ (isolateSlot i s).alloc = s.alloc ∧
    (isolateSlot i s).power = s.power ∧ (isolateSlot i s).settings = s.settings ∧
    (isolateSlot i s).history = s.history ∧ (isolateSlot i s).work = s.work ∧
    (isolateSlot i s).shelfDirty = s.shelfDirty ∧ (isolateSlot i s).changed = s.changed ∧
    (isolateSlot i s).broughtBy = s.broughtBy := by
  unfold Machine.isolateSlot
  generalize slotPorts i = l
  simp only [offerTests_frame]
  induction l generalizing s with
  | nil => simp
  | cons p l ih => simp [ih]

@[simp] theorem resolveNodePort_frame (p : PortId) :
    (resolveNodePort s p).pending = s.pending ∧ (resolveNodePort s p).time = s.time ∧
    (resolveNodePort s p).held = s.held ∧ (resolveNodePort s p).resetLine = s.resetLine ∧
    (resolveNodePort s p).straps = s.straps ∧ (resolveNodePort s p).pins = s.pins ∧
    (resolveNodePort s p).feedALow = s.feedALow ∧ (resolveNodePort s p).feedBLow = s.feedBLow ∧
    (resolveNodePort s p).debounceFrom = s.debounceFrom ∧ (resolveNodePort s p).cells = s.cells ∧
    (resolveNodePort s p).mem = s.mem ∧ (resolveNodePort s p).pointer = s.pointer ∧
    (resolveNodePort s p).slots = s.slots ∧ (resolveNodePort s p).alloc = s.alloc ∧
    (resolveNodePort s p).power = s.power ∧ (resolveNodePort s p).settings = s.settings ∧
    (resolveNodePort s p).history = s.history ∧ (resolveNodePort s p).work = s.work ∧
    (resolveNodePort s p).shelfDirty = s.shelfDirty ∧ (resolveNodePort s p).changed = s.changed ∧
    (resolveNodePort s p).broughtBy = s.broughtBy := by
  unfold Machine.resolveNodePort
  split
  · simp
  · split <;> simp
  all_goals simp

@[simp] theorem resolveHubPort_frame (p : PortId) :
    (resolveHubPort s p).pending = s.pending ∧ (resolveHubPort s p).time = s.time ∧
    (resolveHubPort s p).held = s.held ∧ (resolveHubPort s p).resetLine = s.resetLine ∧
    (resolveHubPort s p).straps = s.straps ∧ (resolveHubPort s p).pins = s.pins ∧
    (resolveHubPort s p).feedALow = s.feedALow ∧ (resolveHubPort s p).feedBLow = s.feedBLow ∧
    (resolveHubPort s p).debounceFrom = s.debounceFrom ∧ (resolveHubPort s p).cells = s.cells ∧
    (resolveHubPort s p).mem = s.mem ∧ (resolveHubPort s p).pointer = s.pointer ∧
    (resolveHubPort s p).slots = s.slots ∧ (resolveHubPort s p).alloc = s.alloc ∧
    (resolveHubPort s p).power = s.power ∧ (resolveHubPort s p).settings = s.settings ∧
    (resolveHubPort s p).history = s.history ∧ (resolveHubPort s p).work = s.work ∧
    (resolveHubPort s p).shelfDirty = s.shelfDirty ∧ (resolveHubPort s p).changed = s.changed ∧
    (resolveHubPort s p).broughtBy = s.broughtBy := by
  unfold Machine.resolveHubPort
  split <;> simp

@[simp] theorem takeAccept_frame (p : PortId) :
    (takeAccept p s).pending = s.pending ∧ (takeAccept p s).time = s.time ∧
    (takeAccept p s).held = s.held ∧ (takeAccept p s).resetLine = s.resetLine ∧
    (takeAccept p s).straps = s.straps ∧ (takeAccept p s).pins = s.pins ∧
    (takeAccept p s).feedALow = s.feedALow ∧ (takeAccept p s).feedBLow = s.feedBLow ∧
    (takeAccept p s).debounceFrom = s.debounceFrom ∧ (takeAccept p s).cells = s.cells ∧
    (takeAccept p s).mem = s.mem ∧ (takeAccept p s).pointer = s.pointer ∧
    (takeAccept p s).slots = s.slots ∧ (takeAccept p s).alloc = s.alloc ∧
    (takeAccept p s).power = s.power ∧ (takeAccept p s).settings = s.settings ∧
    (takeAccept p s).history = s.history ∧ (takeAccept p s).work = s.work ∧
    (takeAccept p s).shelfDirty = s.shelfDirty ∧ (takeAccept p s).changed = s.changed ∧
    (takeAccept p s).broughtBy = s.broughtBy := by
  unfold Machine.takeAccept
  split
  · split <;> simp
  · simp

@[simp] theorem takeRefuse_frame (p : PortId) :
    (takeRefuse p s).pending = s.pending ∧ (takeRefuse p s).time = s.time ∧
    (takeRefuse p s).held = s.held ∧ (takeRefuse p s).resetLine = s.resetLine ∧
    (takeRefuse p s).straps = s.straps ∧ (takeRefuse p s).pins = s.pins ∧
    (takeRefuse p s).feedALow = s.feedALow ∧ (takeRefuse p s).feedBLow = s.feedBLow ∧
    (takeRefuse p s).debounceFrom = s.debounceFrom ∧ (takeRefuse p s).cells = s.cells ∧
    (takeRefuse p s).mem = s.mem ∧ (takeRefuse p s).pointer = s.pointer ∧
    (takeRefuse p s).slots = s.slots ∧ (takeRefuse p s).alloc = s.alloc ∧
    (takeRefuse p s).power = s.power ∧ (takeRefuse p s).settings = s.settings ∧
    (takeRefuse p s).history = s.history ∧ (takeRefuse p s).work = s.work ∧
    (takeRefuse p s).shelfDirty = s.shelfDirty ∧ (takeRefuse p s).changed = s.changed ∧
    (takeRefuse p s).broughtBy = s.broughtBy := by simp [Machine.takeRefuse]

@[simp] theorem takeLater_frame (p : PortId) :
    (takeLater p s).pending = s.pending ∧ (takeLater p s).time = s.time ∧
    (takeLater p s).held = s.held ∧ (takeLater p s).resetLine = s.resetLine ∧
    (takeLater p s).straps = s.straps ∧ (takeLater p s).pins = s.pins ∧
    (takeLater p s).feedALow = s.feedALow ∧ (takeLater p s).feedBLow = s.feedBLow ∧
    (takeLater p s).debounceFrom = s.debounceFrom ∧ (takeLater p s).cells = s.cells ∧
    (takeLater p s).mem = s.mem ∧ (takeLater p s).pointer = s.pointer ∧
    (takeLater p s).slots = s.slots ∧ (takeLater p s).alloc = s.alloc ∧
    (takeLater p s).power = s.power ∧ (takeLater p s).settings = s.settings ∧
    (takeLater p s).history = s.history ∧ (takeLater p s).work = s.work ∧
    (takeLater p s).shelfDirty = s.shelfDirty ∧ (takeLater p s).changed = s.changed ∧
    (takeLater p s).broughtBy = s.broughtBy := by
  unfold Machine.takeLater
  split <;> simp

@[simp] theorem abortPort_frame (i : SlotId) (l : List SlotId) (p : PortId) :
    (abortPort i l s p).pending = s.pending ∧ (abortPort i l s p).time = s.time ∧
    (abortPort i l s p).held = s.held ∧ (abortPort i l s p).resetLine = s.resetLine ∧
    (abortPort i l s p).straps = s.straps ∧ (abortPort i l s p).pins = s.pins ∧
    (abortPort i l s p).feedALow = s.feedALow ∧ (abortPort i l s p).feedBLow = s.feedBLow ∧
    (abortPort i l s p).debounceFrom = s.debounceFrom ∧ (abortPort i l s p).cells = s.cells ∧
    (abortPort i l s p).mem = s.mem ∧ (abortPort i l s p).pointer = s.pointer ∧
    (abortPort i l s p).slots = s.slots ∧ (abortPort i l s p).alloc = s.alloc ∧
    (abortPort i l s p).power = s.power ∧ (abortPort i l s p).settings = s.settings ∧
    (abortPort i l s p).history = s.history ∧ (abortPort i l s p).work = s.work ∧
    (abortPort i l s p).shelfDirty = s.shelfDirty ∧ (abortPort i l s p).changed = s.changed ∧
    (abortPort i l s p).broughtBy = s.broughtBy := by
  unfold Machine.abortPort
  dsimp only
  generalize (if nodeSlot p = i then hubSlot p else nodeSlot p) = other
  split
  · simp
  · split <;> simp

@[simp] theorem writeNotice_reads (n : Notice) :
    (∀ j, (writeNotice n s).slot j = s.slot j) ∧ (∀ j, (writeNotice n s).pwr j = s.pwr j) ∧
    (∀ j, (writeNotice n s).engine j = s.engine j) ∧
    (∀ j, (writeNotice n s).linkUp j = s.linkUp j) ∧
    (∀ q, (writeNotice n s).portOf q = s.portOf q) ∧
    (∀ j, (writeNotice n s).pinsOf j = s.pinsOf j) ∧ (∀ k, (writeNotice n s).cell k = s.cell k) :=
  ⟨slot_congr (by simp), pwr_congr (by simp), engine_congr (by simp), linkUp_congr (by simp),
    portOf_congr (by simp), pinsOf_congr (by simp), cell_congr (by simp)⟩

@[simp] theorem foldNotice_reads (n : Notice) :
    (∀ j, (foldNotice n s).slot j = s.slot j) ∧ (∀ j, (foldNotice n s).pwr j = s.pwr j) ∧
    (∀ j, (foldNotice n s).engine j = s.engine j) ∧
    (∀ j, (foldNotice n s).linkUp j = s.linkUp j) ∧
    (∀ q, (foldNotice n s).portOf q = s.portOf q) ∧
    (∀ j, (foldNotice n s).pinsOf j = s.pinsOf j) ∧ (∀ k, (foldNotice n s).cell k = s.cell k) :=
  ⟨slot_congr (by simp), pwr_congr (by simp), engine_congr (by simp), linkUp_congr (by simp),
    portOf_congr (by simp), pinsOf_congr (by simp), cell_congr (by simp)⟩

@[simp] theorem roomTest_reads :
    (∀ j, (roomTest s).slot j = s.slot j) ∧ (∀ j, (roomTest s).pwr j = s.pwr j) ∧
    (∀ j, (roomTest s).engine j = s.engine j) ∧ (∀ j, (roomTest s).linkUp j = s.linkUp j) ∧
    (∀ q, (roomTest s).portOf q = s.portOf q) ∧ (∀ j, (roomTest s).pinsOf j = s.pinsOf j) ∧
    (∀ k, (roomTest s).cell k = s.cell k) :=
  ⟨slot_congr (by simp), pwr_congr (by simp), engine_congr (by simp), linkUp_congr (by simp),
    portOf_congr (by simp), pinsOf_congr (by simp), cell_congr (by simp)⟩

@[simp] theorem takeNotice_reads (n : Notice) :
    (∀ j, (takeNotice n s).slot j = s.slot j) ∧ (∀ j, (takeNotice n s).pwr j = s.pwr j) ∧
    (∀ j, (takeNotice n s).engine j = s.engine j) ∧
    (∀ j, (takeNotice n s).linkUp j = s.linkUp j) ∧
    (∀ q, (takeNotice n s).portOf q = s.portOf q) ∧
    (∀ j, (takeNotice n s).pinsOf j = s.pinsOf j) ∧ (∀ k, (takeNotice n s).cell k = s.cell k) :=
  ⟨slot_congr (by simp), pwr_congr (by simp), engine_congr (by simp), linkUp_congr (by simp),
    portOf_congr (by simp), pinsOf_congr (by simp), cell_congr (by simp)⟩

@[simp] theorem handNotice_reads (n : Notice) :
    (∀ j, (handNotice n s).slot j = s.slot j) ∧ (∀ j, (handNotice n s).pwr j = s.pwr j) ∧
    (∀ j, (handNotice n s).engine j = s.engine j) ∧
    (∀ j, (handNotice n s).linkUp j = s.linkUp j) ∧
    (∀ q, (handNotice n s).portOf q = s.portOf q) ∧
    (∀ j, (handNotice n s).pinsOf j = s.pinsOf j) ∧ (∀ k, (handNotice n s).cell k = s.cell k) :=
  ⟨slot_congr (by simp), pwr_congr (by simp), engine_congr (by simp), linkUp_congr (by simp),
    portOf_congr (by simp), pinsOf_congr (by simp), cell_congr (by simp)⟩

@[simp] theorem portNotice_reads (p : PortId) (d : PortDetail) (st : PortState) :
    (∀ j, (portNotice p d st s).slot j = s.slot j) ∧
    (∀ j, (portNotice p d st s).pwr j = s.pwr j) ∧
    (∀ j, (portNotice p d st s).engine j = s.engine j) ∧
    (∀ j, (portNotice p d st s).linkUp j = s.linkUp j) ∧
    (∀ q, (portNotice p d st s).portOf q = s.portOf q) ∧
    (∀ j, (portNotice p d st s).pinsOf j = s.pinsOf j) ∧
    (∀ k, (portNotice p d st s).cell k = s.cell k) :=
  ⟨slot_congr (by simp), pwr_congr (by simp), engine_congr (by simp), linkUp_congr (by simp),
    portOf_congr (by simp), pinsOf_congr (by simp), cell_congr (by simp)⟩

@[simp] theorem linkNotice_reads (i : SlotId) (b : Bool) :
    (∀ j, (linkNotice i b s).slot j = s.slot j) ∧ (∀ j, (linkNotice i b s).pwr j = s.pwr j) ∧
    (∀ j, (linkNotice i b s).engine j = s.engine j) ∧
    (∀ j, (linkNotice i b s).linkUp j = s.linkUp j) ∧
    (∀ q, (linkNotice i b s).portOf q = s.portOf q) ∧
    (∀ j, (linkNotice i b s).pinsOf j = s.pinsOf j) ∧ (∀ k, (linkNotice i b s).cell k = s.cell k) :=
  ⟨slot_congr (by simp), pwr_congr (by simp), engine_congr (by simp), linkUp_congr (by simp),
    portOf_congr (by simp), pinsOf_congr (by simp), cell_congr (by simp)⟩

@[simp] theorem handResumed_reads (i : SlotId) (d : ResumedDetail) :
    (∀ j, (handResumed i d s).slot j = s.slot j) ∧ (∀ j, (handResumed i d s).pwr j = s.pwr j) ∧
    (∀ j, (handResumed i d s).engine j = s.engine j) ∧
    (∀ j, (handResumed i d s).linkUp j = s.linkUp j) ∧
    (∀ q, (handResumed i d s).portOf q = s.portOf q) ∧
    (∀ j, (handResumed i d s).pinsOf j = s.pinsOf j) ∧
    (∀ k, (handResumed i d s).cell k = s.cell k) :=
  ⟨slot_congr (by simp), pwr_congr (by simp), engine_congr (by simp), linkUp_congr (by simp),
    portOf_congr (by simp), pinsOf_congr (by simp), cell_congr (by simp)⟩

@[simp] theorem serveLink_reads (i : SlotId) :
    (∀ j, (serveLink i s).slot j = s.slot j) ∧ (∀ j, (serveLink i s).pwr j = s.pwr j) ∧
    (∀ q, (serveLink i s).portOf q = s.portOf q) ∧ (∀ j, (serveLink i s).pinsOf j = s.pinsOf j) ∧
    (∀ k, (serveLink i s).cell k = s.cell k) :=
  ⟨slot_congr (by simp), pwr_congr (by simp), portOf_congr (by simp), pinsOf_congr (by simp),
    cell_congr (by simp)⟩

@[simp] theorem enqueue_reads (i : SlotId) (m : Msg) (b : Placer) :
    (∀ j, (enqueue i m b s).slot j = s.slot j) ∧ (∀ j, (enqueue i m b s).pwr j = s.pwr j) ∧
    (∀ q, (enqueue i m b s).portOf q = s.portOf q) ∧ (∀ j, (enqueue i m b s).pinsOf j = s.pinsOf j) ∧
    (∀ k, (enqueue i m b s).cell k = s.cell k) :=
  ⟨slot_congr (by simp), pwr_congr (by simp), portOf_congr (by simp), pinsOf_congr (by simp),
    cell_congr (by simp)⟩

@[simp] theorem putBack_reads (i : SlotId) (ms : Nat) :
    (∀ j, (putBack i ms s).slot j = s.slot j) ∧ (∀ j, (putBack i ms s).pwr j = s.pwr j) ∧
    (∀ q, (putBack i ms s).portOf q = s.portOf q) ∧
    (∀ j, (putBack i ms s).pinsOf j = s.pinsOf j) ∧ (∀ k, (putBack i ms s).cell k = s.cell k) :=
  ⟨slot_congr (by simp), pwr_congr (by simp), portOf_congr (by simp), pinsOf_congr (by simp),
    cell_congr (by simp)⟩

@[simp] theorem endMessages_reads (i : SlotId) (p : Msg → Bool) :
    (∀ j, (endMessages i p s).slot j = s.slot j) ∧ (∀ j, (endMessages i p s).pwr j = s.pwr j) ∧
    (∀ q, (endMessages i p s).portOf q = s.portOf q) ∧
    (∀ j, (endMessages i p s).pinsOf j = s.pinsOf j) ∧
    (∀ k, (endMessages i p s).cell k = s.cell k) :=
  ⟨slot_congr (by simp), pwr_congr (by simp), portOf_congr (by simp), pinsOf_congr (by simp),
    cell_congr (by simp)⟩

@[simp] theorem endOwn_reads (i : SlotId) :
    (∀ j, (endOwn i s).slot j = s.slot j) ∧ (∀ j, (endOwn i s).pwr j = s.pwr j) ∧
    (∀ q, (endOwn i s).portOf q = s.portOf q) ∧ (∀ j, (endOwn i s).pinsOf j = s.pinsOf j) ∧
    (∀ k, (endOwn i s).cell k = s.cell k) :=
  ⟨slot_congr (by simp), pwr_congr (by simp), portOf_congr (by simp), pinsOf_congr (by simp),
    cell_congr (by simp)⟩

@[simp] theorem placePort_reads (i : SlotId) (m : Msg) :
    (∀ j, (placePort i m s).slot j = s.slot j) ∧ (∀ j, (placePort i m s).pwr j = s.pwr j) ∧
    (∀ q, (placePort i m s).portOf q = s.portOf q) ∧
    (∀ j, (placePort i m s).pinsOf j = s.pinsOf j) ∧ (∀ k, (placePort i m s).cell k = s.cell k) :=
  ⟨slot_congr (by simp), pwr_congr (by simp), portOf_congr (by simp), pinsOf_congr (by simp),
    cell_congr (by simp)⟩

@[simp] theorem placeOwn_reads (i : SlotId) (m : Msg) :
    (∀ j, (placeOwn i m s).slot j = s.slot j) ∧ (∀ j, (placeOwn i m s).pwr j = s.pwr j) ∧
    (∀ q, (placeOwn i m s).portOf q = s.portOf q) ∧
    (∀ j, (placeOwn i m s).pinsOf j = s.pinsOf j) ∧ (∀ k, (placeOwn i m s).cell k = s.cell k) :=
  ⟨slot_congr (by simp), pwr_congr (by simp), portOf_congr (by simp), pinsOf_congr (by simp),
    cell_congr (by simp)⟩

@[simp] theorem askProbe_reads (i : SlotId) (b : Placer) :
    (∀ j, (askProbe i b s).slot j = s.slot j) ∧ (∀ j, (askProbe i b s).pwr j = s.pwr j) ∧
    (∀ q, (askProbe i b s).portOf q = s.portOf q) ∧ (∀ j, (askProbe i b s).pinsOf j = s.pinsOf j) ∧
    (∀ k, (askProbe i b s).cell k = s.cell k) :=
  ⟨slot_congr (by simp), pwr_congr (by simp), portOf_congr (by simp), pinsOf_congr (by simp),
    cell_congr (by simp)⟩

@[simp] theorem alertTest_reads (i : SlotId) :
    (∀ j, (alertTest i s).slot j = s.slot j) ∧ (∀ j, (alertTest i s).pwr j = s.pwr j) ∧
    (∀ q, (alertTest i s).portOf q = s.portOf q) ∧ (∀ j, (alertTest i s).pinsOf j = s.pinsOf j) ∧
    (∀ k, (alertTest i s).cell k = s.cell k) :=
  ⟨slot_congr (by simp), pwr_congr (by simp), portOf_congr (by simp), pinsOf_congr (by simp),
    cell_congr (by simp)⟩

@[simp] theorem endRequest_reads (i : SlotId) :
    (∀ j, (endRequest i s).slot j = s.slot j) ∧ (∀ j, (endRequest i s).pwr j = s.pwr j) ∧
    (∀ q, (endRequest i s).portOf q = s.portOf q) ∧
    (∀ j, (endRequest i s).pinsOf j = s.pinsOf j) ∧ (∀ k, (endRequest i s).cell k = s.cell k) :=
  ⟨slot_congr (by simp), pwr_congr (by simp), portOf_congr (by simp), pinsOf_congr (by simp),
    cell_congr (by simp)⟩

@[simp] theorem afterRequest_reads (i : SlotId) (m : Msg) :
    (∀ j, (afterRequest i m s).slot j = s.slot j) ∧ (∀ j, (afterRequest i m s).pwr j = s.pwr j) ∧
    (∀ q, (afterRequest i m s).portOf q = s.portOf q) ∧
    (∀ j, (afterRequest i m s).pinsOf j = s.pinsOf j) ∧
    (∀ k, (afterRequest i m s).cell k = s.cell k) :=
  ⟨slot_congr (by simp), pwr_congr (by simp), portOf_congr (by simp), pinsOf_congr (by simp),
    cell_congr (by simp)⟩

@[simp] theorem writeResult_reads (c : CellId) (st : CellState) (r : CellResult) :
    (∀ j, (writeResult c st r s).slot j = s.slot j) ∧
    (∀ j, (writeResult c st r s).pwr j = s.pwr j) ∧
    (∀ j, (writeResult c st r s).engine j = s.engine j) ∧
    (∀ j, (writeResult c st r s).linkUp j = s.linkUp j) ∧
    (∀ q, (writeResult c st r s).portOf q = s.portOf q) ∧
    (∀ j, (writeResult c st r s).pinsOf j = s.pinsOf j) :=
  ⟨slot_congr (by simp), pwr_congr (by simp), engine_congr (by simp), linkUp_congr (by simp),
    portOf_congr (by simp), pinsOf_congr (by simp)⟩

@[simp] theorem refuseCell_reads (c : CellId) (x : OrderRefusal) (i : Option SlotId) (t : Time) :
    (∀ j, (refuseCell c x i t s).slot j = s.slot j) ∧
    (∀ j, (refuseCell c x i t s).pwr j = s.pwr j) ∧
    (∀ j, (refuseCell c x i t s).engine j = s.engine j) ∧
    (∀ j, (refuseCell c x i t s).linkUp j = s.linkUp j) ∧
    (∀ q, (refuseCell c x i t s).portOf q = s.portOf q) ∧
    (∀ j, (refuseCell c x i t s).pinsOf j = s.pinsOf j) :=
  ⟨slot_congr (by simp), pwr_congr (by simp), engine_congr (by simp), linkUp_congr (by simp),
    portOf_congr (by simp), pinsOf_congr (by simp)⟩

@[simp] theorem finishCell_reads (c : CellId) (i : SlotId) (o : OrderOutcome) (t : Time) (x : Option FaultCause) (d : List Byte) :
    (∀ j, (finishCell c i o t x d s).slot j = s.slot j) ∧
    (∀ j, (finishCell c i o t x d s).pwr j = s.pwr j) ∧
    (∀ j, (finishCell c i o t x d s).engine j = s.engine j) ∧
    (∀ j, (finishCell c i o t x d s).linkUp j = s.linkUp j) ∧
    (∀ q, (finishCell c i o t x d s).portOf q = s.portOf q) ∧
    (∀ j, (finishCell c i o t x d s).pinsOf j = s.pinsOf j) :=
  ⟨slot_congr (by simp), pwr_congr (by simp), engine_congr (by simp), linkUp_congr (by simp),
    portOf_congr (by simp), pinsOf_congr (by simp)⟩

@[simp] theorem finishShelfCell_reads (c : CellId) (o : OrderOutcome) (t : Time) :
    (∀ j, (finishShelfCell c o t s).slot j = s.slot j) ∧
    (∀ j, (finishShelfCell c o t s).pwr j = s.pwr j) ∧
    (∀ j, (finishShelfCell c o t s).engine j = s.engine j) ∧
    (∀ j, (finishShelfCell c o t s).linkUp j = s.linkUp j) ∧
    (∀ q, (finishShelfCell c o t s).portOf q = s.portOf q) ∧
    (∀ j, (finishShelfCell c o t s).pinsOf j = s.pinsOf j) :=
  ⟨slot_congr (by simp), pwr_congr (by simp), engine_congr (by simp), linkUp_congr (by simp),
    portOf_congr (by simp), pinsOf_congr (by simp)⟩

@[simp] theorem finishActive_reads (i : SlotId) (o : OrderOutcome) (x : Option FaultCause) (d : List Byte) :
    (∀ j, (finishActive i o x d s).pwr j = s.pwr j) ∧
    (∀ j, (finishActive i o x d s).engine j = s.engine j) ∧
    (∀ j, (finishActive i o x d s).linkUp j = s.linkUp j) ∧
    (∀ q, (finishActive i o x d s).portOf q = s.portOf q) ∧
    (∀ j, (finishActive i o x d s).pinsOf j = s.pinsOf j) :=
  ⟨pwr_congr (by simp), engine_congr (by simp), linkUp_congr (by simp), portOf_congr (by simp),
    pinsOf_congr (by simp)⟩

@[simp] theorem finishActiveIf_reads (k : OrderKind) (i : SlotId) (o : OrderOutcome) (x : Option FaultCause) (d : List Byte) :
    (∀ j, (finishActiveIf k i o x d s).pwr j = s.pwr j) ∧
    (∀ j, (finishActiveIf k i o x d s).engine j = s.engine j) ∧
    (∀ j, (finishActiveIf k i o x d s).linkUp j = s.linkUp j) ∧
    (∀ q, (finishActiveIf k i o x d s).portOf q = s.portOf q) ∧
    (∀ j, (finishActiveIf k i o x d s).pinsOf j = s.pinsOf j) :=
  ⟨pwr_congr (by simp), engine_congr (by simp), linkUp_congr (by simp), portOf_congr (by simp),
    pinsOf_congr (by simp)⟩

@[simp] theorem finishEntries_reads (i : SlotId) (o : OrderOutcome) (l : List OrderEntry) :
    (∀ j, (finishEntries i o l s).slot j = s.slot j) ∧
    (∀ j, (finishEntries i o l s).pwr j = s.pwr j) ∧
    (∀ j, (finishEntries i o l s).engine j = s.engine j) ∧
    (∀ j, (finishEntries i o l s).linkUp j = s.linkUp j) ∧
    (∀ q, (finishEntries i o l s).portOf q = s.portOf q) ∧
    (∀ j, (finishEntries i o l s).pinsOf j = s.pinsOf j) :=
  ⟨slot_congr (by simp), pwr_congr (by simp), engine_congr (by simp), linkUp_congr (by simp),
    portOf_congr (by simp), pinsOf_congr (by simp)⟩

@[simp] theorem finishAll_reads (i : SlotId) (o : OrderOutcome) :
    (∀ j, (finishAll i o s).pwr j = s.pwr j) ∧ (∀ j, (finishAll i o s).engine j = s.engine j) ∧
    (∀ j, (finishAll i o s).linkUp j = s.linkUp j) ∧
    (∀ q, (finishAll i o s).portOf q = s.portOf q) ∧
    (∀ j, (finishAll i o s).pinsOf j = s.pinsOf j) :=
  ⟨pwr_congr (by simp), engine_congr (by simp), linkUp_congr (by simp), portOf_congr (by simp),
    pinsOf_congr (by simp)⟩

@[simp] theorem finishWaiting_reads (i : SlotId) (o : OrderOutcome) :
    (∀ j, (finishWaiting i o s).pwr j = s.pwr j) ∧
    (∀ j, (finishWaiting i o s).engine j = s.engine j) ∧
    (∀ j, (finishWaiting i o s).linkUp j = s.linkUp j) ∧
    (∀ q, (finishWaiting i o s).portOf q = s.portOf q) ∧
    (∀ j, (finishWaiting i o s).pinsOf j = s.pinsOf j) :=
  ⟨pwr_congr (by simp), engine_congr (by simp), linkUp_congr (by simp), portOf_congr (by simp),
    pinsOf_congr (by simp)⟩

@[simp] theorem moveSlot_reads (i : SlotId) (n : SlotState) :
    (∀ j, (moveSlot i n s).pwr j = s.pwr j) ∧ (∀ q, (moveSlot i n s).portOf q = s.portOf q) ∧
    (∀ j, (moveSlot i n s).pinsOf j = s.pinsOf j) ∧ (∀ k, (moveSlot i n s).cell k = s.cell k) :=
  ⟨pwr_congr (by simp), portOf_congr (by simp), pinsOf_congr (by simp), cell_congr (by simp)⟩

@[simp] theorem changeState_reads (i : SlotId) (n : SlotState) (d : StateDetail) (t : Option Word16) :
    (∀ j, (changeState i n d t s).pwr j = s.pwr j) ∧
    (∀ q, (changeState i n d t s).portOf q = s.portOf q) ∧
    (∀ j, (changeState i n d t s).pinsOf j = s.pinsOf j) ∧
    (∀ k, (changeState i n d t s).cell k = s.cell k) :=
  ⟨pwr_congr (by simp), portOf_congr (by simp), pinsOf_congr (by simp), cell_congr (by simp)⟩

@[simp] theorem changeStateOwn_reads (i : SlotId) (n : SlotState) (d : StateDetail) :
    (∀ j, (changeStateOwn i n d s).pwr j = s.pwr j) ∧
    (∀ q, (changeStateOwn i n d s).portOf q = s.portOf q) ∧
    (∀ j, (changeStateOwn i n d s).pinsOf j = s.pinsOf j) ∧
    (∀ k, (changeStateOwn i n d s).cell k = s.cell k) :=
  ⟨pwr_congr (by simp), portOf_congr (by simp), pinsOf_congr (by simp), cell_congr (by simp)⟩

@[simp] theorem rampEnded_reads (i : SlotId) :
    (∀ j, (rampEnded i s).slot j = s.slot j) ∧ (∀ j, (rampEnded i s).pwr j = s.pwr j) ∧
    (∀ j, (rampEnded i s).engine j = s.engine j) ∧ (∀ j, (rampEnded i s).linkUp j = s.linkUp j) ∧
    (∀ q, (rampEnded i s).portOf q = s.portOf q) ∧ (∀ j, (rampEnded i s).pinsOf j = s.pinsOf j) ∧
    (∀ k, (rampEnded i s).cell k = s.cell k) :=
  ⟨slot_congr (by simp), pwr_congr (by simp), engine_congr (by simp), linkUp_congr (by simp),
    portOf_congr (by simp), pinsOf_congr (by simp), cell_congr (by simp)⟩

@[simp] theorem powerOff_reads (i : SlotId) :
    (∀ j, (powerOff i s).slot j = s.slot j) ∧ (∀ j, (powerOff i s).engine j = s.engine j) ∧
    (∀ j, (powerOff i s).linkUp j = s.linkUp j) ∧ (∀ q, (powerOff i s).portOf q = s.portOf q) ∧
    (∀ j, (powerOff i s).pinsOf j = s.pinsOf j) ∧ (∀ k, (powerOff i s).cell k = s.cell k) :=
  ⟨slot_congr (by simp), engine_congr (by simp), linkUp_congr (by simp), portOf_congr (by simp),
    pinsOf_congr (by simp), cell_congr (by simp)⟩

@[simp] theorem rampStart_reads (i : SlotId) :
    (∀ j, (rampStart i s).slot j = s.slot j) ∧ (∀ j, (rampStart i s).engine j = s.engine j) ∧
    (∀ j, (rampStart i s).linkUp j = s.linkUp j) ∧ (∀ q, (rampStart i s).portOf q = s.portOf q) ∧
    (∀ j, (rampStart i s).pinsOf j = s.pinsOf j) ∧ (∀ k, (rampStart i s).cell k = s.cell k) :=
  ⟨slot_congr (by simp), engine_congr (by simp), linkUp_congr (by simp), portOf_congr (by simp),
    pinsOf_congr (by simp), cell_congr (by simp)⟩

@[simp] theorem returnClaim_reads (i : SlotId) :
    (∀ j, (returnClaim i s).pwr j = s.pwr j) ∧ (∀ j, (returnClaim i s).engine j = s.engine j) ∧
    (∀ j, (returnClaim i s).linkUp j = s.linkUp j) ∧
    (∀ q, (returnClaim i s).portOf q = s.portOf q) ∧
    (∀ j, (returnClaim i s).pinsOf j = s.pinsOf j) ∧ (∀ k, (returnClaim i s).cell k = s.cell k) :=
  ⟨pwr_congr (by simp), engine_congr (by simp), linkUp_congr (by simp), portOf_congr (by simp),
    pinsOf_congr (by simp), cell_congr (by simp)⟩

@[simp] theorem reportFrom_reads (n : Nat) (l : List QueueEntry) :
    (∀ j, (reportFrom n l s).pwr j = s.pwr j) ∧ (∀ j, (reportFrom n l s).engine j = s.engine j) ∧
    (∀ j, (reportFrom n l s).linkUp j = s.linkUp j) ∧
    (∀ q, (reportFrom n l s).portOf q = s.portOf q) ∧
    (∀ j, (reportFrom n l s).pinsOf j = s.pinsOf j) ∧ (∀ k, (reportFrom n l s).cell k = s.cell k) :=
  ⟨pwr_congr (by simp), engine_congr (by simp), linkUp_congr (by simp), portOf_congr (by simp),
    pinsOf_congr (by simp), cell_congr (by simp)⟩

@[simp] theorem setQueue_reads (l : List QueueEntry) :
    (∀ j, (setQueue l s).pwr j = s.pwr j) ∧ (∀ j, (setQueue l s).engine j = s.engine j) ∧
    (∀ j, (setQueue l s).linkUp j = s.linkUp j) ∧ (∀ q, (setQueue l s).portOf q = s.portOf q) ∧
    (∀ j, (setQueue l s).pinsOf j = s.pinsOf j) ∧ (∀ k, (setQueue l s).cell k = s.cell k) :=
  ⟨pwr_congr (by simp), engine_congr (by simp), linkUp_congr (by simp), portOf_congr (by simp),
    pinsOf_congr (by simp), cell_congr (by simp)⟩

@[simp] theorem joinQueue_reads (i : SlotId) (c : CellId) :
    (∀ j, (joinQueue i c s).pwr j = s.pwr j) ∧ (∀ j, (joinQueue i c s).engine j = s.engine j) ∧
    (∀ j, (joinQueue i c s).linkUp j = s.linkUp j) ∧
    (∀ q, (joinQueue i c s).portOf q = s.portOf q) ∧
    (∀ j, (joinQueue i c s).pinsOf j = s.pinsOf j) ∧ (∀ k, (joinQueue i c s).cell k = s.cell k) :=
  ⟨pwr_congr (by simp), engine_congr (by simp), linkUp_congr (by simp), portOf_congr (by simp),
    pinsOf_congr (by simp), cell_congr (by simp)⟩

@[simp] theorem removeEntry_reads (i : SlotId) :
    (∀ j, (removeEntry i s).pwr j = s.pwr j) ∧ (∀ j, (removeEntry i s).engine j = s.engine j) ∧
    (∀ j, (removeEntry i s).linkUp j = s.linkUp j) ∧
    (∀ q, (removeEntry i s).portOf q = s.portOf q) ∧
    (∀ j, (removeEntry i s).pinsOf j = s.pinsOf j) ∧ (∀ k, (removeEntry i s).cell k = s.cell k) :=
  ⟨pwr_congr (by simp), engine_congr (by simp), linkUp_congr (by simp), portOf_congr (by simp),
    pinsOf_congr (by simp), cell_congr (by simp)⟩

@[simp] theorem toIsolated_reads (p : PortId) :
    (∀ j, (toIsolated p s).slot j = s.slot j) ∧ (∀ j, (toIsolated p s).pwr j = s.pwr j) ∧
    (∀ j, (toIsolated p s).engine j = s.engine j) ∧
    (∀ j, (toIsolated p s).linkUp j = s.linkUp j) ∧
    (∀ j, (toIsolated p s).pinsOf j = s.pinsOf j) ∧ (∀ k, (toIsolated p s).cell k = s.cell k) :=
  ⟨slot_congr (by simp), pwr_congr (by simp), engine_congr (by simp), linkUp_congr (by simp),
    pinsOf_congr (by simp), cell_congr (by simp)⟩

@[simp] theorem offerTest_reads (p : PortId) :
    (∀ j, (offerTest p s).slot j = s.slot j) ∧ (∀ j, (offerTest p s).pwr j = s.pwr j) ∧
    (∀ j, (offerTest p s).pinsOf j = s.pinsOf j) ∧ (∀ k, (offerTest p s).cell k = s.cell k) :=
  ⟨slot_congr (by simp), pwr_congr (by simp), pinsOf_congr (by simp), cell_congr (by simp)⟩

@[simp] theorem offerTests_reads (l : List PortId) :
    (∀ j, (offerTests l s).slot j = s.slot j) ∧ (∀ j, (offerTests l s).pwr j = s.pwr j) ∧
    (∀ j, (offerTests l s).pinsOf j = s.pinsOf j) ∧ (∀ k, (offerTests l s).cell k = s.cell k) :=
  ⟨slot_congr (by simp), pwr_congr (by simp), pinsOf_congr (by simp), cell_congr (by simp)⟩

@[simp] theorem clearDeclined_reads (i : SlotId) :
    (∀ j, (clearDeclined i s).slot j = s.slot j) ∧ (∀ j, (clearDeclined i s).pwr j = s.pwr j) ∧
    (∀ j, (clearDeclined i s).engine j = s.engine j) ∧
    (∀ j, (clearDeclined i s).linkUp j = s.linkUp j) ∧
    (∀ j, (clearDeclined i s).pinsOf j = s.pinsOf j) ∧
    (∀ k, (clearDeclined i s).cell k = s.cell k) :=
  ⟨slot_congr (by simp), pwr_congr (by simp), engine_congr (by simp), linkUp_congr (by simp),
    pinsOf_congr (by simp), cell_congr (by simp)⟩

@[simp] theorem beginJoin_reads (i : SlotId) :
    (∀ j, (beginJoin i s).slot j = s.slot j) ∧ (∀ j, (beginJoin i s).pwr j = s.pwr j) ∧
    (∀ j, (beginJoin i s).pinsOf j = s.pinsOf j) ∧ (∀ k, (beginJoin i s).cell k = s.cell k) :=
  ⟨slot_congr (by simp), pwr_congr (by simp), pinsOf_congr (by simp), cell_congr (by simp)⟩

@[simp] theorem toWithdrawing_reads (p : PortId) (b l : Bool) :
    (∀ j, (toWithdrawing p b l s).slot j = s.slot j) ∧
    (∀ j, (toWithdrawing p b l s).pwr j = s.pwr j) ∧
    (∀ j, (toWithdrawing p b l s).pinsOf j = s.pinsOf j) ∧
    (∀ k, (toWithdrawing p b l s).cell k = s.cell k) :=
  ⟨slot_congr (by simp), pwr_congr (by simp), pinsOf_congr (by simp), cell_congr (by simp)⟩

@[simp] theorem toClosing_reads (p : PortId) :
    (∀ j, (toClosing p s).slot j = s.slot j) ∧ (∀ j, (toClosing p s).pwr j = s.pwr j) ∧
    (∀ j, (toClosing p s).pinsOf j = s.pinsOf j) ∧ (∀ k, (toClosing p s).cell k = s.cell k) :=
  ⟨slot_congr (by simp), pwr_congr (by simp), pinsOf_congr (by simp), cell_congr (by simp)⟩

@[simp] theorem withdrawPort_reads (p : PortId) :
    (∀ j, (withdrawPort s p).slot j = s.slot j) ∧ (∀ j, (withdrawPort s p).pwr j = s.pwr j) ∧
    (∀ j, (withdrawPort s p).pinsOf j = s.pinsOf j) ∧ (∀ k, (withdrawPort s p).cell k = s.cell k) :=
  ⟨slot_congr (by simp), pwr_congr (by simp), pinsOf_congr (by simp), cell_congr (by simp)⟩

@[simp] theorem withdrawSlot_reads (i : SlotId) :
    (∀ j, (withdrawSlot i s).slot j = s.slot j) ∧ (∀ j, (withdrawSlot i s).pwr j = s.pwr j) ∧
    (∀ j, (withdrawSlot i s).pinsOf j = s.pinsOf j) ∧ (∀ k, (withdrawSlot i s).cell k = s.cell k) :=
  ⟨slot_congr (by simp), pwr_congr (by simp), pinsOf_congr (by simp), cell_congr (by simp)⟩

@[simp] theorem isolatePort_reads (p : PortId) (l : Option SlotId) (b : Bool) :
    (∀ j, (isolatePort p l b s).slot j = s.slot j) ∧
    (∀ j, (isolatePort p l b s).pwr j = s.pwr j) ∧
    (∀ j, (isolatePort p l b s).pinsOf j = s.pinsOf j) ∧
    (∀ k, (isolatePort p l b s).cell k = s.cell k) :=
  ⟨slot_congr (by simp), pwr_congr (by simp), pinsOf_congr (by simp), cell_congr (by simp)⟩

@[simp] theorem isolateSlot_reads (i : SlotId) :
    (∀ j, (isolateSlot i s).slot j = s.slot j) ∧ (∀ j, (isolateSlot i s).pwr j = s.pwr j) ∧
    (∀ j, (isolateSlot i s).pinsOf j = s.pinsOf j) ∧ (∀ k, (isolateSlot i s).cell k = s.cell k) :=
  ⟨slot_congr (by simp), pwr_congr (by simp), pinsOf_congr (by simp), cell_congr (by simp)⟩

@[simp] theorem resolveNodePort_reads (p : PortId) :
    (∀ j, (resolveNodePort s p).slot j = s.slot j) ∧
    (∀ j, (resolveNodePort s p).pwr j = s.pwr j) ∧
    (∀ j, (resolveNodePort s p).pinsOf j = s.pinsOf j) ∧
    (∀ k, (resolveNodePort s p).cell k = s.cell k) :=
  ⟨slot_congr (by simp), pwr_congr (by simp), pinsOf_congr (by simp), cell_congr (by simp)⟩

@[simp] theorem resolveHubPort_reads (p : PortId) :
    (∀ j, (resolveHubPort s p).slot j = s.slot j) ∧ (∀ j, (resolveHubPort s p).pwr j = s.pwr j) ∧
    (∀ j, (resolveHubPort s p).pinsOf j = s.pinsOf j) ∧
    (∀ k, (resolveHubPort s p).cell k = s.cell k) :=
  ⟨slot_congr (by simp), pwr_congr (by simp), pinsOf_congr (by simp), cell_congr (by simp)⟩

@[simp] theorem takeAccept_reads (p : PortId) :
    (∀ j, (takeAccept p s).slot j = s.slot j) ∧ (∀ j, (takeAccept p s).pwr j = s.pwr j) ∧
    (∀ j, (takeAccept p s).pinsOf j = s.pinsOf j) ∧ (∀ k, (takeAccept p s).cell k = s.cell k) :=
  ⟨slot_congr (by simp), pwr_congr (by simp), pinsOf_congr (by simp), cell_congr (by simp)⟩

@[simp] theorem takeRefuse_reads (p : PortId) :
    (∀ j, (takeRefuse p s).slot j = s.slot j) ∧ (∀ j, (takeRefuse p s).pwr j = s.pwr j) ∧
    (∀ j, (takeRefuse p s).pinsOf j = s.pinsOf j) ∧ (∀ k, (takeRefuse p s).cell k = s.cell k) :=
  ⟨slot_congr (by simp), pwr_congr (by simp), pinsOf_congr (by simp), cell_congr (by simp)⟩

@[simp] theorem takeLater_reads (p : PortId) :
    (∀ j, (takeLater p s).slot j = s.slot j) ∧ (∀ j, (takeLater p s).pwr j = s.pwr j) ∧
    (∀ j, (takeLater p s).pinsOf j = s.pinsOf j) ∧ (∀ k, (takeLater p s).cell k = s.cell k) :=
  ⟨slot_congr (by simp), pwr_congr (by simp), pinsOf_congr (by simp), cell_congr (by simp)⟩

@[simp] theorem abortPort_reads (i : SlotId) (l : List SlotId) (p : PortId) :
    (∀ j, (abortPort i l s p).slot j = s.slot j) ∧ (∀ j, (abortPort i l s p).pwr j = s.pwr j) ∧
    (∀ j, (abortPort i l s p).pinsOf j = s.pinsOf j) ∧
    (∀ k, (abortPort i l s p).cell k = s.cell k) :=
  ⟨slot_congr (by simp), pwr_congr (by simp), pinsOf_congr (by simp), cell_congr (by simp)⟩

end Sys2Proof.Machine
end

