-- ==== Sys2Proof/Laws/Moves.lean ====
section
/-! SUPPORT. What a state change makes of its slot and its link engine, and what the fields of a slot
that has moved are. -/

namespace Sys2Proof.Machine

variable (s : State) (i : SlotId) (new : SlotState) (d : StateDetail) (t : Option Word16)

@[simp] theorem moveSlot_slot_self : (moveSlot i new s).slot i = (s.slot i).enter s.time new := by
  simp [moveSlot]

@[simp] theorem moveSlot_slot_ne {j : SlotId} (h : j ≠ i) : (moveSlot i new s).slot j = s.slot j := by
  simp [moveSlot, h]

@[simp] theorem changeState_slot_self :
    (changeState i new d t s).slot i = (s.slot i).enter s.time new := by simp [changeState]

@[simp] theorem changeState_slot_ne {j : SlotId} (h : j ≠ i) :
    (changeState i new d t s).slot j = s.slot j := by simp [changeState, h]

@[simp] theorem changeStateOwn_slot_self :
    (changeStateOwn i new d s).slot i = (s.slot i).enter s.time new := by simp [changeStateOwn]

@[simp] theorem changeStateOwn_slot_ne {j : SlotId} (h : j ≠ i) :
    (changeStateOwn i new d s).slot j = s.slot j := by simp [changeStateOwn, h]

@[simp] theorem moveSlot_engine_self :
    (moveSlot i new s).engine i = { s.engine i with poll := pollDeadline s.time new } := by
  simp [moveSlot]

@[simp] theorem moveSlot_engine_ne {j : SlotId} (h : j ≠ i) :
    (moveSlot i new s).engine j = s.engine j := by simp [moveSlot, h]

@[simp] theorem changeState_engine_self :
    (changeState i new d t s).engine i = { s.engine i with poll := pollDeadline s.time new } := by
  simp [changeState]

@[simp] theorem changeState_engine_ne {j : SlotId} (h : j ≠ i) :
    (changeState i new d t s).engine j = s.engine j := by simp [changeState, h]

@[simp] theorem changeStateOwn_engine_self :
    (changeStateOwn i new d s).engine i = { s.engine i with poll := pollDeadline s.time new } := by
  simp [changeStateOwn]

@[simp] theorem changeStateOwn_engine_ne {j : SlotId} (h : j ≠ i) :
    (changeStateOwn i new d s).engine j = s.engine j := by simp [changeStateOwn, h]

/-- A state change leaves every link state. -/
@[simp] theorem moveSlot_linkUp (j : SlotId) : (moveSlot i new s).linkUp j = s.linkUp j := by
  by_cases h : j = i
  · subst h; simp [State.linkUp]
  · simp [State.linkUp, h]

@[simp] theorem changeState_linkUp (j : SlotId) : (changeState i new d t s).linkUp j = s.linkUp j := by
  by_cases h : j = i
  · subst h; simp [State.linkUp]
  · simp [State.linkUp, h]

@[simp] theorem changeStateOwn_linkUp (j : SlotId) :
    (changeStateOwn i new d s).linkUp j = s.linkUp j := by simp [changeStateOwn]

/-! What a finish does to a slot: its list, its active mark and its page read. -/

/-- A slot after its active order, if any, was taken off its list. -/
def Slot.finished (x : Slot) : Slot :=
  match x.active, x.orders with
  | true, _ :: _ => x.dropHead
  | true, [] => x
  | false, _ => x

theorem finishActive_slot_self (o : OrderOutcome) (x : Option FaultCause) (l : List Byte) :
    (finishActive i o x l s).slot i = (s.slot i).finished := by
  unfold finishActive Slot.finished
  split <;> simp_all

@[simp] theorem finishActive_slot_ne (o : OrderOutcome) (x : Option FaultCause) (l : List Byte)
    {j : SlotId} (h : j ≠ i) : (finishActive i o x l s).slot j = s.slot j := by
  unfold finishActive
  split <;> simp [h]

@[simp] theorem finishActiveIf_slot_ne (k : OrderKind) (o : OrderOutcome) (x : Option FaultCause)
    (l : List Byte) {j : SlotId} (h : j ≠ i) : (finishActiveIf k i o x l s).slot j = s.slot j := by
  unfold finishActiveIf
  split <;> simp [h]

/-- A finish leaves the slot's state. -/
@[simp] theorem finishActive_state (o : OrderOutcome) (x : Option FaultCause) (l : List Byte)
    (j : SlotId) : ((finishActive i o x l s).slot j).state = (s.slot j).state := by
  by_cases h : j = i
  · subst h; rw [finishActive_slot_self]; unfold Slot.finished; split <;> rfl
  · simp [h]

@[simp] theorem finishActiveIf_state (k : OrderKind) (o : OrderOutcome) (x : Option FaultCause)
    (l : List Byte) (j : SlotId) :
    ((finishActiveIf k i o x l s).slot j).state = (s.slot j).state := by
  unfold finishActiveIf
  split <;> simp

@[simp] theorem returnClaim_slot_self :
    (returnClaim i s).slot i = { s.slot i with claim := 0 } := by
  unfold returnClaim
  dsimp only
  split <;> simp

@[simp] theorem returnClaim_slot_ne {j : SlotId} (h : j ≠ i) :
    (returnClaim i s).slot j = s.slot j := by
  unfold returnClaim
  dsimp only
  split <;> simp [h]

/-- Reporting positions leaves a slot's state. -/
@[simp] theorem reportFrom_state (n : Nat) (l : List QueueEntry) (j : SlotId) :
    ((reportFrom n l s).slot j).state = (s.slot j).state := by
  induction l generalizing s n with
  | nil => rfl
  | cons e l ih =>
    rw [reportFrom, ih, modSlot_slot_eq]
    split
    · next h => rw [h]
    · rfl

@[simp] theorem setQueue_state (l : List QueueEntry) (j : SlotId) :
    ((setQueue l s).slot j).state = (s.slot j).state := by simp [setQueue, reportQueue]

@[simp] theorem removeEntry_state (j : SlotId) :
    ((removeEntry i s).slot j).state = (s.slot j).state := by
  unfold removeEntry
  split <;> simp

end Sys2Proof.Machine
end

