-- ==== Sys2Proof/Laws/Event.lean ====
section
/-! SUPPORT. The end of an event: what the record writes change and leave, and events whose act leaves
no follow-up work. -/

namespace Sys2Proof.Machine

variable (old s : State) (act : State → State)

/-! ### Record writes -/

/-- The update count is no field of the record's view. -/
theorem recordView_bump (i j : SlotId) :
    (s.modSlot i fun x => { x with upd := x.upd + 1 }).recordView j = s.recordView j := by
  unfold State.recordView
  by_cases h : j = i
  · subst h
    simp only [modSlot_slot_self, modSlot_pwr, modSlot_engine]
    rfl
  · simp only [modSlot_slot_ne _ _ _ _ h, modSlot_pwr, modSlot_engine]
    rfl

@[simp] theorem closeRecord_view (i j : SlotId) :
    (closeRecord s i).recordView j = s.recordView j := by
  unfold closeRecord
  split
  · exact recordView_bump s i j
  · rfl

/-- A record write leaves everything but an update count. -/
@[simp] theorem closeRecord_frame (i : SlotId) :
    (closeRecord s i).pending = s.pending ∧ (closeRecord s i).time = s.time ∧
    (closeRecord s i).held = s.held ∧ (closeRecord s i).resetLine = s.resetLine ∧
    (closeRecord s i).straps = s.straps ∧
    (closeRecord s i).pins = s.pins ∧ (closeRecord s i).feedALow = s.feedALow ∧
    (closeRecord s i).feedBLow = s.feedBLow ∧ (closeRecord s i).debounceFrom = s.debounceFrom ∧
    (closeRecord s i).port = s.port ∧ (closeRecord s i).cells = s.cells ∧
    (closeRecord s i).mem = s.mem ∧ (closeRecord s i).shelfRevision = s.shelfRevision ∧
    (closeRecord s i).pointer = s.pointer ∧ (closeRecord s i).alloc = s.alloc ∧
    (closeRecord s i).power = s.power ∧ (closeRecord s i).settings = s.settings ∧
    (closeRecord s i).history = s.history ∧ (closeRecord s i).ports = s.ports ∧
    (closeRecord s i).engines = s.engines ∧ (closeRecord s i).journal = s.journal ∧
    (closeRecord s i).work = s.work ∧ (closeRecord s i).late = s.late ∧
    (closeRecord s i).shelfDirty = s.shelfDirty ∧ (closeRecord s i).changed = s.changed ∧
    (closeRecord s i).broughtBy = s.broughtBy := by
  unfold closeRecord
  split <;> simp

/-- The record write of a slot: its update count is one more when its record has changed. -/
def Slot.written (changed : Bool) (x : Slot) : Slot := if changed then { x with upd := x.upd + 1 } else x

theorem closeRecord_slot (i j : SlotId) : (closeRecord s i).slot j =
    if j = i then (s.slot j).written (decide (j ∈ s.changed)) else s.slot j := by
  unfold closeRecord Slot.written
  by_cases h : j = i
  · subst h
    by_cases hv : j ∈ s.changed
    · simp [hv]
    · simp [hv]
  · simp only [h, if_false]
    split <;> simp [h]

theorem closeRecords_slot : ∀ (l : List SlotId) (s : State) (j : SlotId), l.Nodup →
    (l.foldl closeRecord s).slot j =
      if j ∈ l then (s.slot j).written (decide (j ∈ s.changed)) else s.slot j
  | [], _, _, _ => by simp
  | i :: l, s, j, h => by
    rw [List.nodup_cons] at h
    rw [List.foldl_cons, closeRecords_slot l _ j h.2, closeRecord_slot]
    by_cases hj : j = i
    · subst hj; simp [h.1]
    · simp [hj]

@[simp] theorem closeShelf_slot (j : SlotId) : (closeShelf s).slot j = s.slot j := by
  unfold closeShelf; split <;> rfl

/-- A slot after an event: its update count is one more when its record has changed (R2). -/
theorem closeEvent_slot (j : SlotId) : (closeEvent s).slot j =
    (s.slot j).written (decide (j ∈ s.changed)) := by
  have h : j ∈ allSlots := by revert j; decide
  have h1 : ∀ t : State, ({ t with changed := [], broughtBy := none } : State).slot j = t.slot j :=
    fun _ => rfl
  unfold closeEvent
  rw [h1, closeShelf_slot, closeRecords_slot allSlots s j (by decide), if_pos h]

/-- A field that every record write leaves, all of them leave. -/
theorem closeRecords_field {α : Type} (g : State → α) (hg : ∀ s i, g (closeRecord s i) = g s) :
    ∀ (l : List SlotId) (s : State), g (l.foldl closeRecord s) = g s
  | [], _ => rfl
  | i :: l, s => by rw [List.foldl_cons, closeRecords_field g hg l, hg]

theorem closeEvent_field {α : Type} (g : State → α) (hg : ∀ s i, g (closeRecord s i) = g s)
    (hs : ∀ s, g (closeShelf s) = g s)
    (hc : ∀ s : State, g { s with changed := [], broughtBy := none } = g s) :
    g (closeEvent s) = g s := by
  unfold closeEvent
  rw [hc, hs, closeRecords_field g hg]

@[simp] theorem closeEvent_pending : (closeEvent s).pending = s.pending :=
  closeEvent_field s (·.pending) (fun s i => by simp)
    (fun s => by unfold closeShelf; split <;> rfl) (fun _ => rfl)

@[simp] theorem closeEvent_time : (closeEvent s).time = s.time :=
  closeEvent_field s (·.time) (fun s i => by simp)
    (fun s => by unfold closeShelf; split <;> rfl) (fun _ => rfl)

@[simp] theorem closeEvent_held : (closeEvent s).held = s.held :=
  closeEvent_field s (·.held) (fun s i => by simp)
    (fun s => by unfold closeShelf; split <;> rfl) (fun _ => rfl)

@[simp] theorem closeEvent_resetLine : (closeEvent s).resetLine = s.resetLine :=
  closeEvent_field s (·.resetLine) (fun s i => by simp)
    (fun s => by unfold closeShelf; split <;> rfl) (fun _ => rfl)

@[simp] theorem closeEvent_straps : (closeEvent s).straps = s.straps :=
  closeEvent_field s (·.straps) (fun s i => by simp)
    (fun s => by unfold closeShelf; split <;> rfl) (fun _ => rfl)

@[simp] theorem closeEvent_pins : (closeEvent s).pins = s.pins :=
  closeEvent_field s (·.pins) (fun s i => by simp)
    (fun s => by unfold closeShelf; split <;> rfl) (fun _ => rfl)

@[simp] theorem closeEvent_feedALow : (closeEvent s).feedALow = s.feedALow :=
  closeEvent_field s (·.feedALow) (fun s i => by simp)
    (fun s => by unfold closeShelf; split <;> rfl) (fun _ => rfl)

@[simp] theorem closeEvent_feedBLow : (closeEvent s).feedBLow = s.feedBLow :=
  closeEvent_field s (·.feedBLow) (fun s i => by simp)
    (fun s => by unfold closeShelf; split <;> rfl) (fun _ => rfl)

@[simp] theorem closeEvent_debounceFrom : (closeEvent s).debounceFrom = s.debounceFrom :=
  closeEvent_field s (·.debounceFrom) (fun s i => by simp)
    (fun s => by unfold closeShelf; split <;> rfl) (fun _ => rfl)

@[simp] theorem closeEvent_port : (closeEvent s).port = s.port :=
  closeEvent_field s (·.port) (fun s i => by simp)
    (fun s => by unfold closeShelf; split <;> rfl) (fun _ => rfl)

@[simp] theorem closeEvent_cells : (closeEvent s).cells = s.cells :=
  closeEvent_field s (·.cells) (fun s i => by simp)
    (fun s => by unfold closeShelf; split <;> rfl) (fun _ => rfl)

@[simp] theorem closeEvent_mem : (closeEvent s).mem = s.mem :=
  closeEvent_field s (·.mem) (fun s i => by simp)
    (fun s => by unfold closeShelf; split <;> rfl) (fun _ => rfl)

@[simp] theorem closeEvent_pointer : (closeEvent s).pointer = s.pointer :=
  closeEvent_field s (·.pointer) (fun s i => by simp)
    (fun s => by unfold closeShelf; split <;> rfl) (fun _ => rfl)

@[simp] theorem closeEvent_alloc : (closeEvent s).alloc = s.alloc :=
  closeEvent_field s (·.alloc) (fun s i => by simp)
    (fun s => by unfold closeShelf; split <;> rfl) (fun _ => rfl)

@[simp] theorem closeEvent_power : (closeEvent s).power = s.power :=
  closeEvent_field s (·.power) (fun s i => by simp)
    (fun s => by unfold closeShelf; split <;> rfl) (fun _ => rfl)

@[simp] theorem closeEvent_settings : (closeEvent s).settings = s.settings :=
  closeEvent_field s (·.settings) (fun s i => by simp)
    (fun s => by unfold closeShelf; split <;> rfl) (fun _ => rfl)

@[simp] theorem closeEvent_history : (closeEvent s).history = s.history :=
  closeEvent_field s (·.history) (fun s i => by simp)
    (fun s => by unfold closeShelf; split <;> rfl) (fun _ => rfl)

@[simp] theorem closeEvent_ports : (closeEvent s).ports = s.ports :=
  closeEvent_field s (·.ports) (fun s i => by simp)
    (fun s => by unfold closeShelf; split <;> rfl) (fun _ => rfl)

@[simp] theorem closeEvent_engines : (closeEvent s).engines = s.engines :=
  closeEvent_field s (·.engines) (fun s i => by simp)
    (fun s => by unfold closeShelf; split <;> rfl) (fun _ => rfl)

@[simp] theorem closeEvent_journal : (closeEvent s).journal = s.journal :=
  closeEvent_field s (·.journal) (fun s i => by simp)
    (fun s => by unfold closeShelf; split <;> rfl) (fun _ => rfl)

@[simp] theorem closeEvent_work : (closeEvent s).work = s.work :=
  closeEvent_field s (·.work) (fun s i => by simp)
    (fun s => by unfold closeShelf; split <;> rfl) (fun _ => rfl)

@[simp] theorem closeEvent_late : (closeEvent s).late = s.late :=
  closeEvent_field s (·.late) (fun s i => by simp)
    (fun s => by unfold closeShelf; split <;> rfl) (fun _ => rfl)

@[simp] theorem closeEvent_pwr (j : SlotId) : (closeEvent s).pwr j = s.pwr j :=
  pwr_congr (by simp) j

@[simp] theorem closeEvent_engine (j : SlotId) : (closeEvent s).engine j = s.engine j :=
  engine_congr (by simp) j

@[simp] theorem closeEvent_linkUp (j : SlotId) : (closeEvent s).linkUp j = s.linkUp j :=
  linkUp_congr (by simp) j

@[simp] theorem closeEvent_portOf (q : PortId) : (closeEvent s).portOf q = s.portOf q :=
  portOf_congr (by simp) q

@[simp] theorem closeEvent_pinsOf (j : SlotId) : (closeEvent s).pinsOf j = s.pinsOf j :=
  pinsOf_congr (by simp) j

@[simp] theorem closeEvent_cell (k : CellId) : (closeEvent s).cell k = s.cell k :=
  cell_congr (by simp) k

@[simp] theorem closeEvent_rd8 (c : CellId) (k : Nat) : (closeEvent s).rd8 c k = s.rd8 c k := by
  simp [State.rd8]

/-- After an event the shelf record is written, once if the event wrote it (R183). -/
@[simp] theorem closeEvent_shelfDirty : (closeEvent s).shelfDirty = false := by
  unfold closeEvent closeShelf
  split
  · rfl
  · next h => simpa using h

@[simp] theorem closeEvent_changed : (closeEvent s).changed = [] := rfl

@[simp] theorem closeEvent_broughtBy : (closeEvent s).broughtBy = none := rfl

theorem closeEvent_shelfRevision : (closeEvent s).shelfRevision =
    if s.shelfDirty then s.shelfRevision + 1 else s.shelfRevision := by
  have h1 : (allSlots.foldl closeRecord s).shelfDirty = s.shelfDirty :=
    closeRecords_field (·.shelfDirty) (fun s i => by simp) _ s
  have h2 : (allSlots.foldl closeRecord s).shelfRevision = s.shelfRevision :=
    closeRecords_field (·.shelfRevision) (fun s i => by simp) _ s
  unfold closeEvent closeShelf
  rw [h1]
  split <;> simp [h2]

/-! A slot keeps every field but its update count. -/

@[simp] theorem closeEvent_recordView (i : SlotId) :
    (closeEvent s).recordView i = s.recordView i :=
  closeEvent_field s (·.recordView i) (fun s j => closeRecord_view s j i)
    (fun s => by unfold closeShelf; split <;> rfl) (fun _ => rfl)

@[simp] theorem Slot.written_upd (b : Bool) (x : Slot) :
    (x.written b).upd = if b then x.upd + 1 else x.upd := by
  unfold Slot.written; split <;> rfl

@[simp] theorem Slot.written_state (b : Bool) (x : Slot) : (x.written b).state = x.state := by
  unfold Slot.written; split <;> rfl

@[simp] theorem Slot.written_prev (b : Bool) (x : Slot) : (x.written b).prev = x.prev := by
  unfold Slot.written; split <;> rfl

@[simp] theorem Slot.written_entry (b : Bool) (x : Slot) : (x.written b).entry = x.entry := by
  unfold Slot.written; split <;> rfl

@[simp] theorem Slot.written_gen (b : Bool) (x : Slot) : (x.written b).gen = x.gen := by
  unfold Slot.written; split <;> rfl

@[simp] theorem Slot.written_long (b : Bool) (x : Slot) : (x.written b).long = x.long := by
  unfold Slot.written; split <;> rfl

@[simp] theorem Slot.written_short (b : Bool) (x : Slot) : (x.written b).short = x.short := by
  unfold Slot.written; split <;> rfl

@[simp] theorem Slot.written_handleOpen (b : Bool) (x : Slot) : (x.written b).handleOpen = x.handleOpen := by
  unfold Slot.written; split <;> rfl

@[simp] theorem Slot.written_latch (b : Bool) (x : Slot) : (x.written b).latch = x.latch := by
  unfold Slot.written; split <;> rfl

@[simp] theorem Slot.written_hold (b : Bool) (x : Slot) : (x.written b).hold = x.hold := by
  unfold Slot.written; split <;> rfl

@[simp] theorem Slot.written_policy (b : Bool) (x : Slot) : (x.written b).policy = x.policy := by
  unfold Slot.written; split <;> rfl

@[simp] theorem Slot.written_idStatus (b : Bool) (x : Slot) : (x.written b).idStatus = x.idStatus := by
  unfold Slot.written; split <;> rfl

@[simp] theorem Slot.written_idReason (b : Bool) (x : Slot) : (x.written b).idReason = x.idReason := by
  unfold Slot.written; split <;> rfl

@[simp] theorem Slot.written_ident (b : Bool) (x : Slot) : (x.written b).ident = x.ident := by
  unfold Slot.written; split <;> rfl

@[simp] theorem Slot.written_claim (b : Bool) (x : Slot) : (x.written b).claim = x.claim := by
  unfold Slot.written; split <;> rfl

@[simp] theorem Slot.written_waitReason (b : Bool) (x : Slot) : (x.written b).waitReason = x.waitReason := by
  unfold Slot.written; split <;> rfl

@[simp] theorem Slot.written_queuePos (b : Bool) (x : Slot) : (x.written b).queuePos = x.queuePos := by
  unfold Slot.written; split <;> rfl

@[simp] theorem Slot.written_fault (b : Bool) (x : Slot) : (x.written b).fault = x.fault := by
  unfold Slot.written; split <;> rfl

@[simp] theorem Slot.written_faultTime (b : Bool) (x : Slot) : (x.written b).faultTime = x.faultTime := by
  unfold Slot.written; split <;> rfl

@[simp] theorem Slot.written_lastAgent (b : Bool) (x : Slot) : (x.written b).lastAgent = x.lastAgent := by
  unfold Slot.written; split <;> rfl

@[simp] theorem Slot.written_lastCause (b : Bool) (x : Slot) : (x.written b).lastCause = x.lastCause := by
  unfold Slot.written; split <;> rfl

@[simp] theorem Slot.written_agentFault (b : Bool) (x : Slot) : (x.written b).agentFault = x.agentFault := by
  unfold Slot.written; split <;> rfl

@[simp] theorem Slot.written_nextRow (b : Bool) (x : Slot) : (x.written b).nextRow = x.nextRow := by
  unfold Slot.written; split <;> rfl

@[simp] theorem Slot.written_nextSeq (b : Bool) (x : Slot) : (x.written b).nextSeq = x.nextSeq := by
  unfold Slot.written; split <;> rfl

@[simp] theorem Slot.written_lastStamp (b : Bool) (x : Slot) : (x.written b).lastStamp = x.lastStamp := by
  unfold Slot.written; split <;> rfl

@[simp] theorem Slot.written_admissions (b : Bool) (x : Slot) : (x.written b).admissions = x.admissions := by
  unfold Slot.written; split <;> rfl

@[simp] theorem Slot.written_minutes (b : Bool) (x : Slot) : (x.written b).minutes = x.minutes := by
  unfold Slot.written; split <;> rfl

@[simp] theorem Slot.written_orders (b : Bool) (x : Slot) : (x.written b).orders = x.orders := by
  unfold Slot.written; split <;> rfl

@[simp] theorem Slot.written_active (b : Bool) (x : Slot) : (x.written b).active = x.active := by
  unfold Slot.written; split <;> rfl

@[simp] theorem Slot.written_retire (b : Bool) (x : Slot) : (x.written b).retire = x.retire := by
  unfold Slot.written; split <;> rfl

@[simp] theorem Slot.written_survey (b : Bool) (x : Slot) : (x.written b).survey = x.survey := by
  unfold Slot.written; split <;> rfl

@[simp] theorem Slot.written_read (b : Bool) (x : Slot) : (x.written b).read = x.read := by
  unfold Slot.written; split <;> rfl

@[simp] theorem Slot.written_stamp (b : Bool) (x : Slot) : (x.written b).stamp = x.stamp := by
  unfold Slot.written; split <;> rfl

@[simp] theorem Slot.written_settle (b : Bool) (x : Slot) : (x.written b).settle = x.settle := by
  unfold Slot.written; split <;> rfl

@[simp] theorem Slot.written_boot (b : Bool) (x : Slot) : (x.written b).boot = x.boot := by
  unfold Slot.written; split <;> rfl

@[simp] theorem Slot.written_quiesce (b : Bool) (x : Slot) : (x.written b).quiesce = x.quiesce := by
  unfold Slot.written; split <;> rfl

@[simp] theorem Slot.written_blink (b : Bool) (x : Slot) : (x.written b).blink = x.blink := by
  unfold Slot.written; split <;> rfl

/-- A slot whose record has not changed stands. -/
theorem closeEvent_slot_same {i : SlotId} (h : i ∉ s.changed) : (closeEvent s).slot i = s.slot i := by
  rw [closeEvent_slot]; simp [Slot.written, h]

/-- An event in which no record changes and the shelf record is not written changes nothing at its
end. -/
theorem closeEvent_same (h : s.changed = []) (hd : s.shelfDirty = false) (hb : s.broughtBy = none) :
    closeEvent s = s := by
  have h1 : ∀ (l : List SlotId), l.foldl closeRecord s = s := by
    intro l
    induction l with
    | nil => rfl
    | cons i l ih => rw [List.foldl_cons, closeRecord, if_neg (by simp [h]), ih]
  unfold closeEvent
  rw [h1, closeShelf, hd]
  cases s
  simp_all

/-! ### What a step of an event notes -/

/-- Noting the records that changed leaves every other part of the state. -/
@[simp] theorem noteRecords_frame :
    (noteRecords old s).pending = s.pending ∧ (noteRecords old s).time = s.time ∧
    (noteRecords old s).held = s.held ∧ (noteRecords old s).resetLine = s.resetLine ∧
    (noteRecords old s).straps = s.straps ∧
    (noteRecords old s).pins = s.pins ∧ (noteRecords old s).feedALow = s.feedALow ∧
    (noteRecords old s).feedBLow = s.feedBLow ∧
    (noteRecords old s).debounceFrom = s.debounceFrom ∧ (noteRecords old s).port = s.port ∧
    (noteRecords old s).cells = s.cells ∧ (noteRecords old s).mem = s.mem ∧
    (noteRecords old s).shelfRevision = s.shelfRevision ∧
    (noteRecords old s).pointer = s.pointer ∧ (noteRecords old s).slots = s.slots ∧
    (noteRecords old s).alloc = s.alloc ∧ (noteRecords old s).power = s.power ∧
    (noteRecords old s).settings = s.settings ∧ (noteRecords old s).history = s.history ∧
    (noteRecords old s).ports = s.ports ∧ (noteRecords old s).engines = s.engines ∧
    (noteRecords old s).journal = s.journal ∧ (noteRecords old s).work = s.work ∧
    (noteRecords old s).late = s.late ∧ (noteRecords old s).shelfDirty = s.shelfDirty ∧
    (noteRecords old s).broughtBy = s.broughtBy := by simp [noteRecords]

@[simp] theorem noteRecords_reads :
    (∀ j, (noteRecords old s).slot j = s.slot j) ∧ (∀ j, (noteRecords old s).pwr j = s.pwr j) ∧
    (∀ j, (noteRecords old s).engine j = s.engine j) ∧
    (∀ q, (noteRecords old s).portOf q = s.portOf q) ∧
    (∀ k, (noteRecords old s).cell k = s.cell k) ∧
    (∀ i, (noteRecords old s).recordView i = s.recordView i) :=
  ⟨fun _ => rfl, fun _ => rfl, fun _ => rfl, fun _ => rfl, fun _ => rfl, fun _ => rfl⟩

/-- A record has changed in an event when it had changed before the step or the step changes it. -/
@[simp] theorem mem_changed_noteRecords (i : SlotId) : i ∈ (noteRecords old s).changed ↔
    i ∈ old.changed ∨ s.recordView i ≠ old.recordView i := by
  have h : i ∈ allSlots := by revert i; decide
  simp [noteRecords, h]

/-- A step that changes no record notes nothing. -/
theorem noteRecords_same (hc : s.changed = old.changed) (h0 : old.changed = [])
    (h : ∀ i, s.recordView i = old.recordView i) : noteRecords old s = s := by
  unfold noteRecords
  simp [h, h0]
  cases s
  simp_all

/-- Records that the event has not changed are as they were, however much work it does. -/
theorem drain_unchanged (i : SlotId) : ∀ (n : Nat) (s : State), i ∉ (drain n s).changed →
    i ∉ s.changed ∧ (drain n s).recordView i = s.recordView i
  | 0, _, h => ⟨h, rfl⟩
  | n + 1, s, h => by
    have pass : ∀ t : State, (i ∉ t.changed → i ∉ s.changed ∧ t.recordView i = s.recordView i) →
        i ∉ (drain n t).changed → i ∉ s.changed ∧ (drain n t).recordView i = s.recordView i := by
      intro t ht hd
      have ih := drain_unchanged i n t hd
      exact ⟨(ht ih.1).1, ih.2.trans (ht ih.1).2⟩
    unfold drain at h ⊢
    split at h
    · next w ws _ =>
      refine pass _ (fun ht => ?_) h
      have ht' := mt (mem_changed_noteRecords s _ i).2 ht
      push Not at ht'
      exact ⟨ht'.1, ht'.2⟩
    · split at h
      · next l ls _ =>
        refine pass _ (fun ht => ?_) h
        have ht' := mt (mem_changed_noteRecords s _ i).2 ht
        push Not at ht'
        exact ⟨ht'.1, ht'.2⟩
      · exact ⟨h, rfl⟩

/-! ### Events without follow-up work -/

/-- With no work left the loop of an event does nothing. -/
theorem drain_idle (n : Nat) (hw : s.work = []) (hl : s.late = []) : drain n s = s := by
  cases n with
  | zero => rfl
  | succ n => simp [drain, hw, hl]

/-- An act that leaves no follow-up work is the whole event but for the record writes. -/
theorem event_idle (hw : (act s).work = []) (hl : (act s).late = []) :
    event act s = closeEvent (noteRecords s (act s)) := by
  unfold event
  rw [drain_idle _ _ (by simpa using hw) (by simpa using hl)]

/-- One job and then no work: the job is the rest of the event. -/
theorem drain_job (n : Nat) (w : Work) (hw : s.work = [w]) (h1 : (doWork w [] s).work = [])
    (h2 : (doWork w [] s).late = []) : drain (n + 1) s = doWork w [] s := by
  rw [drain, hw]
  exact drain_idle _ n h1 h2

/-- A job at the front of the work is done first. -/
theorem drain_step (n : Nat) (w : Work) (ws : List Work) (hw : s.work = w :: ws) :
    drain (n + 1) s = drain n (doWork w ws s) := by
  rw [drain, hw]

/-- With no work left the next late test is made. -/
theorem drain_late (n : Nat) (t : LateTest) (ts : List LateTest) (hw : s.work = [])
    (hl : s.late = t :: ts) : drain (n + 1) s = drain n (doLate t ts s) := by
  rw [drain, hw, hl]

@[simp] theorem unlessHeld_live (h : s.held = false) : unlessHeld act s = act s := by
  simp [unlessHeld, h]

@[simp] theorem unlessHeld_held (h : s.held = true) : unlessHeld act s = s := by
  simp [unlessHeld, h]

/-- A record shows the slot, its payload power, its link state and its ports alone (R32). -/
theorem recordView_congr {s t : State} (h1 : t.slots = s.slots) (h2 : t.power = s.power)
    (h3 : t.engines = s.engines) (h4 : t.ports = s.ports) (i : SlotId) :
    t.recordView i = s.recordView i := by
  unfold State.recordView State.mirrorPort
  simp only [slot_congr h1, pwr_congr h2, engine_congr h3, portOf_congr h4]

/-- A slot whose record shows otherwise after an event than before is one whose record the event
changed. -/
theorem event_changed (j : SlotId) (hv : (event act s).recordView j ≠ s.recordView j) :
    j ∈ (drain Config.workBound (noteRecords s (act s))).changed := by
  by_contra hn
  have h := drain_unchanged j _ _ hn
  have h1 := mt (mem_changed_noteRecords s (act s) j).2 h.1
  push Not at h1
  have e : (event act s).recordView j
      = (drain Config.workBound (noteRecords s (act s))).recordView j := by
    unfold event; simp
  exact hv (by rw [e, h.2]; exact h1.2)

/-- An event between two events that brings no follow-up work and changes no record is its act. -/
theorem event_act {t : State} (hr : s.Ready) (h : act s = t) (hw : t.work = s.work)
    (hl : t.late = s.late) (hd : t.shelfDirty = s.shelfDirty) (hc : t.changed = s.changed)
    (hb : t.broughtBy = s.broughtBy) (hv : ∀ i, t.recordView i = s.recordView i) :
    event act s = t := by
  rw [event_idle s act (by rw [h, hw, hr.work]) (by rw [h, hl, hr.late]), h,
    noteRecords_same s t hc hr.changed hv]
  exact closeEvent_same t (by rw [hc, hr.changed]) (by rw [hd, hr.shelf]) (by rw [hb, hr.broughtBy])

/-- An event whose act does nothing in a state between two events changes nothing. -/
theorem event_nothing (h : act s = s) (hr : s.Ready) : event act s = s :=
  event_act s act hr h rfl rfl rfl rfl rfl (fun _ => rfl)

end Sys2Proof.Machine
end

