-- ==== Sys2Proof/Laws/Memory.lean ====
section
/-! SUPPORT. The bytes of the order cells: every store keeps the canonical form, and what a byte reads
as after a store. -/

namespace Sys2Proof.Machine.Memory

/-- Below the first listed offset of a canonical memory every byte reads 0. -/
theorem read_below : ∀ (m : List Host.Cell) (x : Nat) (y : Byte) (a : Nat),
    wf ((x, y) :: m) = true → a < x → read ((x, y) :: m) a = 0
  | [], x, y, a, _, h => by simp [read, Nat.ne_of_gt h]
  | (x', y') :: m, x, y, a, hw, h => by
    simp only [wf, Bool.and_eq_true, decide_eq_true_eq] at hw
    have := read_below m x' y' a hw.2 (by omega)
    simp only [read, Nat.ne_of_gt h, if_false]
    simpa [read] using this

theorem wf_tail {x : Nat} {y : Byte} {m : List Host.Cell} (h : wf ((x, y) :: m) = true) :
    wf m = true := by
  cases m with
  | nil => rfl
  | cons p m => simp only [wf, Bool.and_eq_true] at h; exact h.2

/-- A nonzero byte in front of a canonical memory that starts above it is canonical. -/
theorem wf_cons {a : Nat} {b : Byte} {m : List Host.Cell} (hm : wf m = true) (hb : b ≠ 0)
    (h : ∀ x y r, m = (x, y) :: r → a < x) : wf ((a, b) :: m) = true := by
  cases m with
  | nil => simpa [wf] using hb
  | cons p r =>
    obtain ⟨x, y⟩ := p
    have hx : a < x := h x y r rfl
    show (decide (b ≠ 0) && decide (a < x) && wf ((x, y) :: r)) = true
    rw [hm, decide_eq_true hb, decide_eq_true hx]; rfl

/-- The first offset of a canonical tail lies above the head. -/
theorem wf_lt {x : Nat} {y : Byte} {m : List Host.Cell} (h : wf ((x, y) :: m) = true)
    (x' : Nat) (y' : Byte) (r : List Host.Cell) (hm : m = (x', y') :: r) : x < x' := by
  subst hm; simp only [wf, Bool.and_eq_true, decide_eq_true_eq] at h; exact h.1.2

theorem wf_head {x : Nat} {y : Byte} {m : List Host.Cell} (h : wf ((x, y) :: m) = true) : y ≠ 0 := by
  cases m with
  | nil => simpa [wf] using h
  | cons p m => simp only [wf, Bool.and_eq_true, decide_eq_true_eq] at h; exact h.1.1

/-- The first offset after a store is the stored one or the old first one. -/
theorem write_first : ∀ (m : List Host.Cell) (a : Nat) (b : Byte) (x : Nat) (y : Byte)
    (r : List Host.Cell), write m a b = (x, y) :: r → ∀ k, k < a →
    (∀ x' y' r', m = (x', y') :: r' → k < x') → wf m = true → k < x
  | [], a, b, x, y, r, h, k, hk, _, _ => by
    simp only [write, cons] at h
    split at h
    · cases h
    · cases h; exact hk
  | (x0, y0) :: m, a, b, x, y, r, h, k, hk, hm, hw => by
    have h0 := hm x0 y0 m rfl
    simp only [write, cons] at h
    split at h
    · split at h
      · cases h; exact h0
      · cases h; exact hk
    · split at h
      · split at h
        · exact lt_trans h0 (wf_lt hw x y r h)
        · cases h; exact hk
      · cases h; exact h0

/-- A store keeps the canonical form. -/
theorem wf_write : ∀ (m : List Host.Cell) (a : Nat) (b : Byte), wf m = true →
    wf (write m a b) = true
  | [], a, b, _ => by
    simp only [write, cons]
    split
    · rfl
    · next h => simpa [wf] using h
  | (x, y) :: m, a, b, hw => by
    simp only [write, cons]
    split
    · split
      · exact hw
      · next h hb => exact wf_cons hw hb (by intro x' y' r e; cases e; exact h)
    · split
      · split
        · exact wf_tail hw
        · next e hb => exact wf_cons (wf_tail hw) hb (by
            intro x' y' r hr; rw [e]; exact wf_lt hw x' y' r hr)
      · next h1 h2 =>
        exact wf_cons (wf_write m a b (wf_tail hw)) (wf_head hw) (by
          intro x' y' r hr
          exact write_first m a b x' y' r hr x (by omega) (wf_lt hw) (wf_tail hw))

/-- Past the head, a canonical memory reads 0 at and below it. -/
theorem read_tail {x : Nat} {y : Byte} {m : List Host.Cell} (h : wf ((x, y) :: m) = true) (a : Nat)
    (ha : a ≤ x) : read m a = 0 := by
  cases m with
  | nil => rfl
  | cons p r => exact read_below r p.1 p.2 a (wf_tail h) (lt_of_le_of_lt ha (wf_lt h p.1 p.2 r rfl))

/-- The stored byte reads back, and every other byte reads as before. -/
theorem read_write : ∀ (m : List Host.Cell) (a : Nat) (b : Byte) (k : Nat), wf m = true →
    read (write m a b) k = if k = a then b else read m k
  | [], a, b, k, _ => by
    simp only [write, cons]
    split
    · next h => simp [read, h]
    · simp [read, eq_comm]
  | (x, y) :: m, a, b, k, hw => by
    simp only [write, cons]
    by_cases h1 : a < x
    · rw [if_pos h1]
      by_cases hb : b = 0
      · rw [if_pos hb]
        split
        · next e => rw [e, hb, read_below m x y a hw h1]
        · rfl
      · rw [if_neg hb]; simp [read, eq_comm]
    · rw [if_neg h1]
      by_cases h2 : a = x
      · rw [if_pos h2]
        by_cases hb : b = 0
        · rw [if_pos hb]
          by_cases e : k = a
          · rw [if_pos e, hb, read_tail hw k (by omega)]
          · rw [if_neg e]; simp [read, show ¬x = k by omega]
        · rw [if_neg hb]
          by_cases e : k = a
          · simp [read, e]
          · simp [read, e, show ¬x = k by omega, show ¬a = k by omega]
      · rw [if_neg h2]
        by_cases e : x = k
        · subst e; simp [read, Ne.symm h2]
        · simp only [read, e, if_false]
          exact read_write m a b k (wf_tail hw)

/-- A run of stores keeps the canonical form. -/
theorem wf_writeList : ∀ (bs : List Byte) (m : List Host.Cell) (a : Nat), wf m = true →
    wf (writeList m a bs) = true
  | [], _, _, h => h
  | b :: bs, m, a, h => wf_writeList bs (write m a b) (a + 1) (wf_write m a b h)

/-- A run of stores from `a` puts byte k of the run at `a + k` and leaves every other byte. -/
theorem read_writeList : ∀ (bs : List Byte) (m : List Host.Cell) (a : Nat) (k : Nat), wf m = true →
    read (writeList m a bs) k = if a ≤ k ∧ k < a + bs.length then bs.getD (k - a) 0 else read m k
  | [], m, a, k, _ => by
    have : ¬(a ≤ k ∧ k < a + ([] : List Byte).length) := by simp
    rw [if_neg this]; rfl
  | b :: bs, m, a, k, h => by
    rw [writeList, read_writeList bs _ _ _ (wf_write m a b h), read_write m a b k h]
    by_cases e : k = a
    · subst e
      have h1 : ¬(k + 1 ≤ k ∧ k < k + 1 + bs.length) := by omega
      have h2 : k ≤ k ∧ k < k + (b :: bs).length := by simp
      rw [if_neg h1, if_pos rfl, if_pos h2]; simp
    · by_cases h1 : a + 1 ≤ k ∧ k < a + 1 + bs.length
      · have h2 : a ≤ k ∧ k < a + (b :: bs).length := by simp; omega
        rw [if_pos h1, if_pos h2, show k - a = (k - (a + 1)) + 1 by omega]
        simp
      · have h2 : ¬(a ≤ k ∧ k < a + (b :: bs).length) := by simp; omega
        rw [if_neg h1, if_neg h2, if_neg e]

end Sys2Proof.Machine.Memory
end

