-- ==== Sys2Proof/Laws/Kept.lean ====
section
/-! SUPPORT. What follow-up work keeps: the invariant, and the parts of the state that belong to the
outside, to the host or to the end of an event. `Kept f s` says that `s` has the invariant and shows
`f` for those parts; the lemmas say that the updates of the state keep it. -/

namespace Sys2Proof.Machine

/-- The parts no block changes by follow-up work: the queue of commands, shelf time, the RESET line,
the straps and inputs, the host's registers, the intake's pointer and the update counts. -/
structure Fixed where
  pending : List Instr
  time : Time
  held : Bool
  resetLine : Option Time
  straps : Straps
  pins : Vector SlotPins 16
  feedALow : Bool
  feedBLow : Bool
  debounceFrom : DebounceTimes
  run : Bool
  noticeEnable : Bool
  enable : BitVec 6
  cause : ResetCause
  messageEnable : Bool
  pointer : CellId
  upd : SlotId → Word16

/-- Those parts of a state. -/
def State.fixed (s : State) : Fixed where
  pending := s.pending
  time := s.time
  held := s.held
  resetLine := s.resetLine
  straps := s.straps
  pins := s.pins
  feedALow := s.feedALow
  feedBLow := s.feedBLow
  debounceFrom := s.debounceFrom
  run := s.port.run
  noticeEnable := s.port.noticeEnable
  enable := s.port.enable
  cause := s.port.cause
  messageEnable := s.port.messageEnable
  pointer := s.pointer
  upd := fun i => (s.slot i).upd

/-- A state with the invariant that shows `f`. -/
structure Kept (f : Fixed) (s : State) : Prop where
  inv : Inv s
  fixed : s.fixed = f

variable {f : Fixed} {s : State}

theorem Kept.refl (h : Inv s) : Kept s.fixed s := ⟨h, rfl⟩

/-- What a slot's law and update count read of it. -/
def Slot.core (x : Slot) :=
  (x.gen, x.orders, x.active, x.admissions, x.minutes, x.state, x.upd, x.settle, x.boot, x.quiesce,
    x.survey, x.stamp, x.blink)

theorem Slot.Lawful.of_core {x y : Slot} (h : x.Lawful) (e : y.core = x.core) : y.Lawful := by
  simp only [Slot.core, Prod.mk.injEq] at e
  obtain ⟨e1, e2, e3, e4, e5, e6, _, e8, e9, e10, e11, e12, e13⟩ := e
  constructor
  · rw [e1]; exact h.gen
  · rw [e2]; exact h.orders
  · rw [e3, e2]; exact h.active
  · rw [e4]; exact h.admissions
  · rw [e5]; exact h.minutes
  · rw [e8, e6]; exact h.settle
  · rw [e9, e6]; exact h.boot
  · rw [e10, e6]; exact h.quiesce
  · rw [e11, e6]; exact h.survey
  · rw [e12, e6]; exact h.stamp
  · rw [e13, e6]; exact h.blink

/-! ### Updates of one part -/

theorem Kept.modSlot {i : SlotId} {g : Slot → Slot} (h : Kept f s)
    (hg : (s.slot i).Lawful → (g (s.slot i)).Lawful) (hu : (g (s.slot i)).upd = (s.slot i).upd) :
    Kept f (s.modSlot i g) := by
  obtain ⟨⟨h1, h2, h3, h4, h5, h6, h7, h8⟩, e⟩ := h
  refine ⟨⟨h1, h2, h3, h4, ?_, h6, h7, h8⟩, ?_⟩
  · intro j
    rw [modSlot_slot_eq]
    split
    · exact hg (h5 i)
    · exact h5 j
  · rw [← e]
    simp only [State.fixed, Fixed.mk.injEq]
    repeat refine ⟨rfl, ?_⟩
    funext j
    rw [modSlot_slot_eq]
    split
    · next hj => rw [hu, hj]
    · rfl

@[simp] theorem Kept.modSlot_core {i : SlotId} {g : Slot → Slot} (h : Kept f s)
    (e : (g (s.slot i)).core = (s.slot i).core) : Kept f (s.modSlot i g) := by
  refine h.modSlot (fun hl => hl.of_core e) ?_
  simp only [Slot.core, Prod.mk.injEq] at e
  exact e.2.2.2.2.2.2.1

theorem Kept.modPower {i : SlotId} {g : Power → Power} (h : Kept f s)
    (hg : (s.pwr i).Lawful s.held → (g (s.pwr i)).Lawful s.held) : Kept f (s.modPower i g) := by
  obtain ⟨⟨h1, h2, h3, h4, h5, h6, h7, h8⟩, e⟩ := h
  refine ⟨⟨h1, h2, h3, h4, h5, h6, ?_, h8⟩, e⟩
  intro j
  rw [modPower_pwr_eq]
  split
  · exact hg (h7 i)
  · exact h7 j

theorem Kept.modEngine {i : SlotId} {g : Engine → Engine} (h : Kept f s)
    (hg : (s.engine i).Lawful → (g (s.engine i)).Lawful) : Kept f (s.modEngine i g) := by
  obtain ⟨⟨h1, h2, h3, h4, h5, h6, h7, h8⟩, e⟩ := h
  refine ⟨⟨h1, h2, h3, h4, h5, h6, h7, ?_⟩, e⟩
  intro j
  rw [modEngine_engine_eq]
  split
  · exact hg (h8 i)
  · exact h8 j

theorem Kept.modPort {p : PortId} {g : Port → Port} (h : Kept f s)
    (hg : (s.portOf p).Lawful → (g (s.portOf p)).Lawful) : Kept f (s.modPort p g) := by
  obtain ⟨⟨h1, h2, h3, h4, h5, h6, h7, h8⟩, e⟩ := h
  refine ⟨⟨h1, h2, h3, h4, h5, ?_, h7, h8⟩, e⟩
  intro q
  rw [modPort_portOf_eq]
  split
  · exact hg (h6 p)
  · exact h6 q

theorem Kept.modAlloc {g : Allocator → Allocator} (h : Kept f s)
    (hg : s.alloc.Lawful → (g s.alloc).Lawful) : Kept f (s.modAlloc g) := by
  obtain ⟨⟨h1, h2, h3, h4, h5, h6, h7, h8⟩, e⟩ := h
  exact ⟨⟨h1, h2, hg h3, h4, h5, h6, h7, h8⟩, e⟩

@[simp] theorem Kept.setCell {c : CellId} {x : CellState} (h : Kept f s) : Kept f (s.setCell c x) := by
  obtain ⟨⟨h1, h2, h3, h4, h5, h6, h7, h8⟩, e⟩ := h
  exact ⟨⟨h1, h2, h3, h4, h5, h6, h7, h8⟩, e⟩

@[simp] theorem Kept.touchShelf (h : Kept f s) : Kept f s.touchShelf := by
  obtain ⟨⟨h1, h2, h3, h4, h5, h6, h7, h8⟩, e⟩ := h
  exact ⟨⟨h1, h2, h3, h4, h5, h6, h7, h8⟩, e⟩

@[simp] theorem Kept.raise {js : List Job} (h : Kept f s) : Kept f (s.raise js) := by
  obtain ⟨⟨h1, h2, h3, h4, h5, h6, h7, h8⟩, e⟩ := h
  exact ⟨⟨h1, h2, h3, h4, h5, h6, h7, h8⟩, e⟩

@[simp] theorem Kept.testLate {i : SlotId} (h : Kept f s) : Kept f (s.testLate i) := by
  obtain ⟨⟨h1, h2, h3, h4, h5, h6, h7, h8⟩, e⟩ := h
  exact ⟨⟨h1, h2, h3, h4, h5, h6, h7, h8⟩, e⟩

/-- What an event holds for itself set directly (the loop of an event). -/
theorem Kept.setWork {ws : List Work} {ts : List LateTest} {l : List SlotId} {b : Option Word16}
    (h : Kept f s) : Kept f { s with work := ws, late := ts, changed := l, broughtBy := b } := by
  obtain ⟨⟨h1, h2, h3, h4, h5, h6, h7, h8⟩, e⟩ := h
  exact ⟨⟨h1, h2, h3, h4, h5, h6, h7, h8⟩, e⟩

@[simp] theorem Kept.noteRecords {old : State} (h : Kept f s) : Kept f (noteRecords old s) := h.setWork

@[simp] theorem Kept.onBehalf {c : CellId} (h : Kept f s) : Kept f (s.onBehalf c) := h.setWork

theorem Kept.setMem {m : List Host.Cell} (h : Kept f s) (hm : Memory.wf m = true) :
    Kept f { s with mem := m } := by
  obtain ⟨⟨_, h2, h3, h4, h5, h6, h7, h8⟩, e⟩ := h
  exact ⟨⟨hm, h2, h3, h4, h5, h6, h7, h8⟩, e⟩

theorem Kept.setHistory {l : List Time} (h : Kept f s) (hl : l.length ≤ 4) :
    Kept f { s with history := l } := by
  obtain ⟨⟨h1, h2, h3, _, h5, h6, h7, h8⟩, e⟩ := h
  exact ⟨⟨h1, h2, h3, hl, h5, h6, h7, h8⟩, e⟩

theorem Kept.setSettings {t : Settings} (h : Kept f s) : Kept f { s with settings := t } := by
  obtain ⟨⟨h1, h2, h3, h4, h5, h6, h7, h8⟩, e⟩ := h
  exact ⟨⟨h1, h2, h3, h4, h5, h6, h7, h8⟩, e⟩

theorem Kept.setJournal {j : Journal} {r : Word16} (h : Kept f s) (hj : j.Lawful) :
    Kept f { s with journal := j, shelfRevision := r } := by
  obtain ⟨⟨h1, _, h3, h4, h5, h6, h7, h8⟩, e⟩ := h
  exact ⟨⟨h1, hj, h3, h4, h5, h6, h7, h8⟩, e⟩

@[simp] theorem Kept.latch {b : Attention} (h : Kept f s) : Kept f (s.latch b) := by
  obtain ⟨⟨h1, h2, h3, h4, h5, h6, h7, h8⟩, e⟩ := h
  refine ⟨⟨h1, h2, h3, h4, h5, h6, h7, h8⟩, ?_⟩
  rw [← e]
  simp only [State.fixed, State.latch, State.updatePort]
  split <;> rfl

/-- A choice keeps what both its sides keep. -/
theorem Kept.ite {c : Prop} [Decidable c] {a b : State} (ha : Kept f a) (hb : Kept f b) :
    Kept f (if c then a else b) := by
  split
  · exact ha
  · exact hb

/-- A fold keeps what each of its steps keeps. -/
theorem Kept.foldl {α : Type} {g : State → α → State} (hg : ∀ s a, Kept f s → Kept f (g s a)) :
    ∀ (l : List α) (s : State), Kept f s → Kept f (l.foldl g s)
  | [], _, h => h
  | a :: l, s, h => Kept.foldl hg l (g s a) (hg s a h)

end Sys2Proof.Machine
end

