-- ==== Sys2Proof/Laws/KeptBlocks.lean ====
section
/-! SUPPORT. The operations of the Journal Writer, the link engines, the order cells, the slot moves,
Payload Power Control, the allocator and the coordinator keep what `Kept` says. -/

namespace Sys2Proof.Machine

variable {f : Fixed} {s : State}

/-! ### Journal Writer -/

/-- Every notice has a mark. -/
theorem Notice.mark_ne_zero (n : Notice) : n.mark ≠ 0 := by
  have h : ∀ i : SlotId, 1#17 <<< (i.val + 1) ≠ 0 := by decide
  unfold Notice.mark
  split
  · decide
  · exact h _

/-- One more notice in a journal that is not full. -/
theorem Journal.Lawful.unread_succ {j : Journal} (h : j.Lawful) (hf : j.full = false) :
    (j.writeCount + 1 - j.readCount).toNat ≤ 128 := by
  have h1 := h.unread
  simp only [Journal.full, decide_eq_false_iff_not] at hf
  have h2 : (j.writeCount - j.readCount).toNat ≠ 128 := fun e => hf (BitVec.eq_of_toNat_eq e)
  bv_omega

@[simp] theorem Kept.writeNotice {n : Notice} (h : Kept f s) (hf : s.journal.full = false) :
    Kept f (writeNotice n s) := by
  have hj := h.inv.journal
  exact Kept.latch (h.setJournal ⟨hj.unread_succ hf, hj.gap⟩)

@[simp] theorem Kept.foldNotice {n : Notice} (h : Kept f s) : Kept f (foldNotice n s) := by
  have hj := h.inv.journal
  unfold Machine.foldNotice
  have hk := fun r => h.setJournal (r := r) (j := { s.journal with
    gapMask := s.journal.gapMask ||| n.mark, gapPending := true }) ⟨hj.unread, by
      simpa [BitVec.or_eq_zero_iff] using fun _ => n.mark_ne_zero⟩
  dsimp only
  split
  · exact (hk _).latch
  · exact hk _

@[simp] theorem Kept.roomTest (h : Kept f s) : Kept f (roomTest s) := by
  unfold Machine.roomTest
  split
  · next hc =>
    simp only [Bool.and_eq_true, Bool.not_eq_true'] at hc
    have hw := h.writeNotice (n := gapNotice s) hc.2
    exact hw.setJournal ⟨hw.inv.journal.unread, by simp⟩
  · exact h

@[simp] theorem Kept.handNotice {n : Notice} (h : Kept f s) : Kept f (handNotice n s) := by
  unfold Machine.handNotice takeNotice
  split
  · next hc =>
    simp only [Bool.and_eq_true, Bool.not_eq_true'] at hc
    exact h.roomTest.writeNotice hc.1.2
  · exact h.roomTest.foldNotice

/-! ### Slot Link Engines -/

theorem Engine.Lawful.send_up {e : Engine} {now : Time} {m : Msg} {b : Placer} {r : Bool} (h : e.Lawful)
    (hu : e.link = .up) (hb : b ∈ m.placers) : (e.send now m b r).Lawful := by
  constructor
  · exact h.queue
  · exact h.recovery
  · intro ha; rw [show e.link = .absent from ha] at hu; cases hu
  · intro ha; rw [show e.link = .lost from ha] at hu; cases hu
  · exact h.placed
  · intro o ho
    simp only [Engine.send, Option.some.injEq] at ho
    subst ho; exact hb

theorem Engine.Lawful.setQueue {e : Engine} {q : List QueuedMsg} (h : e.Lawful)
    (hq : e.link ≠ .up → q = []) (hp : ∀ x ∈ q, x.placer ∈ x.msg.placers) :
    ({ e with queue := q } : Engine).Lawful :=
  ⟨hq, h.recovery, h.absent, h.lost, hp, h.sent⟩

theorem Engine.Lawful.serve {e : Engine} {now : Time} (h : e.Lawful) : (e.serve now).Lawful := by
  unfold Engine.serve
  split
  · next hc =>
    split
    · next q hq =>
      exact Engine.Lawful.send_up (h.setQueue (fun hn => absurd hc.1 hn) fun x hx =>
        h.placed x (List.mem_of_mem_eraseP hx)) hc.1 (h.placed q (List.mem_of_find?_eq_some hq))
    · exact h
  · exact h

/-- A message joins with a placer that places its kind. -/
theorem Engine.Lawful.join {e : Engine} {m : Msg} {b : Placer} {t : Option Time} (h : e.Lawful)
    (hb : b ∈ m.placers) : (e.join m b t).Lawful := by
  unfold Engine.join
  split
  · next hc =>
    refine h.setQueue (fun hn => absurd hc hn) fun x hx => ?_
    rcases List.mem_append.1 hx with hx | hx
    · exact h.placed x hx
    · rw [List.mem_singleton.1 hx]; exact hb
  · exact h

/-- The message put back has the placer of the request that was answered (R131). -/
theorem Engine.Lawful.putBack {e : Engine} {t : Time} (h : e.Lawful) : (e.putBack t).Lawful := by
  unfold Engine.putBack
  split
  · next o ho => exact h.join (h.sent o ho)
  · exact h

theorem Engine.Lawful.filter {e : Engine} {p : QueuedMsg → Bool} (h : e.Lawful) :
    ({ e with queue := e.queue.filter p } : Engine).Lawful :=
  h.setQueue (fun hn => by rw [h.queue hn]; rfl) fun x hx => h.placed x (List.mem_of_mem_filter hx)

theorem Engine.Lawful.endMessages {e : Engine} {p : Msg → Bool} (h : e.Lawful) :
    (e.endMessages p).Lawful := by
  constructor
  · exact h.filter.queue
  · exact h.recovery
  · intro ha; show e.out.map _ = none; rw [h.absent ha]; rfl
  · intro ha o ho
    simp only [Engine.endMessages, Option.map_eq_some_iff] at ho
    obtain ⟨o', ho', e'⟩ := ho
    have := h.lost ha o' ho'
    rw [← e']; split <;> exact this
  · exact h.filter.placed
  · intro o ho
    simp only [Engine.endMessages, Option.map_eq_some_iff] at ho
    obtain ⟨o', ho', e'⟩ := ho
    have := h.sent o' ho'
    rw [← e']; split <;> exact this

theorem Engine.Lawful.setPoll {e : Engine} {t : Option Time} (h : e.Lawful) :
    ({ e with poll := t } : Engine).Lawful :=
  ⟨h.queue, h.recovery, h.absent, h.lost, h.placed, h.sent⟩

theorem Engine.Lawful.endRequest {e : Engine} (h : e.Lawful) : ({ e with out := none } : Engine).Lawful :=
  ⟨h.queue, h.recovery, fun _ => rfl, (fun _ _ ho => by cases ho), h.placed, fun _ ho => by cases ho⟩

theorem Engine.Lawful.vacate {e : Engine} : e.vacate.Lawful :=
  ⟨fun _ => rfl, fun hn => absurd rfl hn, fun _ => rfl, (fun hl => by cases hl), nofun,
    fun _ ho => by cases ho⟩

theorem Engine.Lawful.enterSurveying {e : Engine} (h : e.Lawful) : e.enterSurveying.Lawful := by
  refine ⟨fun hn => absurd rfl hn, fun hn => absurd rfl hn, (fun hl => by cases hl),
    (fun hl => by cases hl), h.placed, fun o ho => ?_⟩
  simp only [Engine.enterSurveying, Option.map_eq_some_iff] at ho
  obtain ⟨o', ho', e'⟩ := ho
  rw [← e']; exact h.sent o' ho'

@[simp] theorem Kept.serveLink {i : SlotId} (h : Kept f s) : Kept f (serveLink i s) :=
  h.modEngine Engine.Lawful.serve

theorem Kept.enqueue {i : SlotId} {m : Msg} {b : Placer} (h : Kept f s) (hb : b ∈ m.placers) :
    Kept f (enqueue i m b s) := h.modEngine fun hl => (hl.join hb).serve

@[simp] theorem Kept.putBack {i : SlotId} {ms : Nat} (h : Kept f s) :
    Kept f (putBack i ms s) := h.modEngine Engine.Lawful.putBack

@[simp] theorem Kept.endMessages {i : SlotId} {p : Msg → Bool} (h : Kept f s) :
    Kept f (endMessages i p s) := h.modEngine Engine.Lawful.endMessages

@[simp] theorem Kept.endOwn {i : SlotId} (h : Kept f s) : Kept f (endOwn i s) := h.endMessages

/-- The coordinator places a port message (R130). -/
theorem Kept.placePort {i : SlotId} {m : Msg} (h : Kept f s)
    (hb : Placer.coordinator ∈ m.placers := by exact List.mem_singleton.2 rfl) :
    Kept f (placePort i m s) := by
  unfold Machine.placePort
  split
  · exact h.modEngine Engine.Lawful.filter
  · exact h.endMessages.enqueue hb

/-- The sequencer places one of its own requests (R130). -/
theorem Kept.placeOwn {i : SlotId} {m : Msg} (h : Kept f s)
    (hb : Placer.sequencer ∈ m.placers := by exact List.mem_singleton.2 rfl) :
    Kept f (placeOwn i m s) := by
  unfold Machine.placeOwn
  split
  · exact h.enqueue hb
  · exact h

/-- The sequencer or the engine asks for a PROBE (R130). -/
theorem Kept.askProbe {i : SlotId} {b : Placer} (h : Kept f s)
    (hb : b ∈ Msg.probe.placers := by decide) : Kept f (askProbe i b s) := by
  unfold Machine.askProbe
  split
  · exact h.enqueue hb
  · exact h

@[simp] theorem Kept.alertTest {i : SlotId} (h : Kept f s) : Kept f (alertTest i s) := by
  unfold Machine.alertTest
  split
  · exact h.askProbe
  · exact h

/-! ### Order cells and lists -/

@[simp] theorem Kept.writeResult {c : CellId} {st : CellState} {r : CellResult} (h : Kept f s) :
    Kept f (writeResult c st r s) :=
  Kept.latch (Kept.setCell (h.setMem (Memory.wf_writeList _ _ _ h.inv.mem)))

@[simp] theorem Kept.refuseCell {c : CellId} {code : OrderRefusal} {i : Option SlotId} {t : Time}
    (h : Kept f s) : Kept f (refuseCell c code i t s) := h.writeResult

@[simp] theorem Kept.finishCell {c : CellId} {i : SlotId} {o : OrderOutcome} {t : Time}
    {x : Option FaultCause} {d : List Byte} (h : Kept f s) : Kept f (finishCell c i o t x d s) :=
  h.writeResult

@[simp] theorem Kept.finishShelfCell {c : CellId} {o : OrderOutcome} {t : Time} (h : Kept f s) :
    Kept f (finishShelfCell c o t s) := h.writeResult

/-- A change of a slot's list, active mark and page read that keeps the list's law. -/
theorem Slot.Lawful.setOrders {x : Slot} {l : List OrderEntry} {a : Bool} {r : Option PageRead}
    (h : x.Lawful) (hl : l.length ≤ 4) (ha : a = true → l ≠ []) :
    ({ x with orders := l, active := a, read := r } : Slot).Lawful :=
  ⟨h.gen, hl, ha, h.admissions, h.minutes, h.settle, h.boot, h.quiesce, h.survey, h.stamp, h.blink⟩

theorem Slot.Lawful.dropHead {x : Slot} (h : x.Lawful) : x.dropHead.Lawful :=
  h.setOrders (by have := h.orders; simp only [List.length_tail]; omega) (by simp)

@[simp] theorem Kept.dropHead {i : SlotId} (h : Kept f s) : Kept f (s.modSlot i Slot.dropHead) :=
  h.modSlot Slot.Lawful.dropHead rfl

@[simp] theorem Kept.finishActive {i : SlotId} {o : OrderOutcome} {x : Option FaultCause}
    {d : List Byte} (h : Kept f s) : Kept f (finishActive i o x d s) := by
  unfold Machine.finishActive
  split <;> simp [h]

@[simp] theorem Kept.finishActiveIf {k : OrderKind} {i : SlotId} {o : OrderOutcome}
    {x : Option FaultCause} {d : List Byte} (h : Kept f s) :
    Kept f (finishActiveIf k i o x d s) := by
  unfold Machine.finishActiveIf
  split <;> simp [h]

@[simp] theorem Kept.finishEntries {i : SlotId} {o : OrderOutcome} : ∀ {l : List OrderEntry}
    {s : State}, Kept f s → Kept f (finishEntries i o l s)
  | [], _, h => h
  | _ :: l, _, h => Kept.finishEntries (l := l) h.finishCell

@[simp] theorem Kept.finishAll {i : SlotId} {o : OrderOutcome} (h : Kept f s) :
    Kept f (finishAll i o s) :=
  h.finishEntries.modSlot (fun hl => hl.setOrders (by simp) (by simp)) rfl

@[simp] theorem Kept.finishWaiting {i : SlotId} {o : OrderOutcome} (h : Kept f s) :
    Kept f (finishWaiting i o s) := by
  refine h.finishEntries.modSlot (fun hl => ?_) rfl
  have h1 := hl.orders
  have h2 := hl.active
  refine hl.setOrders (a := ((Machine.finishEntries i o (s.slot i).waiting s).slot i).active) ?_ ?_
  · split <;> simp
  · intro ha
    rw [if_pos ha]
    have := h2 ha
    cases hc : ((Machine.finishEntries i o (s.slot i).waiting s).slot i).orders with
    | nil => exact absurd hc this
    | cons => simp

/-! ### Slot moves -/

theorem nextGeneration_ne_zero {g : Word16} : nextGeneration g ≠ 0 := by
  unfold nextGeneration
  split
  · decide
  · next h => intro e; exact h (by bv_omega)

theorem blinkAfter_isSome {now : Time} {old new : SlotState} {phase : Option Blink}
    (h : phase.isSome = old.blinking) : (blinkAfter now old new phase).isSome = new.blinking := by
  unfold blinkAfter
  split
  · next hn =>
    split
    · next ho => rw [h, ho, hn]
    · rw [hn]; rfl
  · next hn => simp at hn; rw [hn]; rfl

theorem Slot.Lawful.enter {x : Slot} {now : Time} {new : SlotState} (h : x.Lawful) :
    (x.enter now new).Lawful where
  gen := nextGeneration_ne_zero
  orders := h.orders
  active := h.active
  admissions := h.admissions
  minutes := h.minutes
  settle := by simp [Slot.enter]
  boot := by simp [Slot.enter]
  quiesce := by simp [Slot.enter]
  survey := by simp [Slot.enter]
  stamp := by simp [Slot.enter]
  blink := blinkAfter_isSome h.blink

@[simp] theorem Kept.moveSlot {i : SlotId} {new : SlotState} (h : Kept f s) :
    Kept f (moveSlot i new s) :=
  (h.modSlot (fun hl => hl.enter) rfl).modEngine Engine.Lawful.setPoll

@[simp] theorem Kept.changeState {i : SlotId} {new : SlotState} {d : StateDetail}
    (h : Kept f s) : Kept f (changeState i new d t s) := by
  simp [Machine.changeState, h]

@[simp] theorem Kept.changeStateOwn {i : SlotId} {new : SlotState} {d : StateDetail}
    (h : Kept f s) : Kept f (changeStateOwn i new d s) := h.changeState

/-! ### Payload Power Control -/

theorem Power.Lawful.turnOff {b : Bool} {p : Power} {now : Time} : (p.turnOff now).Lawful b :=
  ⟨fun _ => rfl, fun _ _ => rfl, fun _ _ => rfl, fun _ _ => rfl⟩

@[simp] theorem Kept.rampEnded {i : SlotId} (h : Kept f s) : Kept f (rampEnded i s) := by
  have hk : Kept f (s.modAlloc fun a => { a with ramping := a.ramping.erase i }) :=
    h.modAlloc fun hl => ⟨hl.granted, hl.capacity, hl.shelf⟩
  unfold Machine.rampEnded
  dsimp only
  split
  · split
    · exact hk.raise
    · exact hk
  · exact h

@[simp] theorem Kept.powerOff {i : SlotId} (h : Kept f s) : Kept f (powerOff i s) := by
  unfold Machine.powerOff
  split
  · split
    · exact h.rampEnded.modPower fun _ => Power.Lawful.turnOff
    · exact h.modPower fun _ => Power.Lawful.turnOff
  · exact h

theorem appendHistory_length {l : List Time} {t : Time} (h : l.length ≤ 4) :
    (appendHistory l t).length ≤ 4 := by
  unfold appendHistory Config.historyDepth
  split
  · simp; omega
  · simp; omega

theorem ageHistory_length {l : List Time} {t : Time} (h : l.length ≤ 4) :
    (ageHistory t l).length ≤ 4 := le_trans (List.length_filter_le _ _) h

@[simp] theorem Kept.rampStart {i : SlotId} (h : Kept f s) : Kept f (rampStart i s) :=
  Kept.setHistory
    (h.modPower fun _ => ⟨nofun, nofun, nofun, nofun⟩)
    (appendHistory_length h.inv.history)

/-! ### Power Allocator -/

/-- Setting one claim of the table changes its sum by the difference. -/
theorem sum_set (v : Vector Nat 16) (i : SlotId) (x : Nat) :
    (v.set i x).toList.sum + v[i] = v.toList.sum + x := by
  have key : ∀ (l : List Nat) (k : Nat) (h : k < l.length), (l.set k x).sum + l[k] = l.sum + x := by
    intro l
    induction l with
    | nil => intro k h; simp at h
    | cons a l ih =>
      intro k h
      cases k with
      | zero => simp; omega
      | succ k =>
        have := ih k (by simpa using h)
        simp
        omega
  have := key v.toList i.val (by simp)
  rw [Vector.toList_set]
  simpa using this

theorem sum_ge (v : Vector Nat 16) (i : SlotId) : v[i] ≤ v.toList.sum := by
  have := List.single_le_sum (l := v.toList) (by simp) v[i] (by simp)
  exact this

theorem Allocator.Lawful.release {a : Allocator} {i : SlotId} (h : a.Lawful) : (a.release i).Lawful := by
  have h1 := sum_set a.claims i 0
  have h2 := h.granted
  have h3 := h.capacity
  refine ⟨?_, ?_, h.shelf⟩
  · show a.granted - a.claims[i] = (a.claims.set i 0).toList.sum
    omega
  · show a.granted - a.claims[i] ≤ a.capacity
    omega

@[simp] theorem Kept.returnClaim {i : SlotId} (h : Kept f s) : Kept f (returnClaim i s) := by
  have hk : Kept f (s.modSlot i fun x => { x with claim := 0 }) := h.modSlot_core rfl
  unfold Machine.returnClaim
  dsimp only
  split
  · exact hk
  · exact (hk.modAlloc Allocator.Lawful.release).touchShelf.raise

@[simp] theorem Kept.reportFrom : ∀ {l : List QueueEntry} {k : Nat} {s : State}, Kept f s →
    Kept f (reportFrom k l s)
  | [], _, _, h => h
  | _ :: l, k, _, h => Kept.reportFrom (l := l) (k := k + 1) (h.modSlot_core rfl)

@[simp] theorem Kept.setQueue {q : List QueueEntry} (h : Kept f s) : Kept f (setQueue q s) :=
  Kept.reportFrom (h.modAlloc fun hl => ⟨hl.granted, hl.capacity, hl.shelf⟩).touchShelf

@[simp] theorem Kept.joinQueue {i : SlotId} {c : CellId} (h : Kept f s) : Kept f (joinQueue i c s) :=
  h.setQueue

@[simp] theorem Kept.removeEntry {i : SlotId} (h : Kept f s) : Kept f (removeEntry i s) := by
  unfold Machine.removeEntry
  split <;> simp [h]

/-- A claim that fits stays within the capacity (R61). -/
theorem Allocator.fits_capacity {a : Allocator} {i : SlotId} {c : Nat} (h : a.fits i c = true) :
    c + a.granted ≤ a.capacity := by
  unfold Allocator.fits at h
  split at h <;> simp only [decide_eq_true_eq] at h <;> omega

theorem Allocator.Lawful.enterClaim {a : Allocator} {i : SlotId} {c : Nat} (h : a.Lawful)
    (hf : a.fits i c = true) : (a.enterClaim i c).Lawful := by
  have h1 := sum_set a.claims i c
  have h2 := sum_ge a.claims i
  have h3 := h.granted
  have h4 := Allocator.fits_capacity hf
  refine ⟨?_, ?_, h.shelf⟩
  · show a.granted - a.claims[i] + c = (a.claims.set i c).toList.sum
    omega
  · show a.granted - a.claims[i] + c ≤ a.capacity
    omega

theorem Slot.Lawful.count {x : Slot} {c : Nat} (h : x.Lawful) :
    ({ x with claim := c, admissions := countUpTo 255 x.admissions } : Slot).Lawful :=
  ⟨h.gen, h.orders, h.active, Nat.min_le_left _ _, h.minutes, h.settle, h.boot, h.quiesce, h.survey,
    h.stamp, h.blink⟩

theorem Kept.grant {e : QueueEntry} {rest : List QueueEntry} (h : Kept f s)
    (hf : s.alloc.fits e.slot e.claim = true) : Kept f (grant e rest s) := by
  have h1 : Kept f (s.modAlloc fun a =>
      { Allocator.enterClaim e.slot e.claim a with ramping := a.ramping ++ [e.slot] }) :=
    h.modAlloc fun hl => by
      have := hl.enterClaim hf
      exact ⟨this.granted, this.capacity, this.shelf⟩
  have h2 := (h1.setQueue (q := rest)).rampStart (i := e.slot)
  exact ((h2.changeStateOwn (i := e.slot)).modSlot (fun hl => hl.count) rfl).raise

/-- An examination that passes all five tests passes the first (R66). -/
theorem examination_none {e : QueueEntry} (h : examination s e = none) :
    s.alloc.fits e.slot e.claim = true := by
  unfold examination at h
  split at h
  · cases h
  · next hf => simpa using hf

@[simp] theorem Kept.examine (h : Kept f s) : Kept f (examine s) := by
  have hr : ∀ t : Option Time, Kept f (s.modAlloc fun a => { a with reexam := t }) := fun t =>
    h.modAlloc fun hl => ⟨hl.granted, hl.capacity, hl.shelf⟩
  unfold Machine.examine
  split
  · exact h
  · dsimp only
    split
    · next he => exact (hr none).grant (examination_none he)
    · exact (Kept.modAlloc (hr none) fun hl => ⟨hl.granted, hl.capacity, hl.shelf⟩).modSlot_core rfl

@[simp] theorem Kept.retestDeferral {i : SlotId} (h : Kept f s) : Kept f (retestDeferral s i) := by
  unfold Machine.retestDeferral
  split
  · split
    · exact h.powerOff.raise
    · exact h.modPower fun hl => ⟨hl.reset, hl.limit, hl.hold, hl.minute⟩
  · exact h

@[simp] theorem Kept.applyTiming {c : CellId} (h : Kept f s) : Kept f (applyTiming c s) :=
  (Kept.foldl (fun _ _ h => h.retestDeferral) _ _ h.setSettings).touchShelf.handNotice

theorem Kept.applyBudget {c : CellId} (h : Kept f s) (hc : s.alloc.granted ≤ s.budgetCapacity c) :
    Kept f (applyBudget c s) :=
  (Kept.modAlloc h fun hl => ⟨hl.granted, hc, hl.shelf⟩).touchShelf.handNotice

@[simp] theorem Kept.finishFront {e : OrderEntry} {o : OrderOutcome} (h : Kept f s) :
    Kept f (finishFront e o s) :=
  (h.finishShelfCell.modAlloc fun hl => ⟨hl.granted, hl.capacity, by
    have := hl.shelf; simp only [List.length_tail]; omega⟩).touchShelf

@[simp] theorem Kept.serveShelf (h : Kept f s) : Kept f (serveShelf s) := by
  unfold Machine.serveShelf
  split
  · exact h
  · next e _ _ =>
    have hb : Kept f (s.onBehalf e.cell) := h.onBehalf
    split
    · split
      · exact hb.applyTiming.finishFront.raise
      · exact h.raise
    · split
      · next hc => exact (hb.applyBudget hc).finishFront.raise
      · exact h.finishFront.raise

/-! ### Fabric Coordinator -/

@[simp] theorem Kept.portNotice {p : PortId} {d : PortDetail} {st : PortState} (h : Kept f s) :
    Kept f (portNotice p d st s) := h.handNotice

theorem Port.Lawful.isolate {x : Port} (h : x.Lawful) : x.isolate.Lawful :=
  ⟨h.attempts, fun _ => ⟨rfl, rfl⟩, nofun, nofun, nofun, nofun, nofun⟩

@[simp] theorem Kept.toIsolated {p : PortId} (h : Kept f s) : Kept f (toIsolated p s) :=
  h.modPort Port.Lawful.isolate

theorem Port.Lawful.decline {x : Port} (h : x.Lawful) :
    ({ x.isolate with declined := true } : Port).Lawful :=
  ⟨h.attempts, fun _ => ⟨rfl, rfl⟩, nofun, nofun, nofun, nofun, nofun⟩

theorem Port.Lawful.offer {x : Port} {t : Time} :
    ({ x with state := .offered, gate := false, attempts := countUpTo 255 x.attempts,
              deadline := some t } : Port).Lawful :=
  ⟨Nat.min_le_left _ _, nofun, fun _ => ⟨rfl, nofun⟩, nofun, nofun, nofun, nofun⟩

@[simp] theorem Kept.offerTest {p : PortId} (h : Kept f s) : Kept f (offerTest p s) := by
  unfold Machine.offerTest
  split
  · exact (h.modPort fun _ => Port.Lawful.offer).placePort
  · exact h

@[simp] theorem Kept.offerTests {ps : List PortId} (h : Kept f s) : Kept f (offerTests ps s) :=
  Kept.foldl (fun _ _ h => h.offerTest) _ _ h

@[simp] theorem Kept.clearDeclined {i : SlotId} (h : Kept f s) : Kept f (clearDeclined i s) :=
  Kept.foldl (fun _ _ h => h.modPort fun hl =>
    ⟨Nat.zero_le _, hl.isolated, hl.offered, hl.opening, hl.opened, hl.closing, hl.withdrawing⟩) _ _ h

@[simp] theorem Kept.beginJoin {i : SlotId} (h : Kept f s) : Kept f (beginJoin i s) :=
  h.clearDeclined.offerTests.testLate

/-- A port's move to WITHDRAWING with a fresh deadline or the one it has. -/
theorem Port.Lawful.withdraw {x : Port} {t : Option Time} (h : x.Lawful) (ht : t ≠ none) :
    ({ x with state := .withdrawing, deadline := t } : Port).Lawful :=
  ⟨h.attempts, nofun, nofun, nofun, nofun, nofun, fun _ => ht⟩

theorem Kept.toWithdrawing {p : PortId} {fresh link : Bool} (h : Kept f s)
    (hd : fresh = false → (s.portOf p).deadline ≠ none) : Kept f (toWithdrawing p fresh link s) := by
  unfold Machine.toWithdrawing
  split
  · have hk : Kept f (s.modPort p fun x =>
        { x with state := .withdrawing, deadline := if fresh then s.drainDeadline else x.deadline }) :=
      h.modPort fun hl => hl.withdraw (by
        cases fresh with
        | true => simp [State.drainDeadline]
        | false => simpa using hd rfl)
    dsimp only
    split
    · exact hk.placePort.portNotice
    · exact hk.placePort
  · exact h.toIsolated.portNotice.offerTest

theorem Kept.toWithdrawing_fresh {p : PortId} {link : Bool} (h : Kept f s) :
    Kept f (Machine.toWithdrawing p true link s) := h.toWithdrawing nofun

theorem Kept.toClosing {p : PortId} (h : Kept f s)
    (hg : (s.portOf p).gate = true) : Kept f (toClosing p s) := by
  unfold Machine.toClosing
  split
  · refine Kept.placePort (h.modPort fun hl => ?_)
    exact ⟨hl.attempts, nofun, nofun, nofun, nofun, fun _ => ⟨hg, nofun⟩, nofun⟩
  · exact h.toWithdrawing_fresh

end Sys2Proof.Machine
end

