-- ==== Sys2Proof/Laws/KeptFabric.lean ====
section
/-! SUPPORT. The operations of the Fabric Coordinator keep what `Kept` says. -/

namespace Sys2Proof.Machine

variable {f : Fixed} {s : State}

theorem Kept.toClosing_opening {p : PortId} (h : Kept f s)
    (hp : (s.portOf p).state = .opening ∨ (s.portOf p).state = .opened) :
    Kept f (Machine.toClosing p s) :=
  h.toClosing (by
    rcases hp with e | e
    · exact ((h.inv.ports p).opening e).1
    · exact ((h.inv.ports p).opened e).1)

@[simp] theorem Kept.withdrawPort {p : PortId} (h : Kept f s) :
    Kept f (withdrawPort s p) := by
  unfold Machine.withdrawPort
  split
  · exact h
  · split
    · exact h.endMessages.toIsolated.offerTest
    · exact h
  · next hp =>
    split
    · exact h.placePort.toWithdrawing_fresh
    · exact h.endMessages.toClosing_opening (Or.inl hp)
  · next hp => exact h.toClosing_opening (Or.inr hp)
  · exact h
  · exact h

@[simp] theorem Kept.withdrawSlot {i : SlotId} (h : Kept f s) :
    Kept f (withdrawSlot i s) :=
  (Kept.foldl (fun _ _ h => h.withdrawPort) _ _ h).testLate

@[simp] theorem Kept.isolatePort {p : PortId} {l : Option SlotId} {b : Bool} (h : Kept f s) :
    Kept f (isolatePort p l b s) := by
  unfold Machine.isolatePort
  split
  · exact h
  · have h2 := (h.endMessages (i := hubSlot p)
      (p := Msg.handshakeFor (some (p.node.val + 1)))).endMessages (i := nodeSlot p)
      (p := Msg.handshakeFor (some (15 + p.hub.val)))
    have h3 := h2.toIsolated (p := p)
    dsimp only
    have keep : ∀ (b : Bool) (s s' : State), Kept f s → Kept f s' →
        Kept f (if b = true then s' else s) := by
      intro b s s' hs hs'; split
      · exact hs'
      · exact hs
    exact keep _ _ _ (keep _ _ _ (keep _ _ _ h3 h3.placePort) (keep _ _ _ h3 h3.placePort).placePort)
      (keep _ _ _ (keep _ _ _ h3 h3.placePort) (keep _ _ _ h3 h3.placePort).placePort).portNotice

@[simp] theorem Kept.isolateSlot {i : SlotId} (h : Kept f s) :
    Kept f (isolateSlot i s) :=
  (Kept.foldl (fun _ _ h => h.isolatePort) _ _ h).offerTests

@[simp] theorem Kept.resolveNodePort {p : PortId} (h : Kept f s) : Kept f (resolveNodePort s p) := by
  unfold Machine.resolveNodePort
  split
  · exact h
  · split
    · exact h.endMessages.toIsolated.portNotice.offerTest
    · exact h
  · exact h.toWithdrawing_fresh
  · exact h
  · next hp => exact h.toWithdrawing fun _ => ((h.inv.ports p).closing hp).2
  · exact h

theorem Kept.declineIsolated {p : PortId} (h : Kept f s) :
    Kept f ((Machine.toIsolated p s).modPort p fun x => { x with declined := true }) :=
  h.toIsolated.modPort fun hl =>
    ⟨hl.attempts, hl.isolated, hl.offered, hl.opening, hl.opened, hl.closing, hl.withdrawing⟩

@[simp] theorem Kept.resolveHubPort {p : PortId} (h : Kept f s) : Kept f (resolveHubPort s p) := by
  unfold Machine.resolveHubPort
  split
  · exact h.declineIsolated.portNotice
  · exact h.toIsolated.portNotice.offerTest
  · exact h
  · exact h
  · exact h
  · exact h

@[simp] theorem Kept.resolveLoss {i : SlotId} (h : Kept f s) : Kept f (resolveLoss i s) := by
  unfold Machine.resolveLoss
  split
  · exact Kept.foldl (fun _ _ h => h.resolveHubPort) _ _ h
  · exact Kept.foldl (fun _ _ h => h.resolveNodePort) _ _ h

/-- A port's move to OPENING: the gate latch opens and the deadline is removed (R100, R108). -/
theorem Port.Lawful.open {x : Port} {g : Bool} (h : x.Lawful) (hg : g = true) :
    ({ x with state := .opening, gate := g, deadline := none } : Port).Lawful :=
  ⟨h.attempts, nofun, nofun, fun _ => ⟨hg, rfl⟩, nofun, nofun, nofun⟩

@[simp] theorem Kept.takeAccept {p : PortId} (h : Kept f s) : Kept f (takeAccept p s) := by
  unfold Machine.takeAccept
  split
  · split
    · exact (h.modPort fun hl => hl.open rfl).placePort
    · exact h.toWithdrawing_fresh
  · exact h.toWithdrawing_fresh

@[simp] theorem Kept.takeRefuse {p : PortId} (h : Kept f s) : Kept f (takeRefuse p s) :=
  (h.modPort Port.Lawful.decline).portNotice.offerTest

@[simp] theorem Kept.takeLater {p : PortId} (h : Kept f s) : Kept f (takeLater p s) := by
  unfold Machine.takeLater
  split
  · exact h.putBack
  · exact h.toIsolated.offerTest

@[simp] theorem Kept.portAnswer {i : SlotId} {m : Msg} {a : Answer} (h : Kept f s) :
    Kept f (portAnswer i m a s) := by
  cases m <;> simp only [Machine.portAnswer] <;> try exact h
  all_goals try generalize (if i.val = 14 then (0 : HubId) else 1) = hub
  · split
    · next hp =>
      refine h.modPort fun hl => ?_
      have := hl.opening hp.1
      exact ⟨hl.attempts, nofun, nofun, nofun, fun _ => this, nofun, nofun⟩
    · exact h
  · split
    · next hp =>
      split
      · exact h.toWithdrawing fun _ => ((h.inv.ports _).closing hp).2
      · exact h.putBack
      all_goals exact h
    · exact h
  · split
    · split
      · exact h.takeAccept
      · exact h.takeRefuse
      · exact h.takeLater
      all_goals exact h
    · exact h
  · split
    · split
      · exact h.toIsolated.offerTest
      · exact h.putBack
      all_goals exact h
    · exact h

@[simp] theorem Kept.abortPort {i : SlotId} {l : List SlotId} {p : PortId} (h : Kept f s) :
    Kept f (abortPort i l s p) := by
  unfold Machine.abortPort
  dsimp only
  generalize (if nodeSlot p = i then hubSlot p else nodeSlot p) = other
  split
  · exact h
  · split
    · next hp =>
      refine (h.endMessages.modPort fun hl => ?_).placePort
      exact hl.open ((h.inv.ports p).closing hp).1
    · next hp =>
      refine h.modPort fun hl => ?_
      have elsewhere : ∀ {st : PortState} {q : Prop}, st ≠ .withdrawing → (s.portOf p).state = st → q :=
        fun hn e => (hn (e.symm.trans hp)).elim
      exact ⟨hl.attempts, elsewhere nofun, elsewhere nofun, elsewhere nofun, elsewhere nofun,
        elsewhere nofun, fun _ => nofun⟩
    all_goals exact h

end Sys2Proof.Machine
end

