-- ==== Sys2Proof/Laws/KeptSequencer.lean ====
section
/-! SUPPORT. The operations of the Slot Sequencers and of the engines' answers keep what `Kept` says. -/

namespace Sys2Proof.Machine

variable {f : Fixed} {s : State} {i : SlotId}

/-! ### The deadlines, surveys and stamps that belong to one state -/

theorem Kept.setSurvey {v : Option Survey} (h : Kept f s) (hs : (s.slot i).state = .surveying) :
    Kept f (s.modSlot i fun x => { x with survey := v }) :=
  h.modSlot (fun hl => ⟨hl.gen, hl.orders, hl.active, hl.admissions, hl.minutes, hl.settle, hl.boot,
    hl.quiesce, fun _ => hs, hl.stamp, hl.blink⟩) rfl

theorem Kept.setStamp {v : Option Stamp} (h : Kept f s) (hs : (s.slot i).state = .stamping) :
    Kept f (s.modSlot i fun x => { x with stamp := v }) :=
  h.modSlot (fun hl => ⟨hl.gen, hl.orders, hl.active, hl.admissions, hl.minutes, hl.settle, hl.boot,
    hl.quiesce, hl.survey, fun _ => hs, hl.blink⟩) rfl

theorem Kept.setBoot {v : Option Time} (h : Kept f s) (hs : (s.slot i).state = .booting) :
    Kept f (s.modSlot i fun x => { x with boot := v }) :=
  h.modSlot (fun hl => ⟨hl.gen, hl.orders, hl.active, hl.admissions, hl.minutes, hl.settle,
    fun _ => hs, hl.quiesce, hl.survey, hl.stamp, hl.blink⟩) rfl

theorem Kept.setQuiesce {v : Option Time} (h : Kept f s) (hs : (s.slot i).state = .quiescing) :
    Kept f (s.modSlot i fun x => { x with quiesce := v }) :=
  h.modSlot (fun hl => ⟨hl.gen, hl.orders, hl.active, hl.admissions, hl.minutes, hl.settle, hl.boot,
    fun _ => hs, hl.survey, hl.stamp, hl.blink⟩) rfl

theorem Kept.setSettle {v : Option Time} (h : Kept f s) (hs : (s.slot i).state = .seating) :
    Kept f (s.modSlot i fun x => { x with settle := v }) :=
  h.modSlot (fun hl => ⟨hl.gen, hl.orders, hl.active, hl.admissions, hl.minutes, fun _ => hs, hl.boot,
    hl.quiesce, hl.survey, hl.stamp, hl.blink⟩) rfl

/-- A stamp is under way in STAMPING alone. -/
theorem Kept.stamping {p : Stamp} (h : Kept f s) (hp : (s.slot i).stamp = some p) :
    (s.slot i).state = .stamping := (h.inv.slots i).stamp (by rw [hp]; rfl)

theorem Kept.surveying {v : Survey} (h : Kept f s) (hv : (s.slot i).survey = some v) :
    (s.slot i).state = .surveying := (h.inv.slots i).survey (by rw [hv]; rfl)

/-! ### The survey -/

@[simp] theorem Kept.testNext (h : Kept f s) : Kept f (testNext i s) := h.raise

@[simp] theorem Kept.testInService (h : Kept f s) : Kept f (testInService i s) := h.raise

@[simp] theorem Kept.settleInService (h : Kept f s) : Kept f (settleInService i s) :=
  h.offerTests.testInService

theorem Kept.surveyBegin (h : Kept f s) (hs : (s.slot i).state = .surveying) :
    Kept f (surveyBegin i s) := (h.setSurvey hs).placeOwn

theorem Kept.enterSurveying (h : Kept f s) (hs : (s.slot i).state = .surveying) :
    Kept f (enterSurveying i s) := by
  have hk : Kept f ((s.modSlot i Slot.clearIdentity).modEngine i Engine.enterSurveying) :=
    Kept.modEngine (h.modSlot_core rfl) Engine.Lawful.enterSurveying
  unfold Machine.enterSurveying
  dsimp only
  split
  · exact hk.surveyBegin (by simpa [Slot.clearIdentity] using hs)
  · exact (hk.offerTests.surveyBegin (by simpa [Slot.clearIdentity] using hs)).alertTest

@[simp] theorem Kept.surveyEnd {st : IdStatus} {r : IdReason} (h : Kept f s) :
    Kept f (surveyEnd i st r s) :=
  (Kept.changeStateOwn (h.modSlot_core rfl)).finishActiveIf.testNext

theorem Kept.surveyPage {v : Survey} {p : List Byte} (h : Kept f s)
    (hs : (s.slot i).state = .surveying) : Kept f (surveyPage i v p s) := by
  unfold Machine.surveyPage
  split
  · refine Kept.placeOwn (h.modSlot (fun hl => ?_) rfl)
    exact ⟨hl.gen, hl.orders, hl.active, hl.admissions, hl.minutes, hl.settle, hl.boot, hl.quiesce,
      fun _ => hs, hl.stamp, hl.blink⟩
  · exact (h.setSurvey hs).placeOwn
  · dsimp only
    split <;> exact Kept.surveyEnd (h.modSlot_core rfl)

/-! ### Retirement -/

@[simp] theorem Kept.beginRetirement {r : Retirement} {d : StateDetail} {t : Option Word16}
    (h : Kept f s) : Kept f (beginRetirement i r d t s) :=
  (Kept.changeState (h.modSlot_core rfl)).withdrawSlot

@[simp] theorem Kept.powerOffRequest (h : Kept f s) : Kept f (powerOffRequest i s) := by
  unfold Machine.powerOffRequest
  split
  · exact h.powerOff.raise
  · exact h.modPower fun hl => ⟨hl.reset, hl.limit, hl.hold, hl.minute⟩

@[simp] theorem Kept.switchOpened (h : Kept f s) : Kept f (switchOpened i s) := by
  unfold Machine.switchOpened
  split
  · exact h.returnClaim.changeStateOwn.finishActive.testNext
  · exact h

@[simp] theorem Kept.stampEnd {r : StampResult} (h : Kept f s) : Kept f (stampEnd i r s) := by
  refine Kept.powerOffRequest (Kept.changeStateOwn (Kept.handNotice ?_))
  refine h.endOwn.modSlot_core ?_
  split <;> rfl

theorem Kept.stampBegin (h : Kept f s) (hs : (s.slot i).state = .stamping) :
    Kept f (stampBegin i s) := by
  unfold Machine.stampBegin
  dsimp only
  split
  · exact (h.setStamp hs).placeOwn
  · exact h.stampEnd

@[simp] theorem Kept.quiesceEnd {d : StateDetail} (h : Kept f s) : Kept f (quiesceEnd i d s) := by
  unfold Machine.quiesceEnd
  split
  · exact h.endOwn.changeStateOwn.stampBegin (by simp [Slot.enter])
  · exact h.endOwn.changeStateOwn.powerOffRequest

@[simp] theorem Kept.leaveSlot (h : Kept f s) : Kept f (leaveSlot i s) :=
  (h.changeStateOwn.setQuiesce (by simp [Slot.enter])).placeOwn

@[simp] theorem Kept.joinSlot (h : Kept f s) : Kept f (joinSlot i s) :=
  h.changeStateOwn.offerTests.finishActiveIf.testInService

@[simp] theorem Kept.portTest (h : Kept f s) : Kept f (portTest i s) := by
  unfold Machine.portTest
  split
  · exact h.joinSlot
  · split
    · exact h.leaveSlot
    · exact h

@[simp] theorem Kept.drainAbort (h : Kept f s) : Kept f (drainAbort s i) :=
  h.changeStateOwn.finishActiveIf.settleInService

/-! ### Faults and removal -/

@[simp] theorem Kept.faultRemove {c : FaultCause} (h : Kept f s) : Kept f (faultRemove i c s) := by
  have h2 := (h.changeStateOwn (i := i) (new := .faulted) (d := .fault)).powerOff (i := i)
    |>.isolateSlot (i := i) |>.returnClaim (i := i)
  refine Kept.testNext (Kept.finishActiveIf (Kept.finishActiveIf ?_))
  split
  · exact h2
  · exact h2.endOwn

@[simp] theorem Kept.raiseFault {c : FaultCause} (h : Kept f s) : Kept f (raiseFault i c s) := by
  have hk : Kept f (s.modSlot i fun x => { x with fault := some c, faultTime := s.time }) :=
    h.modSlot_core rfl
  unfold Machine.raiseFault
  dsimp only
  split
  · exact hk.handNotice.faultRemove
  · exact hk.handNotice

@[simp] theorem Kept.reportFault {c : FaultCause} (h : Kept f s) : Kept f (reportFault i c s) := by
  unfold Machine.reportFault
  split
  · exact h.raiseFault
  · exact h

@[simp] theorem Kept.removalMove (h : Kept f s) : Kept f (removalMove i s) := by
  unfold Machine.removalMove
  split
  · exact h.moveSlot.handNotice
  · exact h.changeStateOwn

/-- The clearing of entry to VACANT keeps a slot's law. -/
theorem Slot.Lawful.clearBlade {x : Slot} (h : x.Lawful) : x.clearBlade.Lawful :=
  ⟨h.gen, h.orders, h.active, Nat.zero_le _, Nat.zero_le _, h.settle, h.boot, h.quiesce, h.survey,
    h.stamp, h.blink⟩

@[simp] theorem Kept.clearBlade (h : Kept f s) : Kept f (s.modSlot i Slot.clearBlade) :=
  h.modSlot Slot.Lawful.clearBlade rfl

@[simp] theorem Kept.vacate (h : Kept f s) : Kept f (s.modEngine i Engine.vacate) :=
  h.modEngine fun _ => Engine.Lawful.vacate

@[simp] theorem Kept.removal (h : Kept f s) : Kept f (removal i s) :=
  h.removalMove.removeEntry.powerOff.isolateSlot.returnClaim.vacate.finishAll.clearBlade.clearDeclined

@[simp] theorem Kept.arrival (h : Kept f s) : Kept f (arrival i s) := by
  unfold Machine.arrival
  split
  · exact h.changeStateOwn.setSettle (by simp [Slot.enter])
  · exact h

@[simp] theorem Kept.presenceChange {o : Presence} (h : Kept f s) : Kept f (presenceChange i o s) := by
  unfold Machine.presenceChange
  dsimp only
  split
  · exact h.arrival
  · split
    · exact h.removal
    · exact h

@[simp] theorem Kept.firstSample (h : Kept f s) : Kept f (firstSample i s) :=
  Kept.presenceChange (h.modSlot_core rfl)

/-! ### Order starts and the handle response -/

@[simp] theorem Kept.refuseHead {e : OrderEntry} {c : OrderRefusal} (h : Kept f s) :
    Kept f (refuseHead i e c s) := h.dropHead.refuseCell.raise

@[simp] theorem Kept.startAdmit {c : CellId} (h : Kept f s) : Kept f (startAdmit i c s) :=
  h.changeState.joinQueue.raise

@[simp] theorem Kept.startRetire {c : CellId} (h : Kept f s) : Kept f (startRetire i c s) :=
  h.beginRetirement

@[simp] theorem Kept.startSurvey {c : CellId} (h : Kept f s) : Kept f (startSurvey i c s) :=
  h.changeState.enterSurveying (by simp [Slot.enter])

@[simp] theorem Kept.startRead {c : CellId} (h : Kept f s) : Kept f (startRead i c s) := by
  unfold Machine.startRead
  split
  · exact Kept.placeOwn (h.modSlot_core rfl)
  · exact h.finishActive.testNext

@[simp] theorem Kept.startClearFault {c : CellId} (h : Kept f s) : Kept f (startClearFault i c s) := by
  have hk : Kept f (s.modSlot i Slot.clearFault) := h.modSlot_core rfl
  unfold Machine.startClearFault
  split
  · exact hk.changeState.finishActive.testNext
  · split
    · exact h.finishActive.testNext
    · exact hk.finishActive.testNext

@[simp] theorem Kept.startAct {e : OrderEntry} (h : Kept f s) : Kept f (startAct i e s) := by
  unfold Machine.startAct
  split
  · exact h.startAdmit
  · exact h.startRetire
  · exact h.startSurvey
  · exact h.startRead
  · exact h.startClearFault
  all_goals exact h

@[simp] theorem Kept.startTest (h : Kept f s) : Kept f (startTest i s) := by
  unfold Machine.startTest
  split
  · exact h
  · next e l ho =>
    split
    · split
      · exact h.refuseHead
      · refine Kept.startAct (h.onBehalf.modSlot (fun hl => ?_) rfl)
        have hne : ((s.onBehalf e.cell).slot i).orders ≠ [] := by
          simp only [onBehalf_slot, ho, ne_eq, reduceCtorEq, not_false_eq_true]
        exact ⟨hl.gen, hl.orders, fun _ => hne, hl.admissions, hl.minutes, hl.settle, hl.boot,
          hl.quiesce, hl.survey, hl.stamp, hl.blink⟩
    · exact h

@[simp] theorem Kept.handleTest (h : Kept f s) : Kept f (handleTest i s) := by
  unfold Machine.handleTest
  split
  · split
    · exact h.removeEntry.changeStateOwn.finishActive.testNext
    · exact h.beginRetirement
  · exact h

/-! ### Answers -/

@[simp] theorem Kept.readPage {r : PageRead} {p : List Byte} (h : Kept f s) :
    Kept f (readPage i r p s) := by
  unfold Machine.readPage
  split
  · exact h.finishActive.testNext
  · exact Kept.placeOwn (h.modSlot_core rfl)

theorem Kept.stampAnswer {p : Stamp} {r : Reply} (h : Kept f s)
    (hs : (s.slot i).state = .stamping) : Kept f (stampAnswer i p r s) := by
  unfold Machine.stampAnswer
  split
  · exact (h.setStamp hs).putBack
  · split
    · exact h.stampEnd
    · exact h
  · split
    · exact (h.setStamp hs).placeOwn
    · exact (h.setStamp hs).askProbe
    · exact h
    · exact h.stampEnd
  all_goals exact h

@[simp] theorem Kept.ownAnswer {m : Msg} {r : Reply} (h : Kept f s) : Kept f (ownAnswer i m r s) := by
  unfold Machine.ownAnswer
  split
  · next p hp => exact h.stampAnswer (h.stamping hp)
  · split
    · exact h.putBack
    · split
      · split
        · next v _ hv => exact h.surveyPage (h.surveying hv)
        · exact h.readPage
        · exact h
      all_goals exact h
    all_goals exact h

@[simp] theorem Kept.handResumed {d : ResumedDetail} (h : Kept f s) : Kept f (handResumed i d s) :=
  h.handNotice

@[simp] theorem Kept.resumeService (h : Kept f s) : Kept f (resumeService i s) :=
  h.changeStateOwn.settleInService

@[simp] theorem Kept.resumeBooting (h : Kept f s) : Kept f (resumeBooting i s) :=
  h.changeStateOwn.setBoot (by simp [Slot.enter])

@[simp] theorem Kept.resumeFault {c : FaultCause} {d : ResumedDetail} (h : Kept f s) :
    Kept f (resumeFault i c d s) := by
  unfold Machine.resumeFault
  dsimp only
  split
  · exact h.handResumed.raiseFault.resumeService
  · exact h.handResumed.raiseFault

@[simp] theorem Kept.resumeAnswer {st : AgentState} (h : Kept f s) : Kept f (resumeAnswer i st s) := by
  unfold Machine.resumeAnswer
  split
  · exact h.resumeFault
  · exact h.handResumed.resumeBooting
  · exact h.handResumed.resumeBooting
  all_goals
    split
    · exact h.handResumed.resumeBooting
    · exact h.handResumed.resumeService

theorem Kept.programmingAnswer {p : Stamp} {st : AgentState} (h : Kept f s)
    (hs : (s.slot i).state = .stamping) : Kept f (programmingAnswer i p st s) := by
  unfold Machine.programmingAnswer
  split
  · exact h.setStamp hs
  · exact (h.setStamp hs).placeOwn

@[simp] theorem Kept.stateAnswer {st : AgentState} (h : Kept f s) : Kept f (stateAnswer i st s) := by
  unfold Machine.stateAnswer
  split
  · split
    · exact h.changeStateOwn.beginJoin
    · exact h
  · split
    · exact h.quiesceEnd
    · exact h
  · next hs _ =>
    split
    · exact h.programmingAnswer hs
    · exact h
  · exact h

@[simp] theorem Kept.probeAnswer {st : AgentState} {c : Byte} (h : Kept f s) :
    Kept f (probeAnswer i st c s) := by
  have hk : Kept f (s.modSlot i (Slot.recordAgent st c)) := h.modSlot_core rfl
  unfold Machine.probeAnswer
  dsimp only
  split
  · exact hk.resumeAnswer
  · split
    · exact hk.reportFault.stateAnswer
    · exact hk.stateAnswer

@[simp] theorem Kept.readLost (h : Kept f s) : Kept f (readLost i s) := by
  unfold Machine.readLost
  split
  · exact h.finishActive.testNext
  · exact h

@[simp] theorem Kept.stateLinkLost (h : Kept f s) : Kept f (stateLinkLost i s) := by
  unfold Machine.stateLinkLost
  split
  · exact h.surveyEnd
  · split
    · exact h.stampEnd.reportFault
    · split
      · exact h.resumeFault
      · exact h.reportFault

@[simp] theorem Kept.seqLinkLost (h : Kept f s) : Kept f (seqLinkLost i s) := h.stateLinkLost.readLost

/-! ### Reports of Payload Power Control -/

/-- A slot with a ramp limit, a reset hold or a minute deadline has its switch ON, while the part
runs. -/
theorem Power.Lawful.on_of_limit {p : Power} (h : p.Lawful false) (hp : p.rampLimit.isSome = true) :
    p.switchOn = true := by
  cases hs : p.switchOn with
  | true => rfl
  | false => rw [h.limit rfl hs] at hp; cases hp

theorem Power.Lawful.on_of_hold {p : Power} (h : p.Lawful false) (hp : p.resetHold.isSome = true) :
    p.switchOn = true := by
  cases hs : p.switchOn with
  | true => rfl
  | false => rw [h.hold rfl hs] at hp; cases hp

theorem Power.Lawful.on_of_minute {p : Power} (h : p.Lawful false) (hp : p.minute.isSome = true) :
    p.switchOn = true := by
  cases hs : p.switchOn with
  | true => rfl
  | false => rw [h.minute rfl hs] at hp; cases hp

/-- Any state of payload power with the switch ON is lawful. -/
theorem Power.Lawful.of_on {b : Bool} {p : Power} (h : p.switchOn = true) : p.Lawful b := by
  constructor <;> simp [h]

@[simp] theorem Kept.powerGoodTaken (h : Kept f s) : Kept f (powerGoodTaken i s) := by
  unfold Machine.powerGoodTaken
  split
  · next hr =>
    have hk : Kept f ((Machine.rampEnded i s).modPower i fun p =>
        { p with
          rampLimit := none
          goodTime := s.time
          onRef := some (after s.time Config.horizon)
          resetHold := some (after s.time Config.resetHold) }) := by
      refine h.rampEnded.modPower fun hl => ?_
      rw [(rampEnded_reads s i).2.1] at hl
      refine ⟨by simpa using hl.reset, fun _ _ => rfl, fun hh hs => ?_, by simpa using hl.minute⟩
      have := hl.limit hh (by simpa using hs)
      rw [this] at hr
      cases hr
    dsimp only
    split
    · exact hk.changeStateOwn.setBoot (by simp [Slot.enter])
    · exact hk
  · exact h

@[simp] theorem Kept.rampSlow (h : Kept f s) : Kept f (rampSlow i s) :=
  Kept.reportFault (h.rampEnded.modPower fun hl =>
    ⟨hl.reset, fun _ _ => rfl, hl.hold, hl.minute⟩)

@[simp] theorem Kept.tripTaken (h : Kept f s) : Kept f (tripTaken i s) := by
  unfold Machine.tripTaken
  split
  · exact h.powerOff.reportFault
  · exact h

theorem Kept.tripHeld (h : Kept f s) (hh : s.held = true) : Kept f (tripHeld i s) := by
  unfold Machine.tripHeld
  split
  · exact h.modPower fun _ => ⟨fun _ => rfl, by simp [hh], by simp [hh], by simp [hh]⟩
  · exact h

@[simp] theorem Kept.powerGoodLost (h : Kept f s) : Kept f (powerGoodLost i s) := by
  unfold Machine.powerGoodLost
  split
  · exact h.reportFault
  · exact h

/-! ### Frames and deadlines of a link -/

@[simp] theorem Kept.endRequest (h : Kept f s) : Kept f (endRequest i s) :=
  h.modEngine Engine.Lawful.endRequest

@[simp] theorem Kept.afterRequest {m : Msg} (h : Kept f s) : Kept f (afterRequest i m s) := by
  unfold Machine.afterRequest
  split
  · exact h.alertTest.serveLink
  · exact h.serveLink

@[simp] theorem Kept.linkNotice {b : Bool} (h : Kept f s) : Kept f (linkNotice i b s) := h.handNotice

@[simp] theorem Kept.linkLoss (h : Kept f s) : Kept f (linkLoss i s) :=
  Kept.seqLinkLost (Kept.linkNotice (Kept.resolveLoss (h.modEngine fun _ =>
    ⟨fun _ => rfl, fun _ => rfl, nofun, (fun _ _ ho => by cases ho), nofun, fun _ ho => by cases ho⟩)))

theorem Kept.failAttempt {o : Outstanding} (h : Kept f s) (ho : (s.engine i).out = some o) :
    Kept f (failAttempt i o s) := by
  unfold Machine.failAttempt
  split
  · exact h.endRequest.afterRequest
  · split
    · refine h.modEngine fun hl =>
        ⟨hl.queue, hl.recovery, fun ha => ?_, fun hk o' ho' => ?_, hl.placed, fun o' ho' => ?_⟩
      · have := hl.absent ha; rw [ho] at this; cases this
      · simp only [Option.some.injEq] at ho'
        subst ho'
        exact hl.lost hk o ho
      · simp only [Option.some.injEq] at ho'
        subst ho'
        exact hl.sent o ho
    · split
      · exact h.endRequest
      · exact h.linkLoss

@[simp] theorem Kept.linkRecovered (h : Kept f s) : Kept f (linkRecovered i s) :=
  Kept.linkNotice (Kept.offerTests (h.modEngine fun hl =>
    ⟨nofun, nofun, nofun, nofun, hl.placed, hl.sent⟩))

@[simp] theorem Kept.deliver {o : Outstanding} {r : Reply} (h : Kept f s) :
    Kept f (deliver i o r s) := by
  unfold Machine.deliver
  split
  · split
    · split
      · exact h.linkRecovered.probeAnswer
      · exact h.probeAnswer
    · exact h
  all_goals first
    | exact h.ownAnswer
    | exact h.portAnswer
    | exact h

@[simp] theorem Kept.takeReply {o : Outstanding} {r : Reply} (h : Kept f s) :
    Kept f (takeReply i o r s) := by
  unfold Machine.takeReply
  split
  · exact h.deliver.endRequest.afterRequest
  · exact h.endRequest.afterRequest

@[simp] theorem Kept.frameTaken {b : List Byte} (h : Kept f s) : Kept f (frameTaken i b s) := by
  unfold Machine.frameTaken
  split
  · exact h
  · next o ho =>
    split
    · exact h.takeReply
    · exact h.failAttempt ho

@[simp] theorem Kept.replyExpired (h : Kept f s) : Kept f (replyExpired i s) := by
  unfold Machine.replyExpired
  split
  · exact h
  · next o ho =>
    split
    · exact h.failAttempt ho
    · exact h

@[simp] theorem Kept.recoveryExpired (h : Kept f s) : Kept f (recoveryExpired i s) := by
  unfold Machine.recoveryExpired
  split
  · next hc =>
    refine h.modEngine fun hl => ?_
    split
    · refine ⟨hl.queue, fun _ => hc.1, fun ha => ?_, fun _ o ho => ?_, hl.placed, fun o ho => ?_⟩
      · rw [show (s.engine i).link = .absent from ha] at hc; exact absurd hc.1 nofun
      · simp only [Engine.send, Option.some.injEq] at ho; rw [← ho]
      · simp only [Engine.send, Option.some.injEq] at ho; rw [← ho]; simp [Msg.placers]
    · exact ⟨hl.queue, fun _ => hc.1, hl.absent, hl.lost, hl.placed, hl.sent⟩
  · exact h

@[simp] theorem Kept.pollExpired (h : Kept f s) : Kept f (pollExpired i s) := by
  unfold Machine.pollExpired
  split
  · exact h.askProbe.modEngine Engine.Lawful.setPoll
  · exact h

end Sys2Proof.Machine
end

