-- ==== Sys2Proof/Laws/KeptEvents.lean ====
section
/-! SUPPORT. The intake, the loop of an event, and the acts of the commands keep what `Kept` says; what
an event makes of the update counts. -/

namespace Sys2Proof.Machine

variable {f : Fixed} {s : State} {i : SlotId}

/-! ### The intake -/

theorem Kept.setPointer {c : CellId} (h : Kept f s) :
    Kept { f with pointer := c } { s with pointer := c } := by
  obtain ⟨⟨h1, h2, h3, h4, h5, h6, h7, h8⟩, e⟩ := h
  refine ⟨⟨h1, h2, h3, h4, h5, h6, h7, h8⟩, ?_⟩
  rw [← e]; rfl

@[simp] theorem Kept.refuseIntake {c : CellId} {r : OrderRefusal} (h : Kept f s) :
    Kept f (refuseIntake c r s) := h.refuseCell

theorem Kept.queueSlotOrder {c : CellId} {k : OrderKind} (h : Kept f s)
    (hl : (s.slot i).orders.length < 4) : Kept f (queueSlotOrder c k i s) := by
  refine Kept.raise (Kept.setCell (h.modSlot (fun hx => ?_) rfl))
  exact ⟨hx.gen, by simp; omega, fun _ => by simp, hx.admissions, hx.minutes, hx.settle, hx.boot,
    hx.quiesce, hx.survey, hx.stamp, hx.blink⟩

theorem Kept.queueShelfOrder {c : CellId} {k : OrderKind} (h : Kept f s)
    (hl : s.alloc.shelf.length < 4) : Kept f (queueShelfOrder c k s) := by
  have hk : Kept f (((s.modAlloc fun a => { a with shelf := a.shelf ++ [⟨c, k, s.time⟩] }).setCell c
      .taken).touchShelf) :=
    (Kept.setCell (h.modAlloc fun ha => ⟨ha.granted, ha.capacity, by simp; omega⟩)).touchShelf
  unfold Machine.queueShelfOrder
  dsimp only
  split
  · exact hk.raise
  · exact hk

@[simp] theorem Kept.finishOwn {c : CellId} {o : OrderOutcome} (h : Kept f s) :
    Kept f (finishOwn c i o s) := h.finishCell

@[simp] theorem Kept.actCut {c : CellId} (h : Kept f s) : Kept f (actCut c i s) := by
  unfold Machine.actCut
  dsimp only
  split
  · exact h.removeEntry.changeState.finishAll.finishOwn
  · exact h.changeState.powerOff.isolateSlot.returnClaim.endOwn.finishAll.finishOwn

@[simp] theorem Kept.actCancel {c : CellId} (h : Kept f s) : Kept f (actCancel c i s) := by
  unfold Machine.actCancel
  split
  · exact h.removeEntry.changeState.finishActive.finishWaiting.finishOwn
  · exact h.finishWaiting.finishOwn

@[simp] theorem Kept.actHold {c : CellId} (h : Kept f s) : Kept f (actHold c i s) :=
  Kept.finishOwn (h.modSlot_core rfl)

@[simp] theorem Kept.actUnhold {c : CellId} (h : Kept f s) : Kept f (actUnhold c i s) := by
  unfold Machine.actUnhold
  split
  · exact Kept.finishOwn (Kept.handleTest (h.modSlot_core rfl))
  · exact h.finishOwn

@[simp] theorem Kept.actSetPolicy {c : CellId} (h : Kept f s) : Kept f (actSetPolicy c i s) :=
  Kept.finishOwn (Kept.handleTest (h.modSlot_core rfl))

/-- An order that passes the intake checks is handled with room on its list. -/
theorem Kept.handleKind {c : CellId} {k : OrderKind} (h : Kept f s) (hk : s.cellKind c = some k)
    (hr : intakeRefusal s c = none) : Kept f (handleKind c k s) := by
  unfold intakeRefusal at hr
  rw [hk] at hr
  dsimp only at hr
  unfold Machine.handleKind
  split at hr
  · cases hr
  · split at hr
    · cases hr
    · cases hc : s.cellSlot c with
      | none =>
        rw [hc] at hr
        dsimp only at hr
        have hl : s.alloc.shelf.length < 4 := by
          split at hr
          · cases hr
          · next hn => exact Nat.lt_of_not_le hn
        cases k with
        | setBudget | setTiming => exact h.queueShelfOrder hl
        | admitBlade | retire | survey | readIdentity | clearFault | cut | cancel | hold | unhold
        | setPolicy => exact h
      | some i =>
        rw [hc] at hr
        dsimp only at hr
        have hl : k.orderClass = .slotQueued → (s.slot i).orders.length < 4 := by
          intro hq
          unfold slotRefusal at hr
          rw [hq] at hr
          dsimp only at hr
          split at hr
          · cases hr
          · split at hr
            · cases hr
            · next hn => exact Nat.lt_of_not_le hn
        cases k with
        | admitBlade | retire | survey | readIdentity | clearFault => exact h.queueSlotOrder (hl rfl)
        | cut => exact h.onBehalf.actCut
        | cancel => exact h.onBehalf.actCancel
        | hold => exact h.onBehalf.actHold
        | unhold => exact h.onBehalf.actUnhold
        | setPolicy => exact h.onBehalf.actSetPolicy
        | setBudget | setTiming => exact h

theorem Kept.takeCell {c : CellId} (h : Kept f s) :
    Kept { f with pointer := c + 1 } (takeCell c s) := by
  have hk := h.setPointer (c := c + 1)
  unfold Machine.takeCell
  dsimp only
  split
  · exact hk.refuseIntake
  · next hr =>
    split
    · next k hkind => exact hk.handleKind hkind hr
    · exact hk

/-- A take moves the intake's pointer and keeps the rest (R36). -/
theorem Kept.takeKind {k : Option OrderKind} (h : Kept f s) :
    ∃ c, Kept { f with pointer := c } (takeKind k s) := by
  unfold Machine.takeKind
  split
  · split
    · exact ⟨_, h.takeCell⟩
    · exact ⟨f.pointer, h⟩
  · exact ⟨f.pointer, h⟩

/-! ### The loop of an event -/

theorem Kept.doJob {j : Job} (h : Kept f s) : Kept f (doJob j s) := by
  cases j with
  | start => exact h.startTest
  | handle => exact h.handleTest
  | examine => exact h.examine
  | serve => exact h.serveShelf
  | powerGood => exact h.powerGoodTaken
  | switchOpened => exact h.switchOpened

theorem Kept.doWork {w : Work} {ws : List Work} (h : Kept f s) : Kept f (doWork w ws s) := by
  have hj : Kept f (Machine.doJob w.job { s with work := [], broughtBy := w.broughtBy }) :=
    Kept.doJob h.setWork
  exact hj.noteRecords.setWork

theorem Kept.doLate {t : LateTest} {ts : List LateTest} (h : Kept f s) : Kept f (doLate t ts s) := by
  have hj : Kept f (Machine.portTest t.slot { s with late := ts, broughtBy := t.broughtBy }) :=
    Kept.portTest h.setWork
  exact hj.noteRecords

theorem Kept.drain : ∀ (n : Nat) {s : State}, Kept f s → Kept f (drain n s)
  | 0, _, h => h
  | n + 1, s, h => by
    unfold Machine.drain
    split
    · exact Kept.drain n h.doWork
    · split
      · exact Kept.drain n h.doLate
      · exact h

/-- The record writes keep the invariant. -/
theorem inv_closeEvent (h : Inv s) : Inv (closeEvent s) := by
  obtain ⟨h1, h2, h3, h4, h5, h6, h7, h8⟩ := h
  refine ⟨by simpa using h1, by simpa using h2, by simpa using h3, by simpa using h4, fun j => ?_,
    fun p => by simpa using h6 p, fun j => by simpa using h7 j, fun j => by simpa using h8 j⟩
  rw [closeEvent_slot]
  obtain ⟨a1, a2, a3, a4, a5, a6, a7, a8, a9, a10, a11⟩ := h5 j
  constructor <;> simpa

/-- An event whose act keeps what `Kept` says leaves the invariant and the fixed parts, and writes each
record it changed once (R2). -/
theorem Kept.event {act : State → State} (h : Kept f (act s)) :
    Inv (event act s) ∧ (event act s).pending = f.pending ∧ (event act s).time = f.time ∧
    (event act s).held = f.held ∧ (event act s).straps = f.straps ∧ (event act s).pins = f.pins ∧
    (event act s).pointer = f.pointer ∧ (event act s).port.run = f.run ∧
    ∀ j, ((event act s).slot j).upd = f.upd j + 1
      ∨ ((event act s).slot j).upd = f.upd j ∧ (event act s).recordView j = s.recordView j := by
  have hc := event_changed s act
  have hd := Kept.drain Config.workBound (h.noteRecords (old := s))
  have he := hd.fixed
  unfold Machine.event at hc ⊢
  refine ⟨inv_closeEvent hd.inv, ?_, ?_, ?_, ?_, ?_, ?_, ?_, ?_⟩
  rotate_left 7
  · intro j
    rw [closeEvent_slot, Slot.written_upd, ← he]
    by_cases hv : j ∈ (Machine.drain Config.workBound (Machine.noteRecords s (act s))).changed
    · exact Or.inl (by simp [hv, State.fixed])
    · exact Or.inr ⟨by simp [hv, State.fixed], not_not.1 (mt (hc j) hv)⟩
  all_goals simp [← he, State.fixed]

/-! ### The acts of the commands -/

@[simp] theorem Kept.contactTaken {c : Contact} {m : Bool} (h : Kept f s) :
    Kept f (contactTaken i c m s) :=
  Kept.presenceChange (h.modSlot_core (by cases c <;> rfl))

@[simp] theorem Kept.handleTaken {o : Bool} (h : Kept f s) : Kept f (handleTaken i o s) := by
  have hk : Kept f (s.modSlot i fun x => { x with handleOpen := o }) := h.modSlot_core rfl
  unfold Machine.handleTaken
  dsimp only
  split
  · exact hk
  · split
    · exact Kept.raise (Kept.handNotice (hk.modSlot_core rfl))
    · exact Kept.handNotice (hk.modSlot_core rfl)

@[simp] theorem Kept.settleExpired (h : Kept f s) : Kept f (settleExpired i s) := by
  unfold Machine.settleExpired
  split
  · exact h.changeStateOwn.enterSurveying (by simp [Slot.enter])
  · exact h

@[simp] theorem Kept.bootExpired (h : Kept f s) : Kept f (bootExpired i s) := by
  unfold Machine.bootExpired
  split
  · exact h.reportFault
  · exact h

@[simp] theorem Kept.quiesceExpired (h : Kept f s) : Kept f (quiesceExpired i s) := by
  unfold Machine.quiesceExpired
  split
  · exact h.quiesceEnd
  · exact h

@[simp] theorem Kept.blinkExpired (h : Kept f s) : Kept f (blinkExpired i s) := by
  unfold Machine.blinkExpired
  split
  · next b hb =>
    split
    · refine h.modSlot (fun hl => ?_) rfl
      have := hl.blink
      rw [hb] at this
      exact ⟨hl.gen, hl.orders, hl.active, hl.admissions, hl.minutes, hl.settle, hl.boot, hl.quiesce,
        hl.survey, hl.stamp, this⟩
    · exact h
  · exact h

@[simp] theorem Kept.waitExpired (h : Kept f s) : Kept f (waitExpired i s) := by
  unfold Machine.waitExpired
  split
  · exact h.removeEntry.changeStateOwn.finishActive.testNext
  · exact h

@[simp] theorem Kept.reexamExpired (h : Kept f s) : Kept f (reexamExpired s) := by
  unfold Machine.reexamExpired
  split
  · exact h.examine
  · exact h

@[simp] theorem Kept.feedTaken {x : Feed} {l : Bool} (h : Kept f s) : Kept f (feedTaken x l s) := by
  have hk : Kept f ((s.modAlloc (Allocator.setFeed x l)).touchShelf) :=
    Kept.touchShelf (h.modAlloc fun ha => by cases x <;> exact ⟨ha.granted, ha.capacity, ha.shelf⟩)
  unfold Machine.feedTaken
  dsimp only
  split
  · exact h
  · split
    · exact hk.handNotice.latch
    · exact hk.handNotice.latch.raise

@[simp] theorem Kept.rampLimitExpired (h : Kept f s) : Kept f (rampLimitExpired i s) := by
  unfold Machine.rampLimitExpired
  split
  · exact h.rampSlow
  · exact h

theorem due_isSome {now : Time} {d : Option Time} (h : due now d = true) : d.isSome = true := by
  cases d with
  | none => cases h
  | some => rfl

theorem Kept.resetHoldExpired (h : Kept f s) (hh : s.held = false) : Kept f (resetHoldExpired i s) := by
  unfold Machine.resetHoldExpired
  split
  · next hd =>
    exact h.modPower fun _ =>
      Power.Lawful.of_on ((hh ▸ h.inv.power i).on_of_hold (due_isSome hd))
  · exact h

@[simp] theorem Kept.deferralExpired (h : Kept f s) : Kept f (deferralExpired i s) := by
  unfold Machine.deferralExpired
  split
  · exact h.powerOff.raise
  · exact h

theorem Kept.minuteExpired (h : Kept f s) (hh : s.held = false) : Kept f (minuteExpired i s) := by
  unfold Machine.minuteExpired
  split
  · next hd =>
    have hon := (hh ▸ h.inv.power i).on_of_minute (due_isSome hd)
    exact (h.modPower fun _ => Power.Lawful.of_on hon).modSlot (fun hl =>
      ⟨hl.gen, hl.orders, hl.active, hl.admissions, Nat.min_le_left _ _, hl.settle, hl.boot,
        hl.quiesce, hl.survey, hl.stamp, hl.blink⟩) rfl
  · exact h

@[simp] theorem Kept.horizonExpired {r : RefKind} (h : Kept f s) : Kept f (horizonExpired i r s) := by
  unfold Machine.horizonExpired
  split <;> split <;> first
    | exact h.modPower fun hl => ⟨hl.reset, hl.limit, hl.hold, hl.minute⟩
    | exact h

@[simp] theorem Kept.historyAged (h : Kept f s) : Kept f (historyAged s) := by
  unfold Machine.historyAged
  dsimp only
  split
  · exact h
  · exact (h.setHistory (ageHistory_length h.inv.history)).touchShelf

@[simp] theorem Kept.offerExpired {p : PortId} (h : Kept f s) : Kept f (offerExpired p s) := by
  have hk : Kept f (s.modPort p fun x => { x.isolate with declined := true }) :=
    h.modPort Port.Lawful.decline
  unfold Machine.offerExpired
  dsimp only
  split
  · exact Kept.portNotice (Kept.ite (Kept.ite hk hk.endMessages).placePort (Kept.ite hk hk.endMessages))
  · exact h

@[simp] theorem Kept.abandon {l : List SlotId} (h : Kept f s) : Kept f (abandon l s) :=
  Kept.foldl (fun _ _ h => h.drainAbort) _ _
    (Kept.foldl (fun _ _ h => Kept.foldl (fun _ _ h => h.abortPort) _ _ h) _ _ h)

@[simp] theorem Kept.drainExpired {p : PortId} (h : Kept f s) : Kept f (drainExpired p s) := by
  unfold Machine.drainExpired
  dsimp only
  split
  · split
    · exact h.portNotice.abandon
    · exact h.portNotice.isolatePort.offerTest
  · exact h

@[simp] theorem Kept.pauseExpired (h : Kept f s) : Kept f (pauseExpired i s) := by
  unfold Machine.pauseExpired
  split
  · next p hp =>
    split
    · exact (h.setStamp (h.stamping hp)).askProbe
    · exact h
  · exact h

@[simp] theorem Kept.limitExpired (h : Kept f s) : Kept f (limitExpired i s) := by
  unfold Machine.limitExpired
  split
  · split
    · exact h.stampEnd
    · exact h
  · exact h

end Sys2Proof.Machine
end

