-- ==== Sys2Proof/Laws/KeptResets.lean ====
section
/-! SUPPORT. Power-on reset, the warm restart and the host's writes keep the invariant, and what they
make of the parts no follow-up work changes. -/

namespace Sys2Proof.Machine

variable {f : Fixed} {s : State} {i : SlotId}

/-! ### The warm restart -/

theorem Slot.Lawful.letGo {x : Slot} (h : x.Lawful) : x.letGo.Lawful :=
  ⟨h.gen, Nat.zero_le _, nofun, h.admissions, h.minutes, nofun, nofun, nofun, nofun, nofun, h.blink⟩

theorem Power.Lawful.restart {b : Bool} {p : Power} {now : Time} {st : SlotState} {good : Bool}
    (h : p.Lawful b) : (p.restart now st good).Lawful false := by
  have hr := h.reset
  unfold Power.restart Power.restartKeep
  dsimp only
  split
  · next hs =>
    simp only [Bool.not_eq_true'] at hs
    split <;> exact ⟨fun _ => hr hs, fun _ _ => rfl, fun _ _ => rfl, fun _ _ => rfl⟩
  · next hs =>
    simp only [Bool.not_eq_true, Bool.not_eq_false'] at hs
    split
    · split <;> exact Power.Lawful.of_on hs
    · exact Power.Lawful.of_on hs

theorem restartBlocks_slot (c : ResetCause) (s : State) (j : SlotId) :
    (restartBlocks c s).slot j = (s.slot j).letGo := by
  simp [restartBlocks, State.slot]

theorem restartBlocks_pwr (c : ResetCause) (s : State) (j : SlotId) : (restartBlocks c s).pwr j =
    (s.pwr j).restart s.time (s.slot j).state (s.pinsOf j).powerGood := by
  simp [restartBlocks, State.pwr]

/-- The blocks' own part of a warm restart keeps the invariant. -/
theorem inv_restartBlocks {c : ResetCause} (h : Inv s) : Inv (restartBlocks c s) where
  mem := h.mem
  journal := h.journal
  alloc := ⟨h.alloc.granted, h.alloc.capacity, Nat.zero_le _⟩
  history := ageHistory_length h.history
  slots j := by rw [restartBlocks_slot]; exact (h.slots j).letGo
  ports := h.ports
  power j := by rw [restartBlocks_pwr]; exact (h.power j).restart
  engines := h.engines

@[simp] theorem Kept.restartMove (h : Kept f s) : Kept f (restartMove s i) := by
  unfold Machine.restartMove
  split
  · exact h.changeState.clearBlade.clearDeclined
  · exact h.changeState
  all_goals first
    | exact h.changeState
    | exact h.modSlot_core rfl
    | exact h

@[simp] theorem Kept.rebuildPort {p : PortId} (h : Kept f s) : Kept f (rebuildPort s p) := by
  unfold Machine.rebuildPort
  dsimp only
  refine h.modPort fun hl => ?_
  generalize ((s.portOf p).gate && decide ((s.slot (nodeSlot p)).state = .resuming)
    && decide ((s.slot (hubSlot p)).state = .resuming)) = kept
  cases kept
  · exact ⟨hl.attempts, fun _ => ⟨rfl, rfl⟩, nofun, nofun, nofun, nofun, nofun⟩
  · exact ⟨hl.attempts, nofun, nofun, nofun, fun _ => ⟨rfl, rfl⟩, nofun, nofun⟩

@[simp] theorem Kept.restartLink (h : Kept f s) : Kept f (restartLink s i) := by
  have hk : Kept f (s.modEngine i (Engine.restart s.time (s.slot i).state)) := by
    exact h.modEngine fun _ => ⟨fun _ => rfl, fun hn => absurd rfl hn, fun _ => rfl,
      (fun _ _ ho => by cases ho), nofun, fun _ ho => by cases ho⟩
  unfold Machine.restartLink
  dsimp only
  split
  · exact hk.alertTest
  · exact hk

@[simp] theorem Kept.restartCheck (h : Kept f s) : Kept f (restartCheck s i) := by
  unfold Machine.restartCheck
  split
  · split
    · exact h.askProbe
    · exact h.handResumed.raiseFault
  · exact h

@[simp] theorem Kept.restartSurvey (h : Kept f s) : Kept f (restartSurvey s i) := by
  unfold Machine.restartSurvey
  split
  · next hs =>
    exact Kept.surveyBegin (h.modSlot_core rfl) (by simpa [Slot.clearIdentity] using hs)
  · exact h

@[simp] theorem Kept.restartSample (h : Kept f s) : Kept f (restartSample s i) := by
  unfold Machine.restartSample
  split
  · exact h.firstSample
  · exact h

@[simp] theorem Kept.abandonSlot {v : Vector (List OrderEntry) 16} (h : Kept f s) :
    Kept f (abandonSlot v s i) := h.finishEntries

@[simp] theorem Kept.abandonShelf : ∀ {l : List OrderEntry} {s : State}, Kept f s →
    Kept f (abandonShelf l s)
  | [], _, h => h
  | _ :: l, _, h => Kept.abandonShelf (l := l) h.finishShelfCell

/-- A warm restart keeps the invariant and shows what its blocks' own part shows. -/
theorem kept_warmRestart {c : ResetCause} (h : Inv s) :
    Kept (restartBlocks c s).fixed (warmRestart c s) := by
  have h0 := Kept.refl (inv_restartBlocks (c := c) h)
  unfold warmRestart
  dsimp only
  refine Kept.foldl (fun _ _ h => h.restartSample) _ _ ?_
  refine Kept.foldl (fun _ _ h => h.restartSurvey) _ _ ?_
  refine Kept.foldl (fun _ _ h => h.restartCheck) _ _ ?_
  refine Kept.foldl (fun _ _ h => h.restartLink) _ _ ?_
  refine Kept.abandonShelf ?_
  refine Kept.foldl (fun _ _ h => h.abandonSlot) _ _ ?_
  refine Kept.foldl (fun _ _ h => h.rebuildPort) _ _ ?_
  exact Kept.foldl (fun _ _ h => h.restartMove) _ _ h0

/-! ### Power-on reset -/

theorem powerOn_slot (b : BoardInputs) (j : SlotId) : (State.powerOn b).slot j =
    Slot.powerOn b.straps b.resetAsserted (b.slots[j]) := by
  simp [State.powerOn, State.slot]

/-- The state after the initialization of power-on reset has the invariant, with any queue. -/
theorem inv_powerOn (b : BoardInputs) (q : List Instr) :
    Inv { State.powerOn b with pending := q } where
  mem := rfl
  journal := show Journal.powerOn.Lawful from ⟨by decide, by decide⟩
  alloc := ⟨by simp [State.powerOn, Allocator.powerOn], Nat.zero_le _, Nat.zero_le _⟩
  history := Nat.zero_le _
  slots j := by
    show ((State.powerOn b).slot j).Lawful
    rw [powerOn_slot]
    exact ⟨show (1 : Word16) ≠ 0 by decide, Nat.zero_le _, nofun, Nat.zero_le _, Nat.zero_le _, nofun,
      nofun, nofun, nofun, nofun, rfl⟩
  ports p := by
    have h : ({ State.powerOn b with pending := q } : State).portOf p = Port.powerOn := by
      simp [State.powerOn, State.portOf]
    rw [h]
    exact ⟨Nat.zero_le _, fun _ => ⟨rfl, rfl⟩, nofun, nofun, nofun, nofun, nofun⟩
  power j := by
    have h : ({ State.powerOn b with pending := q } : State).pwr j = Power.powerOn := by
      simp [State.powerOn, State.pwr]
    rw [h]
    exact ⟨fun _ => rfl, fun _ _ => rfl, fun _ _ => rfl, fun _ _ => rfl⟩
  engines j := by
    have h : ({ State.powerOn b with pending := q } : State).engine j = Engine.powerOn := by
      simp [State.powerOn, State.engine]
    rw [h]
    exact ⟨fun _ => rfl, nofun, fun _ => rfl, nofun, nofun, nofun⟩

@[simp] theorem Kept.powerOnSamples (h : Kept f s) : Kept f (powerOnSamples s) := by
  unfold Machine.powerOnSamples
  split
  · exact h
  · exact Kept.foldl (fun _ _ h => h.presenceChange) _ _ h

/-! ### The host's writes and the inputs -/

/-- `t` has the invariant and shows what `s` shows outside the host's registers. -/
structure Written (s t : State) : Prop where
  inv : Inv t
  pending : t.pending = s.pending
  time : t.time = s.time
  straps : t.straps = s.straps
  pins : t.pins = s.pins
  upd : ∀ i, (t.slot i).upd = (s.slot i).upd

theorem Written.of_kept {t : State} (h : Kept f t) (h1 : f.pending = s.pending) (h2 : f.time = s.time)
    (h3 : f.straps = s.straps) (h4 : f.pins = s.pins) (h5 : ∀ i, f.upd i = (s.slot i).upd) :
    Written s t := by
  have e := h.fixed
  exact ⟨h.inv, by rw [← h1, ← e]; rfl, by rw [← h2, ← e]; rfl, by rw [← h3, ← e]; rfl,
    by rw [← h4, ← e]; rfl, fun i => by rw [← h5 i, ← e]; rfl⟩

theorem Written.of_kept_self {t : State} (h : Kept s.fixed t) : Written s t :=
  Written.of_kept h rfl rfl rfl rfl fun _ => rfl

theorem written_warmRestart {c : ResetCause} (h : Inv s) : Written s (warmRestart c s) :=
  Written.of_kept (kept_warmRestart h) rfl rfl rfl rfl fun i => by
    show ((restartBlocks c s).slot i).upd = _
    rw [restartBlocks_slot]; rfl

theorem written_updatePort {g : MgmtPort → MgmtPort} (h : Inv s) : Written s (s.updatePort g) := by
  obtain ⟨h1, h2, h3, h4, h5, h6, h7, h8⟩ := h
  exact ⟨⟨h1, h2, h3, h4, h5, h6, h7, h8⟩, rfl, rfl, rfl, rfl, fun _ => rfl⟩

theorem Written.trans {t u : State} (h : Written s t) (k : Written t u) : Written s u :=
  ⟨k.inv, k.pending.trans h.pending, k.time.trans h.time, k.straps.trans h.straps,
    k.pins.trans h.pins, fun i => (k.upd i).trans (h.upd i)⟩

theorem Written.refl (h : Inv s) : Written s s := ⟨h, rfl, rfl, rfl, rfl, fun _ => rfl⟩

theorem written_roomTest (h : Inv s) : Written s (roomTest s) :=
  Written.of_kept_self (Kept.refl h).roomTest

theorem wf_storeWord {m : List Host.Cell} {a : Nat} {v : Word} {e : BitVec 4}
    (h : Memory.wf m = true) : Memory.wf (storeWord m a v e) = true := by
  have put : ∀ (m : List Host.Cell) (k : Nat), Memory.wf m = true →
      Memory.wf (if e.getLsbD k then Memory.write m (a + k) ((v >>> (8 * k)).setWidth 8) else m)
        = true := by
    intro m k hm
    split
    · exact Memory.wf_write _ _ _ hm
    · exact hm
  exact put _ 3 (put _ 2 (put _ 1 (put _ 0 h)))

/-- A stored read count keeps the journal lawful (R164, R181). -/
theorem Journal.Lawful.setRead {j : Journal} {r : Word16} (h : j.Lawful)
    (hr : (r - j.readCount).toNat ≤ (j.writeCount - j.readCount).toNat) :
    ({ j with readCount := r } : Journal).Lawful := by
  have h1 := h.unread
  refine ⟨?_, h.gap⟩
  show (j.writeCount - r).toNat ≤ 128
  bv_omega

theorem written_writeWord (a : Nat) (v : Word) (e : BitVec 4) (h : Inv s) :
    Written s (writeWord a v e s) := by
  have hr : Written s (refuseWrite s) := Written.of_kept_self (Kept.refl h).latch
  unfold writeWord
  split
  · exact Written.refl h
  · split
    · dsimp only
      split
      · unfold writeStateWord
        split
        · split
          · exact Written.of_kept_self (Kept.refl h).setCell
          · exact hr
        · exact Written.refl h
      · unfold writeBodyWord
        split
        · exact Written.of_kept_self ((Kept.refl h).setMem (wf_storeWord h.mem))
        · exact hr
    · split
      · unfold writeCountWord
        split
        · exact hr
        · exact Written.refl h
      · split
        · unfold writeReadCount
          dsimp only
          split
          · next hc =>
            split
            · exact Written.refl h
            · have hk : Kept s.fixed { s with journal := { s.journal with
                  readCount := (mergeWord (s.journal.readCount.setWidth 32) v e).setWidth 16 } } :=
                (Kept.refl h).setJournal (r := s.shelfRevision) (h.journal.setRead hc)
              exact Written.of_kept_self hk.roomTest
          · exact hr
        · split
          · unfold writeControl
            dsimp only
            split
            · exact written_warmRestart h
            · unfold storeControl
              dsimp only
              split
              · exact (written_updatePort h).trans (written_roomTest (written_updatePort h).inv)
              · exact written_updatePort h
          · split
            · unfold writeAttention
              dsimp only
              generalize (if e.getLsbD 0 then v.setWidth 6 else (0 : BitVec 6)) = bits
              split
              · exact (written_updatePort h).trans (written_updatePort (written_updatePort h).inv)
              · exact written_updatePort h
            · split
              · unfold writeEnable
                split
                · exact written_updatePort h
                · exact Written.refl h
              · exact hr

theorem written_changeMessageEnable {b : Bool} (h : Inv s) : Written s (changeMessageEnable b s) := by
  obtain ⟨h1, h2, h3, h4, h5, h6, h7, h8⟩ := h
  exact ⟨⟨h1, h2, h3, h4, h5, h6, h7, h8⟩, rfl, rfl, rfl, rfl, fun _ => rfl⟩

/-- The raw inputs of a slot are under no law. -/
theorem inv_modPins {g : SlotPins → SlotPins} (h : Inv s) : Inv (s.modPins i g) := by
  obtain ⟨h1, h2, h3, h4, h5, h6, h7, h8⟩ := h
  exact ⟨h1, h2, h3, h4, h5, h6, h7, h8⟩

theorem inv_measureFeed {x : Feed} {b : Bool} (h : Inv s) : Inv (s.measureFeed x b) := by
  obtain ⟨h1, h2, h3, h4, h5, h6, h7, h8⟩ := h
  cases x <;> exact ⟨h1, h2, h3, h4, h5, h6, h7, h8⟩

theorem inv_modTimes {g : InputTimes → InputTimes} (h : Inv s) : Inv (s.modTimes i g) := by
  obtain ⟨h1, h2, h3, h4, h5, h6, h7, h8⟩ := h
  exact ⟨h1, h2, h3, h4, h5, h6, h7, h8⟩

/-- A raw level that has not held yet keeps the invariant: a contact's, the handle's, a feed's. -/
theorem inv_rawContact {c : Contact} {b : Bool} (h : Inv s) : Inv (rawContact i c b s) := by
  unfold rawContact
  split
  · exact h
  · exact inv_modTimes (inv_modPins h)

theorem inv_rawHandle {b : Bool} (h : Inv s) : Inv (rawHandle i b s) := by
  unfold rawHandle
  split
  · exact h
  · exact inv_modTimes (inv_modPins h)

theorem inv_rawFeed {x : Feed} {b : Bool} (h : Inv s) : Inv (rawFeed x b s) := by
  obtain ⟨h1, h2, h3, h4, h5, h6, h7, h8⟩ := h
  cases x <;> unfold rawFeed <;> dsimp only <;> split <;> exact ⟨h1, h2, h3, h4, h5, h6, h7, h8⟩

/-- The queue of commands and the shelf time are under no law. -/
theorem inv_queue {q : List Instr} {t : Time} (h : Inv s) :
    Inv { s with pending := q, time := t } := by
  obtain ⟨h1, h2, h3, h4, h5, h6, h7, h8⟩ := h
  exact ⟨h1, h2, h3, h4, h5, h6, h7, h8⟩

/-- The level of the RESET line is under no law. -/
theorem inv_resetLine {r : Option Time} (h : Inv s) : Inv { s with resetLine := r } := by
  obtain ⟨h1, h2, h3, h4, h5, h6, h7, h8⟩ := h
  exact ⟨h1, h2, h3, h4, h5, h6, h7, h8⟩

/-- The take of the RESET line changes nothing but the hold (R193). -/
theorem takeResetLine_eq (s : State) : takeResetLine s = { s with
    held := s.held || due s.time (s.resetLine.map fun since => after since Config.resetTake) } := by
  unfold takeResetLine
  split <;> simp_all

/-- The take of the RESET line's assertion keeps the invariant. -/
theorem inv_takeResetLine (h : Inv s) : Inv (takeResetLine s) := by
  obtain ⟨h1, h2, h3, h4, h5, h6, h7, h8⟩ := h
  unfold takeResetLine
  split
  · exact ⟨h1, h2, h3, h4, h5, h6, fun j => ⟨(h7 j).reset, nofun, nofun, nofun⟩, h8⟩
  · exact ⟨h1, h2, h3, h4, h5, h6, h7, h8⟩

/-- One millisecond keeps the invariant. -/
theorem inv_tick (h : Inv s) : Inv (tick s) :=
  inv_queue (t := (takeResetLine { s with time := s.time + 1 }).time)
    (inv_takeResetLine (inv_queue (q := s.pending) h))

/-! ### Acts that the hold of the RESET line stops -/

theorem Kept.unlessHeld {act : State → State} (h : Kept f s)
    (ha : s.held = false → Kept f (act s)) : Kept f (unlessHeld act s) := by
  unfold Machine.unlessHeld
  split
  · exact h
  · next hh => exact ha (by simpa using hh)

end Sys2Proof.Machine
end

