-- ==== Sys2Proof/Laws/Commands.lean ====
section
/-! SUPPORT. The invariant through one event, by the shape a command's meaning has: a live event, a
host write, a take of the intake. -/

namespace Sys2Proof.Machine

/-- A live event keeps the invariant when its act does while the RESET line is not held. -/
theorem inv_liveEvent {act : State → State} {s : State} (h : Inv s)
    (ha : ∀ f s, Kept f s → s.held = false → Kept f (act s)) : Inv (liveEvent act s) :=
  ((Kept.refl h).unlessHeld (ha _ _ (Kept.refl h))).event.1

/-- A live event keeps the invariant when its act does in any state. -/
theorem inv_liveEvent_of {act : State → State} {s : State} (h : Inv s)
    (ha : ∀ f s, Kept f s → Kept f (act s)) : Inv (liveEvent act s) :=
  inv_liveEvent h fun f s hk _ => ha f s hk

/-- A host write of one word keeps the invariant. -/
theorem inv_hostWrite {a : Nat} {v : Word} {e : BitVec 4} {s : State} (h : Inv s) :
    Inv (event (writeWord a v e) s) :=
  (Kept.refl (written_writeWord a v e h).inv).event.1

/-- A host write request keeps the invariant. -/
theorem inv_request {words : List WordWrite} {s : State} (h : Inv s) : Inv (writeRequest words s) := by
  unfold writeRequest
  exact List.foldlRecOn _ _ h fun _ ht _ _ => inv_hostWrite ht

/-- A take of the intake keeps the invariant. -/
theorem inv_take {k : Option OrderKind} {s : State} (h : Inv s) : Inv (liveEvent (takeKind k) s) := by
  unfold liveEvent unlessHeld
  by_cases hh : s.held
  · simp only [event, hh, if_true]
    exact (show Inv (event (fun s => s) s) from ((Kept.refl h).event (act := fun s => s)).1)
  · obtain ⟨c, hc⟩ := (Kept.refl h).takeKind (k := k)
    have := hc.event.1
    simpa [event, hh] using this

end Sys2Proof.Machine
end

