-- ==== Sys2Proof/Laws/HostPort.lean ====
section
/-! SUPPORT. The words of host writes: what a partial write leaves, where a write of a cell goes, and the
order of the words of one request. -/

namespace Sys2Proof.Machine

/-- Bit m of a byte of ones. -/
theorem ones_bit (m : Nat) : (0xFF#32).getLsbD m = decide (m < 8) := by
  by_cases hm : m < 32
  · have : ∀ m : Fin 32, (0xFF#32).getLsbD m = decide (m.val < 8) := by decide
    exact this ⟨m, hm⟩
  · rw [BitVec.getLsbD_of_ge _ _ (by omega)]
    have : ¬ m < 8 := by omega
    simp [this]

/-- One byte of a word, cut out by its mask. -/
theorem bytePart_bit (x : Word) (j k : Nat) (hk : k < 32) :
    (x &&& (0xFF#32 <<< (8 * j))).getLsbD k = (x.getLsbD k && decide (k / 8 = j)) := by
  rw [BitVec.getLsbD_and, BitVec.getLsbD_shiftLeft, ones_bit]
  congr 1
  by_cases h1 : k < 8 * j
  · have h2 : ¬ k / 8 = j := by omega
    simp [h1, h2]
  · by_cases h2 : k / 8 = j
    · have h3 : k - 8 * j < 8 := by omega
      simp [hk, h1, h2, h3]
    · have h3 : ¬ k - 8 * j < 8 := by omega
      simp [h2, h3]

/-- Each bit of the word a write leaves, by the enable of its byte (R175). -/
theorem mergeWord_bit (old new : Word) (e : BitVec 4) (k : Nat) (hk : k < 32) :
    (mergeWord old new e).getLsbD k =
      if e.getLsbD (k / 8) then new.getLsbD k else old.getLsbD k := by
  simp only [mergeWord, BitVec.getLsbD_or, bytePart_bit _ _ _ hk]
  have : k / 8 = 0 ∨ k / 8 = 1 ∨ k / 8 = 2 ∨ k / 8 = 3 := by omega
  rcases this with h | h | h | h <;> simp [h] <;> split <;> rfl

/-- A write with every byte enabled leaves the word written. -/
theorem mergeWord_all (old new : Word) : mergeWord old new 0xF = new := by
  apply BitVec.eq_of_getLsbD_eq
  intro k hk
  have h : ∀ j : Nat, j < 4 → BitVec.getLsbD (0xF : BitVec 4) j = true := by decide
  rw [mergeWord_bit _ _ _ k hk, h _ (by omega), if_pos rfl]

/-- A host write of word w of cell c reaches its state word or its body (R176). -/
theorem writeWord_cell {s : State} (h : s.held = false) (c : CellId) (w : Nat) (hw : w < 32) (v : Word)
    (e : BitVec 4) : writeWord (cellOffset c + 4 * w) v e s =
      if w = 0 then writeStateWord c v e s
      else writeBodyWord c (cellOffset c + 4 * w) v e s := by
  have hl := c.isLt
  have h1 : ¬ (0x8000 ≤ cellOffset c + 4 * w) := by unfold cellOffset; omega
  have h2 : 0x400 ≤ cellOffset c + 4 * w ∧ cellOffset c + 4 * w < 0x1400 := by
    unfold cellOffset; omega
  have h3 : ((cellOffset c + 4 * w - 0x400) % 128 = 0) = (w = 0) := by
    unfold cellOffset; simp; omega
  have h4 : Fin.ofNat 32 ((cellOffset c + 4 * w - 0x400) / 128) = c := by
    apply Fin.ext; simp [cellOffset]; omega
  unfold writeWord
  rw [h, if_neg (by simpa using h1), if_pos h2]
  simp only [h3, h4]

/-- The byte of a cell body that a host write of one word leaves at any offset. -/
theorem read_storeWord {m : List Host.Cell} (hm : Memory.wf m = true) (a : Nat) (v : Word)
    (e : BitVec 4) (x : Nat) : Memory.read (storeWord m a v e) x =
      if a ≤ x ∧ x < a + 4 ∧ e.getLsbD (x - a) = true then (v >>> (8 * (x - a))).setWidth 8
      else Memory.read m x := by
  have put : ∀ (m : List Host.Cell) (k : Nat), Memory.wf m = true →
      Memory.read (if e.getLsbD k then Memory.write m (a + k) ((v >>> (8 * k)).setWidth 8) else m) x
        = if x = a + k ∧ e.getLsbD k = true then (v >>> (8 * k)).setWidth 8 else Memory.read m x := by
    intro m k hm
    by_cases he : e.getLsbD k = true
    · simp [he, Memory.read_write m _ _ x hm]
    · simp [he]
  have keep : ∀ (m : List Host.Cell) (k : Nat), Memory.wf m = true →
      Memory.wf (if e.getLsbD k then Memory.write m (a + k) ((v >>> (8 * k)).setWidth 8) else m)
        = true := by
    intro m k hm
    split
    · exact Memory.wf_write _ _ _ hm
    · exact hm
  unfold storeWord
  dsimp only
  rw [put _ 3 (keep _ 2 (keep _ 1 (keep _ 0 hm))), put _ 2 (keep _ 1 (keep _ 0 hm)),
    put _ 1 (keep _ 0 hm), put _ 0 hm]
  have hx : x < a ∨ x = a ∨ x = a + 1 ∨ x = a + 2 ∨ x = a + 3 ∨ a + 4 ≤ x := by omega
  rcases hx with h | h | h | h | h | h
  · split_ifs <;> first | omega | rfl
  · subst h; simp
  · subst h; simp
  · subst h; simp
  · subst h; simp
  · split_ifs <;> first | omega | rfl

/-! ### The order of the words of one request (R175) -/

/-- A request of one word is one event. -/
@[simp] theorem writeRequest_one (w : WordWrite) (s : State) :
    writeRequest [w] s = event (writeWord w.addr w.data.value w.data.enable) s := rfl

theorem wordBefore_trans {u v w : WordWrite} (h1 : wordBefore u v = true) (h2 : wordBefore v w = true) :
    wordBefore u w = true := by
  unfold wordBefore at *
  cases hu : isStateWord u <;> cases hv : isStateWord v <;> cases hw : isStateWord w <;>
    simp_all <;> omega

theorem wordBefore_of_not {u v : WordWrite} (h : ¬ wordBefore u v = true) : wordBefore v u = true := by
  unfold wordBefore at *
  cases hu : isStateWord u <;> cases hv : isStateWord v <;> simp_all <;> omega

theorem insertWord_perm (w : WordWrite) : ∀ l, (insertWord w l).Perm (w :: l)
  | [] => .refl _
  | v :: vs => by
    unfold insertWord
    split
    · exact .refl _
    · exact ((insertWord_perm w vs).cons v).trans (.swap w v vs)

theorem insertWord_ordered (w : WordWrite) : ∀ l, l.Pairwise (fun u v => wordBefore u v = true) →
    (insertWord w l).Pairwise fun u v => wordBefore u v = true
  | [], _ => by simp [insertWord]
  | v :: vs, h => by
    have hv := List.pairwise_cons.mp h
    unfold insertWord
    split
    · next hw =>
      refine List.pairwise_cons.mpr ⟨fun u hu => ?_, h⟩
      rcases List.mem_cons.mp hu with rfl | hu
      · exact hw
      · exact wordBefore_trans hw (hv.1 u hu)
    · next hw =>
      refine List.pairwise_cons.mpr ⟨fun u hu => ?_, insertWord_ordered w vs hv.2⟩
      rcases List.mem_cons.mp ((insertWord_perm w vs).mem_iff.mp hu) with rfl | hu
      · exact wordBefore_of_not hw
      · exact hv.1 u hu

/-- Every word of a request is applied, each once. -/
theorem requestOrder_perm : ∀ ws, (requestOrder ws).Perm ws
  | [] => .refl _
  | w :: ws => (insertWord_perm w _).trans ((requestOrder_perm ws).cons w)

/-- The words are applied ascending by address, those that hold a cell's state field last (R175). -/
theorem requestOrder_ordered : ∀ ws,
    (requestOrder ws).Pairwise fun u v => wordBefore u v = true
  | [] => .nil
  | w :: ws => insertWord_ordered w _ (requestOrder_ordered ws)

end Sys2Proof.Machine
end

