-- ==== Sys2Proof/Laws/PerInstr.lean ====
section
/-! SUPPORT. One family of laws about every command as syntax: the word that the row of a host write
names is a word of the window, below 0x8000 and at a multiple of four, by the checks on the row's operands
alone (R175, R176, R188). -/

namespace Sys2Proof.Laws.Addressing

/-- The word that the row of a host write names is a word of the window. -/
def Statement (i : Instr) : Prop :=
  ∀ a, i.hostAddresses.head? = some a → i.operandsWellFormed = true → a % 4 = 0 ∧ a < 0x8000

/-- A command that is no host write addresses nothing. -/
theorem of_none {i : Instr} (h : i.hostAddresses.head? = none) : Statement i := by
  intro a ha
  rw [h] at ha
  cases ha

/-- A host write at `b` is lawful when `b` is, given the checks on its operands. -/
theorem of_some {i : Instr} {b : Nat} (h : i.hostAddresses.head? = some b)
    (hb : i.operandsWellFormed = true → b % 4 = 0 ∧ b < 0x8000) : Statement i := by
  intro a ha hw
  rw [h] at ha
  cases ha
  exact hb hw

/-- The first word of a cell. -/
theorem cell_word (c : CellId) : cellOffset c % 4 = 0 ∧ cellOffset c < 0x8000 := by
  have := c.isLt
  unfold cellOffset
  omega

theorem powerOnReset (board : BoardInputs) : Statement (.powerOnReset board) := of_none rfl

theorem resetLineAssert : Statement (.resetLineAssert) := of_none rfl

theorem resetLineRelease : Statement (.resetLineRelease) := of_none rfl

theorem restart : Statement (.restart) := of_some rfl fun _ => by decide

theorem cellPost (cell : CellId) : Statement (.cellPost cell) :=
  of_some rfl fun _ => cell_word cell

theorem cellWithdraw (cell : CellId) : Statement (.cellWithdraw cell) :=
  of_some rfl fun _ => cell_word cell

theorem cellReturn (cell : CellId) : Statement (.cellReturn cell) :=
  of_some rfl fun _ => cell_word cell

theorem cellBodyWrite (cell : CellId) (word : Nat) (data : WordData) (more : List WordWrite) :
    Statement (.cellBodyWrite cell word data more) :=
  of_some rfl fun h => by
  have := cell.isLt
  simp only [Instr.operandsWellFormed, Bool.and_eq_true, decide_eq_true_eq] at h
  unfold cellOffset
  omega

theorem readCountWrite (data : WordData) (more : List WordWrite) :
    Statement (.readCountWrite data more) :=
  of_some rfl fun _ => by decide

theorem shelfAreaWriteRefused (addr : Nat) (data : WordData) (more : List WordWrite) :
    Statement (.shelfAreaWriteRefused addr data more) :=
  of_some rfl fun h => by
  simp only [Instr.operandsWellFormed, Bool.and_eq_true, decide_eq_true_eq] at h
  omega

theorem runSet (noticeEnable : Bool) : Statement (.runSet noticeEnable) :=
  of_some rfl fun _ => by decide

theorem runClear (noticeEnable : Bool) : Statement (.runClear noticeEnable) :=
  of_some rfl fun _ => by decide

theorem noticeEnableWrite (noticeEnable : Bool) : Statement (.noticeEnableWrite noticeEnable) :=
  of_some rfl fun _ => by decide

theorem attentionClear (data : WordData) (more : List WordWrite) :
    Statement (.attentionClear data more) :=
  of_some rfl fun _ => by decide

theorem attentionEnableWrite (data : WordData) (more : List WordWrite) :
    Statement (.attentionEnableWrite data more) :=
  of_some rfl fun _ => by decide

theorem registerWriteRefused (addr : Nat) (data : WordData) (more : List WordWrite) :
    Statement (.registerWriteRefused addr data more) :=
  of_some rfl fun h => by
  simp only [Instr.operandsWellFormed, Bool.and_eq_true, Bool.or_eq_true, decide_eq_true_eq] at h
  omega

theorem messageEnableChange (enabled : Bool) : Statement (.messageEnableChange enabled) :=
  of_none rfl

theorem admitBlade : Statement (.admitBlade) := of_none rfl

theorem retire : Statement (.retire) := of_none rfl

theorem survey : Statement (.survey) := of_none rfl

theorem readIdentity : Statement (.readIdentity) := of_none rfl

theorem clearFault : Statement (.clearFault) := of_none rfl

theorem cut : Statement (.cut) := of_none rfl

theorem cancel : Statement (.cancel) := of_none rfl

theorem hold : Statement (.hold) := of_none rfl

theorem unhold : Statement (.unhold) := of_none rfl

theorem setPolicy : Statement (.setPolicy) := of_none rfl

theorem setBudget : Statement (.setBudget) := of_none rfl

theorem setTiming : Statement (.setTiming) := of_none rfl

theorem badKindTake : Statement (.badKindTake) := of_none rfl

theorem contactDebounce (slot : SlotId) (contact : Contact) (input : RawInput)
    : Statement (.contactDebounce slot contact input) :=
  of_none rfl

theorem handleDebounce (slot : SlotId) (input : RawInput)
    : Statement (.handleDebounce slot input) :=
  of_none rfl

theorem settleExpiry (slot : SlotId) : Statement (.settleExpiry slot) := of_none rfl

theorem waitDeadlineExpiry (slot : SlotId) : Statement (.waitDeadlineExpiry slot) := of_none rfl

theorem reexaminationExpiry : Statement (.reexaminationExpiry) := of_none rfl

theorem feedDebounce (feed : Feed) (input : RawInput) : Statement (.feedDebounce feed input) :=
  of_none rfl

theorem powerGood (slot : SlotId) : Statement (.powerGood slot) := of_none rfl

theorem rampLimitExpiry (slot : SlotId) : Statement (.rampLimitExpiry slot) := of_none rfl

theorem trip (slot : SlotId) : Statement (.trip slot) := of_none rfl

theorem powerGoodLoss (slot : SlotId) : Statement (.powerGoodLoss slot) := of_none rfl

theorem resetHoldExpiry (slot : SlotId) : Statement (.resetHoldExpiry slot) := of_none rfl

theorem deferralExpiry (slot : SlotId) : Statement (.deferralExpiry slot) := of_none rfl

theorem minuteExpiry (slot : SlotId) : Statement (.minuteExpiry slot) := of_none rfl

theorem horizonExpiry (slot : SlotId) (ref : RefKind) : Statement (.horizonExpiry slot ref) :=
  of_none rfl

theorem historyEntryAge : Statement (.historyEntryAge) := of_none rfl

theorem bootLimitExpiry (slot : SlotId) : Statement (.bootLimitExpiry slot) := of_none rfl

theorem quiesceDeadlineExpiry (slot : SlotId) : Statement (.quiesceDeadlineExpiry slot) :=
  of_none rfl

theorem offerDeadlineExpiry (port : PortId) : Statement (.offerDeadlineExpiry port) := of_none rfl

theorem drainDeadlineExpiry (port : PortId) : Statement (.drainDeadlineExpiry port) := of_none rfl

theorem frameArrival (slot : SlotId) (frame : List Byte) : Statement (.frameArrival slot frame) :=
  of_none rfl

theorem replyDeadlineExpiry (slot : SlotId) : Statement (.replyDeadlineExpiry slot) := of_none rfl

theorem notBeforeExpiry (slot : SlotId) : Statement (.notBeforeExpiry slot) := of_none rfl

theorem pollDeadlineExpiry (slot : SlotId) : Statement (.pollDeadlineExpiry slot) := of_none rfl

theorem alert (slot : SlotId) (asserted : Bool) : Statement (.alert slot asserted) := of_none rfl

theorem recoveryDeadlineExpiry (slot : SlotId) : Statement (.recoveryDeadlineExpiry slot) :=
  of_none rfl

theorem probePauseExpiry (slot : SlotId) : Statement (.probePauseExpiry slot) := of_none rfl

theorem programLimitExpiry (slot : SlotId) : Statement (.programLimitExpiry slot) := of_none rfl

theorem indicatorBlinkPhase (slot : SlotId) : Statement (.indicatorBlinkPhase slot) := of_none rfl

end Sys2Proof.Laws.Addressing
end

