-- ==== Sys2Proof/Laws/Records.lean ====
section
/-! SUPPORT. Where the structures of 11_formats.md stand in the Shelf Area: one lemma for each region of
`State.areaByte`, and how the bytes of a list that `State.Shows` speaks of fall to its parts. -/

namespace Sys2Proof.Machine

/-! ### Bytes of a list -/

theorem byteAt_append_left {xs : List Byte} {k : Nat} (h : k < xs.length) (ys : List Byte) :
    byteAt (xs ++ ys) k = byteAt xs k := by
  simp [byteAt, List.getD_eq_getElem?_getD, List.getElem?_append_left h]

theorem byteAt_append_right {xs : List Byte} {k : Nat} (h : xs.length ≤ k) (ys : List Byte) :
    byteAt (xs ++ ys) k = byteAt ys (k - xs.length) := by
  simp [byteAt, List.getD_eq_getElem?_getD, List.getElem?_append_right h]

/-- A part of a list that stands in the Shelf Area stands in its place. -/
theorem shows_part {s : State} {a : Nat} {bs : List Byte} (h : s.Shows a bs) (n : Nat) (part : List Byte)
    (hn : n + part.length ≤ bs.length) (hp : ∀ k, k < part.length → byteAt part k = byteAt bs (n + k)) :
    s.Shows (a + n) part := fun k hk => by
  rw [Nat.add_assoc, h (n + k) (by omega), hp k hk]

/-- Two lists stand one after the other exactly when each stands in its place. -/
theorem shows_append (s : State) (a : Nat) (xs ys : List Byte) :
    s.Shows a (xs ++ ys) ↔ s.Shows a xs ∧ s.Shows (a + xs.length) ys := by
  have hl := List.length_append (as := xs) (bs := ys)
  refine ⟨fun h => ⟨?_, shows_part h _ _ hl.ge fun k _ => ?_⟩, fun ⟨hx, hy⟩ k hk => ?_⟩
  · exact shows_part h 0 xs (by omega) fun k hk => by rw [Nat.zero_add, byteAt_append_left hk]
  · rw [byteAt_append_right (Nat.le_add_right ..), Nat.add_sub_cancel_left]
  · rcases Nat.lt_or_ge k xs.length with hlt | hge
    · exact byteAt_append_left hlt ys ▸ hx k hlt
    · obtain ⟨m, rfl⟩ := Nat.exists_eq_add_of_le hge
      simpa only [byteAt_append_right hge, Nat.add_sub_cancel_left, Nat.add_assoc] using hy m (by omega)

/-! ### The regions (R176) -/

/-- Byte k of entry i of an array of entries of z bytes at offset b. -/
theorem entry_and_byte (b i : Nat) {z k : Nat} (h : k < z) :
    (b + z * i + k - b) / z = i ∧ (b + z * i + k - b) % z = k := by
  rw [Nat.add_assoc, Nat.add_sub_cancel_left]
  exact ⟨by rw [Nat.mul_add_div (by omega), Nat.div_eq_of_lt h, Nat.add_zero],
    by rw [Nat.mul_add_mod, Nat.mod_eq_of_lt h]⟩

theorem areaByte_header (s : State) {k : Nat} (h : k < 16) : s.areaByte k = byteAt headerBytes k :=
  if_pos h

theorem areaByte_shelf (s : State) {k : Nat} (h : k < 240) :
    s.areaByte (0x10 + k) = byteAt s.shelfBytes k := by
  unfold State.areaByte
  split_ifs <;> first | omega | rw [Nat.add_sub_cancel_left]

theorem areaByte_cell (s : State) (c : CellId) {k : Nat} (h : k < 128) :
    s.areaByte (cellOffset c + k) = s.cellByte c k := by
  have hc := c.isLt
  obtain ⟨hi, hk⟩ := entry_and_byte 0x400 c.val h
  unfold State.areaByte cellOffset
  split_ifs <;> first | omega | rw [hi, hk, Fin.ofNat_val_eq_self]

theorem areaByte_record (s : State) (i : SlotId) {k : Nat} (h : k < 128) :
    s.areaByte (0x1400 + 128 * i.val + k)
      = byteAt (recordBytes (isHub i) (s.recordView i) (s.slot i).upd) k := by
  have hi := i.isLt
  obtain ⟨hj, hk⟩ := entry_and_byte 0x1400 i.val h
  unfold State.areaByte
  split_ifs <;> first | omega | simp only [hj, hk, Fin.ofNat_val_eq_self]

theorem areaByte_entry (s : State) (e : Fin 128) {k : Nat} (h : k < 32) :
    s.areaByte (0x2000 + 32 * e.val + k) = byteAt (entryBytes (s.journal.entries[e.val]'e.isLt)) k := by
  have he := e.isLt
  obtain ⟨hj, hk⟩ := entry_and_byte 0x2000 e.val h
  unfold State.areaByte
  split_ifs <;> first | omega | simp only [hj, hk, Fin.ofNat_val_eq_self]

end Sys2Proof.Machine
end

