-- ==== Sys2Proof/Tests/Slice0.lean ====
section
/-! SUPPORT. The tests: what the well-formedness check refuses, the lengths of the records, one-step
results worked out by hand from the spec, and for each statement with hypotheses a state that meets
them. -/



namespace Sys2Proof.Tests

set_option Elab.async false

open Sys2Proof.Machine

/-! ### Well-formedness -/

/-- Word 0 of a cell is its state word, not a body word. -/
theorem test_wf_body_word_0 : (Instr.cellBodyWrite 0 0 ⟨0, 0xF⟩ []).wellFormed = false := by decide

/-- A cell has no word 32. -/
theorem test_wf_body_word_32 : (Instr.cellBodyWrite 0 32 ⟨0, 0xF⟩ []).wellFormed = false := by decide

theorem test_wf_body_words : (Instr.cellBodyWrite 0 1 ⟨0, 0xF⟩ []).wellFormed = true
    ∧ (Instr.cellBodyWrite 31 31 ⟨0, 0xF⟩ []).wellFormed = true := by decide

/-- A write of the Shelf Area names a word. -/
theorem test_wf_area_misaligned : (Instr.shelfAreaWriteRefused 2 ⟨0, 0xF⟩ []).wellFormed = false := by decide

/-- The Shelf Area ends at 0x3FFF. -/
theorem test_wf_area_end : (Instr.shelfAreaWriteRefused 0x4000 ⟨0, 0xF⟩ []).wellFormed = false
    ∧ (Instr.shelfAreaWriteRefused 0x3FFC ⟨0, 0xF⟩ []).wellFormed = true := by decide

/-- A refused register write names no register that can be written. -/
theorem test_wf_register_written : (Instr.registerWriteRefused 0x4000 ⟨0, 0xF⟩ []).wellFormed = false
    ∧ (Instr.registerWriteRefused 0x4008 ⟨0, 0xF⟩ []).wellFormed = false
    ∧ (Instr.registerWriteRefused 0x400C ⟨0, 0xF⟩ []).wellFormed = false := by decide

/-- A refused register write names a word inside the window. -/
theorem test_wf_register_end : (Instr.registerWriteRefused 0x8000 ⟨0, 0xF⟩ []).wellFormed = false
    ∧ (Instr.registerWriteRefused 0x4005 ⟨0, 0xF⟩ []).wellFormed = false
    ∧ (Instr.registerWriteRefused 0x4004 ⟨0, 0xF⟩ []).wellFormed = true := by decide

/-- The words of a request are a run: no gap, no word twice, none beyond the window (R175). -/
theorem test_wf_request :
    (Instr.cellBodyWrite 0 1 ⟨0, 0xF⟩ [⟨0x408, 0, 0xF⟩, ⟨0x400, 1, 0x1⟩]).wellFormed = true
    ∧ (Instr.cellBodyWrite 0 2 ⟨0, 0xF⟩ [⟨0x400, 1, 0x1⟩]).wellFormed = false
    ∧ (Instr.cellBodyWrite 0 1 ⟨0, 0xF⟩ [⟨0x404, 1, 0x1⟩]).wellFormed = false
    ∧ (Instr.attentionClear ⟨0, 0xF⟩ [⟨0x400A, 0, 0xF⟩]).wellFormed = false
    ∧ (Instr.registerWriteRefused 0x7FFC ⟨0, 0xF⟩ [⟨0x8000, 0, 0xF⟩]).wellFormed = false := by decide

/-- A frame has at least its check byte. -/
theorem test_wf_frame_empty : (Instr.frameArrival 0 []).wellFormed = false := by decide

/-- The table gives its rows no bits. -/
theorem test_no_word_spells_a_command : decodeTableWord 32 0 = none := by decide

/-! ### States to test on -/

/-- A part that runs, at shelf time 100000. -/
def base : State := { State.reset with
  time := 100000, port := { State.reset.port with run := true } }

/-- The same during the hold of the RESET line. -/
def heldBase : State := { base with held := true, resetLine := some 99000 }

/-- Bytes 0x04 onward of a cell, which is posted. -/
def order (c : CellId) (bytes : List Byte) (s : State) : State :=
  { s with mem := Memory.writeList s.mem (cellOffset c + 4) bytes }.setCell c .posted

/-- A seated slot in a state. -/
def slotIn (i : SlotId) (st : SlotState) (s : State) : State :=
  s.modSlot i fun x => { x with
    state := st, long := true, short := true
    blink := if st.blinking then some ⟨true, 100500⟩ else none }

/-- An order list. -/
def listed (i : SlotId) (es : List OrderEntry) (act : Bool) (s : State) : State :=
  s.modSlot i fun x => { x with orders := es, active := act }

/-- A valid identity of a kind. -/
def known (i : SlotId) (kind : Byte) (draw : Word16) (s : State) : State :=
  s.modSlot i fun x => { x with
    idStatus := .valid, ident := { x.ident with kind := kind, draw := draw } }

/-- A link that is UP. -/
def up (i : SlotId) (s : State) : State := s.modEngine i fun e => { e with link := .up }

/-- A live request with sequence 3, placed by the first of the blocks that place its kind. -/
def request (m : Msg) (attempt : Nat) (deadline : Time) : Outstanding :=
  ⟨m, m.placers.headD .engine, 3, attempt, deadline, true, false⟩

/-- A link that is UP with a request outstanding, its sequence 3. -/
def asked (i : SlotId) (m : Msg) (attempt : Nat) (deadline : Time) (s : State) : State :=
  s.modEngine i fun e => { e with
    link := .up, nextSeq := 4, out := some (request m attempt deadline) }

/-- A switch that is ON with the blade reset asserted. -/
def switched (i : SlotId) (s : State) : State :=
  s.modPower i fun p => { p with switchOn := true }

/-- A port in a state, its gate open where that state has it open. -/
def port (p : PortId) (st : PortState) (deadline : Option Time) (s : State) : State :=
  let x : Port := ⟨st, false, 1, deadline, decide (st ≠ .isolated ∧ st ≠ .offered ∧ st ≠ .withdrawing)⟩
  { s with ports := s.ports.set (portIndex p) x }

/-- A slot in its ramp. -/
def ramping (i : SlotId) (s : State) : State :=
  (switched i (slotIn i .ramping s)).modPower i fun p => { p with rampLimit := some 100020 }

/-- The frame of a reply to request sequence 3. -/
def replyFrame (m : Msg) (a : Answer) (payload : List Byte) : List Byte :=
  let b := [m.code, 3, a.code] ++ payload
  b ++ [checkByte b]

/-- The part of cell 0 before its parameters: kind, slot, tag 0x1234, condition 0 and flags. -/
def head (kind slot flags : Byte) : List Byte := [kind, slot, 0x34, 0x12, 0, 0, flags, 0]

/-- A held claim of a slot. -/
def claimed (i : SlotId) (n : Nat) (s : State) : State :=
  (s.modAlloc fun a => { a with granted := n, claims := a.claims.set i n }).modSlot i fun x =>
    { x with claim := n }

/-- An entry waiting in the queue. -/
def queued (i : SlotId) (deadline : Option Time) (claim : Nat) (s : State) : State :=
  s.modAlloc fun a => { a with queue := [⟨i, 0, 99000, deadline, claim⟩] }

/-- The slot of an ADMIT in AWAIT-POWER, its cell 9. -/
def waitingAdmit (i : SlotId) (s : State) : State :=
  listed i [⟨9, .admitBlade, 99000⟩] true (queued i none 100 (slotIn i .awaitPower s))

/-- A handle request under SELF-RETIRE. -/
def handle (i : SlotId) (latch hold : Bool) (s : State) : State :=
  s.modSlot i fun x => { x with latch := latch, hold := hold, policy := ⟨.selfRetire, .cut, false⟩ }

/-- A page 0 that fails no test: a node blade of 100 W. -/
def goodPage : List Byte :=
  [1, 1, 0, 0, 100, 0, 3, 0] ++ List.replicate 23 0 ++ [checkByte [1, 1, 100, 3]]

/-! ### States that meet the hypotheses of the statements -/

/-- A command that is no host write, and a request of one word. -/
theorem test_RecordWritten_one_word :
    Inv base
    ∧ Instr.trip 0 ≠ .powerOnReset BoardInputs.empty
    ∧ (Instr.trip 0).hostAddresses.length ≤ 1
    ∧ (Instr.attentionClear ⟨1, 0xF⟩ []).hostAddresses.length ≤ 1 := by
  simp only [inv_iff]
  decide +kernel

/-- The intake takes a slot-queued order. -/
theorem test_RecordWritten_queued :
    let s : State := order 0 (head 5 1 0) (slotIn 0 .parked base)
    Inv s
    ∧ s.TakesFor 0 .clearFault 0
    ∧ OrderKind.orderClass .clearFault = .slotQueued := by
  simp only [inv_iff, takesFor_iff, takes_iff, live_iff, ready_iff]
  decide +kernel

/-- An empty queue; a RESET line that the next millisecond takes; the hold. -/
theorem test_IdleStep_meets :
    base.pending = []
    ∧ State.pending { base with resetLine := some 100000 } = []
    ∧ due (base.time + 1) ((some base.time).map fun since => after since 1) = true
    ∧ heldBase.pending = []
    ∧ heldBase.held = true := by
  decide +kernel

/-- A state with the invariant. -/
theorem test_EveryCommandCompletes_meets :
    Inv base := by
  simp only [inv_iff]
  decide +kernel

/-- A live state for each of the five cell states. -/
theorem test_CellStateWrites_meets :
    ∀ st ∈ [CellState.free, .posted, .taken, .finished, .refused],
      (base.setCell 3 st).Live ∧ (base.setCell 3 st).cell 3 = st := by
  simp only [live_iff, ready_iff]
  decide +kernel

/-- The first and the last body word, a FREE cell and one that is not. -/
theorem test_CellBodyWrite_meets :
    let s : State := base.setCell 3 .posted
    base.Live
    ∧ Inv base
    ∧ (Instr.cellBodyWrite 3 1 ⟨5, 0xF⟩ []).wellFormed = true
    ∧ (Instr.cellBodyWrite 3 31 ⟨5, 0x1⟩ []).wellFormed = true
    ∧ base.cell 3 = .free
    ∧ s.Live
    ∧ Inv s
    ∧ s.cell 3 ≠ .free
    ∧ (WordData.mk 1 0x1).enable.getLsbD 0 = true ∧ (WordData.mk 1 0x1).value.setWidth 8 = (1 : Byte)
      := by
  simp only [inv_iff, live_iff, ready_iff]
  decide +kernel

/-- With write count 5 and read count 2: a write of 6, one past the write count, of 5 and of 2. -/
theorem test_ReadCountWrite_meets :
    State.Live { base with journal := { base.journal with writeCount := 5, readCount := 2 } }
    ∧ ¬ ((mergeWord ((2 : Word16).setWidth 32) 6 0xF).setWidth 16 - (2 : Word16)).toNat ≤ ((5 : Word16)
      - 2).toNat
    ∧ ((mergeWord ((2 : Word16).setWidth 32) 5 0xF).setWidth 16 - (2 : Word16)).toNat ≤ ((5 : Word16) -
      2).toNat
    ∧ (mergeWord ((2 : Word16).setWidth 32) 5 0xF).setWidth 16 ≠ (2 : Word16)
    ∧ (mergeWord ((2 : Word16).setWidth 32) 2 0xF).setWidth 16 = (2 : Word16) := by
  simp only [live_iff, ready_iff]
  decide +kernel

/-- A gap that has room; no gap with room; a full journal. -/
theorem test_NoticeWrittenOrFolded_meets :
    (State.journal
      { base with journal := { base.journal with gapPending := true, gapMask := 1 } }).gapPending = true
    ∧ (State.port { base with journal := { base.journal with gapPending := true, gapMask := 1 } }).run
      = true
    ∧ (State.journal
      { base with journal := { base.journal with gapPending := true, gapMask := 1 } }).full = false
    ∧ ¬ (base.journal.gapPending = true ∧ base.port.run = true ∧ base.journal.full = false)
    ∧ (roomTest base).port.run = true
    ∧ (roomTest base).journal.full = false
    ∧ (roomTest base).journal.gapPending = false
    ∧ (roomTest { base with journal := { base.journal with writeCount := 128 } }).journal.full = true
      := by
  decide +kernel

/-- An entry that holds a notice. -/
theorem test_NoticeShown_meets :
    (handNotice (slotNotice base 0 .surprise none) base).journal.entries[(0 : Fin 128)] = some
      (slotNotice base 0 .surprise none) := by
  decide +kernel

/-- The boundaries of both ranges. -/
theorem test_GuardRefusesWrites_meets :
    base.Live
    ∧ ∀ a ∈ [0, 0x00FC, 0x0108, 0x03FC, 0x1400, 0x3FFC],
      (a < 0x0400 ∧ a ≠ 0x0100 ∧ a ≠ 0x0104) ∨ (0x1400 ≤ a ∧ a < 0x4000)
    ∧ ∀ a ∈ [0x4004, 0x4010, 0x7FFC], a = 0x4004 ∨ (0x4010 ≤ a ∧ a < 0x8000) := by
  simp only [live_iff, ready_iff]
  decide +kernel

/-- RUN clear and RUN set. -/
theorem test_ControlWrites_meets :
    State.Live State.reset
    ∧ State.reset.port.run = false
    ∧ base.Live
    ∧ base.port.run = true := by
  simp only [live_iff, ready_iff]
  decide +kernel

/-- A live state. -/
theorem test_AttentionRegisters_meets :
    base.Live := by
  simp only [live_iff, ready_iff]
  decide +kernel

/-- The hold; a line that is not asserted, and an empty queue. -/
theorem test_HoldDiscardsHostWrites_meets :
    base.held = false
    ∧ base.resetLine = none
    ∧ base.pending = []
    ∧ heldBase.Ready
    ∧ heldBase.held = true := by
  simp only [ready_iff]
  decide +kernel

/-- The hold with a switch OFF and with a switch ON. -/
theorem test_HoldStopsEvents_meets :
    heldBase.Ready
    ∧ heldBase.held = true
    ∧ (heldBase.pwr 0).switchOn = false
    ∧ (switched 0 heldBase).Ready
    ∧ (switched 0 heldBase).held = true
    ∧ ((switched 0 heldBase).pwr 0).switchOn = true := by
  simp only [ready_iff]
  decide +kernel

/-- A take at the pointer, one that wraps, and none. -/
theorem test_IntakeTakesFirstPosted_meets :
    let s : State := order 5 (head 6 1 0) (order 3 (head 6 1 0) base)
    Inv s
    ∧ s.Live
    ∧ s.intakeNext = some 3
    ∧ State.intakeNext { s with pointer := 4 } = some 5
    ∧ State.intakeNext { s with pointer := 6 } = some 3
    ∧ base.intakeNext = none
    ∧ base.Live
    ∧ State.reset.intakeNext = none := by
  simp only [inv_iff, live_iff, ready_iff]
  decide +kernel

/-- Kind bytes 0 and 13 match no kind. -/
theorem test_IntakeChecks_kind :
    OrderKind.ofCode ((order 0 (head 0 1 0) base).rd8 0 0x04) = none
    ∧ OrderKind.ofCode ((order 0 (head 13 1 0) base).rd8 0 0x04) = none := by
  decide +kernel

/-- A shelf order: a slot field that is not 0; capacity 6001; capacity 6000 on a full list and on an
empty one. -/
theorem test_IntakeChecks_shelf :
    let s : State := order 0 (head 11 0 0 ++ [0x70, 0x17, 0, 0]) (base.modAlloc fun a =>
      { a with shelf := List.replicate 4 ⟨9, .setBudget, 0⟩ })
    OrderKind.orderClass .setBudget = .shelfQueued
    ∧ OrderKind.ofCode ((order 0 (head 11 1 0 ++ [0x70, 0x17, 0, 0]) base).rd8 0 0x04) = some .setBudget
    ∧ (order 0 (head 11 1 0 ++ [0x70, 0x17, 0, 0]) base).rd8 0 0x05 ≠ 0
    ∧ (order 0 (head 11 0 0 ++ [0x71, 0x17, 0, 0]) base).rd8 0 0x05 = 0
    ∧ (order 0 (head 11 0 0 ++ [0x71, 0x17, 0, 0]) base).paramsInRange 0 .setBudget = false
    ∧ s.paramsInRange 0 .setBudget = true
    ∧ 4 ≤ s.alloc.shelf.length
    ∧ (order 0 (head 11 0 0 ++ [0x70, 0x17, 0, 0]) base).paramsInRange 0 .setBudget = true := by
  intro s
  decide +kernel

/-- Slot fields 0 and 17; urgency 4 and 3 of an ADMIT of slot 16. -/
theorem test_IntakeChecks_slot :
    let s : State := order 0 (head 1 16 0 ++ [3]) base
    OrderKind.orderClass .admitBlade = .slotQueued
    ∧ OrderKind.ofCode (s.rd8 0 0x04) = some .admitBlade
    ∧ (order 0 (head 1 0 0) base).rd8 0 0x05 = 0
    ∧ 16 < ((order 0 (head 1 17 0) base).rd8 0 0x05).toNat
    ∧ ((order 0 (head 1 16 0 ++ [4]) base).rd8 0 0x05).toNat = (15 : SlotId).val + 1
    ∧ (order 0 (head 1 16 0 ++ [4]) base).paramsInRange 0 .admitBlade = false
    ∧ s.paramsInRange 0 .admitBlade = true := by
  intro s
  decide +kernel

/-- A CUT of slot 1. -/
theorem test_IntakeChecks_immediate :
    let s : State := order 0 (head 6 1 0) base
    OrderKind.orderClass .cut = .immediate
    ∧ OrderKind.ofCode (s.rd8 0 0x04) = some .cut
    ∧ (s.rd8 0 0x05).toNat = (0 : SlotId).val + 1
    ∧ s.paramsInRange 0 .cut = true := by
  intro s
  decide +kernel

/-- A kind byte that matches none, no slot named. -/
theorem test_IntakeRefuses_no_slot :
    let s : State := order 0 (head 13 0 0) base
    s.Live
    ∧ Inv s
    ∧ s.intakeNext = some 0
    ∧ intakeRefusal s 0 = some .badKind := by
  simp only [inv_iff, live_iff, ready_iff]
  decide +kernel

/-- A kind byte that matches none, slot 1 named. -/
theorem test_IntakeRefuses_bad_kind :
    let s : State := order 0 (head 13 1 0) base
    s.Live
    ∧ Inv s
    ∧ s.intakeNext = some 0
    ∧ intakeRefusal s 0 = some .badKind := by
  simp only [inv_iff, live_iff, ready_iff]
  decide +kernel

/-- An ADMIT of an empty slot. -/
theorem test_IntakeRefuses_empty :
    let s : State := order 0 (head 1 1 0) base
    s.Live
    ∧ Inv s
    ∧ s.intakeNext = some 0
    ∧ intakeRefusal s 0 = some .slotEmpty := by
  simp only [inv_iff, live_iff, ready_iff]
  decide +kernel

/-- A canonical memory. -/
theorem test_CellResultsWritten_meets :
    Memory.wf base.mem = true := by
  decide +kernel

/-- A slot in no settled state. -/
theorem test_QueuedOrderWaits_unsettled :
    let s : State := order 0 (head 1 1 0) (slotIn 0 .booting base)
    s.TakesFor 0 .admitBlade 0
    ∧ OrderKind.orderClass .admitBlade = .slotQueued
    ∧ (s.slot 0).state.settled = false := by
  simp only [takesFor_iff, takes_iff, live_iff, ready_iff]
  decide +kernel

/-- A slot with an active order. -/
theorem test_QueuedOrderWaits_active :
    let s : State := order 0 (head 1 1 0) (listed 0 [⟨9, .readIdentity, 5⟩] true (slotIn 0 .parked
      base))
    s.TakesFor 0 .admitBlade 0
    ∧ (s.slot 0).active = true := by
  simp only [takesFor_iff, takes_iff, live_iff, ready_iff]
  decide +kernel

/-- A claim of 801 W under a capacity of 800 W. -/
theorem test_AdmitWaits_meets :
    let s : State := order 0 (head 1 1 0 ++ [2, 0, 60, 0]) (known 0 1 801 (slotIn 0 .parked base))
    Inv s
    ∧ s.Quiet
    ∧ s.TakesFor 0 .admitBlade 0
    ∧ (s.slot 0).state = .parked
    ∧ (s.slot 0).Idle
    ∧ conditionMatches (s.cellCondition 0) (s.slot 0).gen = true
    ∧ (s.slot 0).idStatus = .valid
    ∧ kindMatches 0 (s.slot 0).ident.kind = true
    ∧ examination s (entryFor 0 0 s) = some .budget := by
  simp only [inv_iff, quiet_iff, takesFor_iff, takes_iff, live_iff, ready_iff, idle_iff]
  decide +kernel

/-- A claim of 800 W under a capacity of 800 W. -/
theorem test_AdmitGranted_meets :
    let s : State := order 0 (head 1 1 0 ++ [2, 0, 60, 0]) (known 0 1 800 (slotIn 0 .parked base))
    Inv s
    ∧ s.Quiet
    ∧ s.TakesFor 0 .admitBlade 0
    ∧ (s.slot 0).state = .parked
    ∧ (s.slot 0).Idle
    ∧ conditionMatches (s.cellCondition 0) (s.slot 0).gen = true
    ∧ (s.slot 0).idStatus = .valid
    ∧ kindMatches 0 (s.slot 0).ident.kind = true
    ∧ examination s (entryFor 0 0 s) = none
    ∧ (s.pinsOf 0).powerGood = false := by
  simp only [inv_iff, quiet_iff, takesFor_iff, takes_iff, live_iff, ready_iff, idle_iff]
  decide +kernel

/-- The same with the power-good input asserted. -/
theorem test_AdmitGranted_power_good :
    let s : State := order 0 (head 1 1 0 ++ [2, 0, 60, 0]) (known 0 1 800 (slotIn 0 .parked
      (base.modPins 0 fun p => { p with powerGood := true })))
    Inv s
    ∧ s.Quiet
    ∧ s.TakesFor 0 .admitBlade 0
    ∧ (s.slot 0).state = .parked
    ∧ (s.slot 0).Idle
    ∧ conditionMatches (s.cellCondition 0) (s.slot 0).gen = true
    ∧ examination s (entryFor 0 0 s) = none
    ∧ (s.pinsOf 0).powerGood = true := by
  simp only [inv_iff, quiet_iff, takesFor_iff, takes_iff, live_iff, ready_iff, idle_iff]
  decide +kernel

/-- A condition of 7 and a generation of 1. -/
theorem test_StartRefuses_stale :
    let s : State := order 0 ([1, 1, 0, 0, 7, 0, 0, 0]) (slotIn 0 .parked base)
    Inv s
    ∧ s.Quiet
    ∧ s.TakesFor 0 .admitBlade 0
    ∧ OrderKind.orderClass .admitBlade = .slotQueued
    ∧ (s.slot 0).state.settled = true
    ∧ (s.slot 0).Idle
    ∧ conditionMatches (s.cellCondition 0) (s.slot 0).gen = false := by
  simp only [inv_iff, quiet_iff, takesFor_iff, takes_iff, live_iff, ready_iff, idle_iff]
  decide +kernel

/-- A RETIRE in PARKED. -/
theorem test_StartRefuses_state :
    let s : State := order 0 (head 2 1 0) (slotIn 0 .parked base)
    Inv s
    ∧ s.Quiet
    ∧ s.TakesFor 0 .retire 0
    ∧ OrderKind.orderClass .retire = .slotQueued
    ∧ (s.slot 0).state.settled = true
    ∧ (s.slot 0).Idle
    ∧ OrderKind.allows .retire (s.slot 0).state = false := by
  simp only [inv_iff, quiet_iff, takesFor_iff, takes_iff, live_iff, ready_iff, idle_iff]
  decide +kernel

/-- An ADMIT without an identity. -/
theorem test_StartRefuses_identity :
    let s : State := order 0 (head 1 1 0) (slotIn 0 .parked base)
    Inv s
    ∧ s.Quiet
    ∧ s.TakesFor 0 .admitBlade 0
    ∧ OrderKind.orderClass .admitBlade = .slotQueued
    ∧ (s.slot 0).state.settled = true
    ∧ (s.slot 0).Idle
    ∧ OrderKind.allows .admitBlade (s.slot 0).state = true
    ∧ (s.slot 0).idStatus ≠ .valid := by
  simp only [inv_iff, quiet_iff, takesFor_iff, takes_iff, live_iff, ready_iff, idle_iff]
  decide +kernel

/-- A hub blade in a node slot. -/
theorem test_StartRefuses_kind :
    let s : State := order 0 (head 1 1 0) (known 0 2 100 (slotIn 0 .parked base))
    Inv s
    ∧ s.Quiet
    ∧ s.TakesFor 0 .admitBlade 0
    ∧ OrderKind.orderClass .admitBlade = .slotQueued
    ∧ (s.slot 0).state.settled = true
    ∧ (s.slot 0).Idle
    ∧ (s.slot 0).idStatus = .valid
    ∧ kindMatches 0 (s.slot 0).ident.kind = false := by
  simp only [inv_iff, quiet_iff, takesFor_iff, takes_iff, live_iff, ready_iff, idle_iff]
  decide +kernel

/-- A RETIRE without FORCE of the last hub, with a port OPEN. -/
theorem test_StartRefuses_guard :
    let s : State := order 0 (head 2 15 0) (port ⟨0, 0⟩ .opened none (slotIn 14 .inService base))
    Inv s
    ∧ s.Quiet
    ∧ s.TakesFor 0 .retire 14
    ∧ OrderKind.orderClass .retire = .slotQueued
    ∧ (s.slot 14).state.settled = true
    ∧ (s.slot 14).Idle
    ∧ s.guardRefuses 14 = true
    ∧ s.cellForce 0 = false := by
  simp only [inv_iff, quiet_iff, takesFor_iff, takes_iff, live_iff, ready_iff, idle_iff]
  decide +kernel

/-- A RETIRE with every port ISOLATED. -/
theorem test_RetireStarts_isolated :
    let s : State := order 0 (head 2 1 4 ++ [17]) (up 0 (slotIn 0 .inService base))
    Inv s
    ∧ s.Quiet
    ∧ s.TakesFor 0 .retire 0
    ∧ (s.slot 0).state = .inService
    ∧ (s.slot 0).Idle
    ∧ conditionMatches (s.cellCondition 0) (s.slot 0).gen = true
    ∧ (∀ p, nodeSlot p = 0 ∨ hubSlot p = 0 → (s.portOf p).state = .isolated)
    ∧ s.linkUp 0 = true := by
  simp only [inv_iff, quiet_iff, takesFor_iff, takes_iff, live_iff, ready_iff, idle_iff, forall_ports]
  decide +kernel

/-- A RETIRE with both ports OPEN. -/
theorem test_RetireStarts_open :
    let s : State := order 0 (head 2 1 0 ++ [17]) (port ⟨0, 0⟩ .opened none (port ⟨0, 1⟩ .opened none
      (up 0 (slotIn 0 .inService base))))
    Inv s
    ∧ s.Quiet
    ∧ s.TakesFor 0 .retire (nodeSlot ⟨0, 0⟩)
    ∧ (s.slot (nodeSlot ⟨0, 0⟩)).state = .inService
    ∧ (s.slot (nodeSlot ⟨0, 0⟩)).Idle
    ∧ conditionMatches (s.cellCondition 0) (s.slot (nodeSlot ⟨0, 0⟩)).gen = true
    ∧ s.linkUp (nodeSlot ⟨0, 0⟩) = true
    ∧ (s.portOf ⟨0, 0⟩).state = .opened
    ∧ (s.portOf ⟨0, 1⟩).state = .opened
    ∧ (s.engine (nodeSlot ⟨0, 0⟩)).queued
      (fun m => decide (m = .pathOpen 0) || decide (m = .pathOpen 1)) = false := by
  simp only [inv_iff, quiet_iff, takesFor_iff, takes_iff, live_iff, ready_iff, idle_iff]
  decide +kernel

/-- A SURVEY of a PARKED slot. -/
theorem test_SurveyStarts_meets :
    let s : State := order 0 (head 3 1 0) (slotIn 0 .parked base)
    Inv s
    ∧ s.Quiet
    ∧ s.TakesFor 0 .survey 0
    ∧ (s.slot 0).state = .parked
    ∧ (s.slot 0).Idle
    ∧ conditionMatches (s.cellCondition 0) (s.slot 0).gen = true := by
  simp only [inv_iff, quiet_iff, takesFor_iff, takes_iff, live_iff, ready_iff, idle_iff]
  decide +kernel

/-- A READ-IDENTITY of pages 6 and 7, the link UP. -/
theorem test_ReadIdentityStarts_up :
    let s : State := order 0 (head 4 1 0 ++ [6, 2]) (up 0 (slotIn 0 .parked base))
    Inv s
    ∧ s.Quiet
    ∧ s.TakesFor 0 .readIdentity 0
    ∧ (s.slot 0).state.settled = true
    ∧ (s.slot 0).Idle
    ∧ conditionMatches (s.cellCondition 0) (s.slot 0).gen = true
    ∧ s.linkUp 0 = true := by
  simp only [inv_iff, quiet_iff, takesFor_iff, takes_iff, live_iff, ready_iff, idle_iff]
  decide +kernel

/-- A READ-IDENTITY of pages 6 and 7, the link not UP. -/
theorem test_ReadIdentityStarts_down :
    let s : State := order 0 (head 4 1 0 ++ [6, 2]) (slotIn 0 .faulted base)
    Inv s
    ∧ s.Quiet
    ∧ s.TakesFor 0 .readIdentity 0
    ∧ (s.slot 0).state.settled = true
    ∧ (s.slot 0).Idle
    ∧ conditionMatches (s.cellCondition 0) (s.slot 0).gen = true
    ∧ s.linkUp 0 = false := by
  simp only [inv_iff, quiet_iff, takesFor_iff, takes_iff, live_iff, ready_iff, idle_iff]
  decide +kernel

/-- A page arrives, another to come. -/
theorem test_ReadIdentity_page_more :
    let s : State := (listed 0 [⟨9, .readIdentity, 5⟩] true (asked 0 (.identPage 6) 1 100025 (slotIn 0
      .parked base))).modSlot 0 fun x => { x with read := some ⟨6, 1, []⟩ }
    Inv s
    ∧ s.Live
    ∧ (s.slot 0).state.settled = true
    ∧ (s.slot 0).latch = false
    ∧ (s.slot 0).orders = [⟨9, .readIdentity, 5⟩]
    ∧ (s.slot 0).active = true
    ∧ (s.slot 0).read = some ⟨6, 1, []⟩
    ∧ s.linkUp 0 = true
    ∧ (s.engine 0).out = some (request (.identPage 6) 1 100025)
    ∧ judgeReply (.identPage 6) 3 (replyFrame (.identPage 6) .ok (List.replicate 32 7)) = some
      ⟨.ok, List.replicate 32 7⟩ := by
  simp only [inv_iff, live_iff, ready_iff]
  decide +kernel

/-- A page arrives, the last. -/
theorem test_ReadIdentity_page_last :
    let s : State := (listed 0 [⟨9, .readIdentity, 5⟩] true (asked 0 (.identPage 6) 1 100025 (slotIn 0
      .parked base))).modSlot 0 fun x => { x with read := some ⟨6, 0, []⟩ }
    Inv s
    ∧ s.Live
    ∧ (s.slot 0).state.settled = true
    ∧ (s.slot 0).latch = false
    ∧ (s.slot 0).orders = [⟨9, .readIdentity, 5⟩]
    ∧ (s.slot 0).active = true
    ∧ (s.slot 0).read = some ⟨6, 0, []⟩
    ∧ s.linkUp 0 = true
    ∧ (s.engine 0).out = some (request (.identPage 6) 1 100025)
    ∧ judgeReply (.identPage 6) 3 (replyFrame (.identPage 6) .ok (List.replicate 32 7)) = some
      ⟨.ok, List.replicate 32 7⟩ := by
  simp only [inv_iff, live_iff, ready_iff]
  decide +kernel

/-- A CLEAR-FAULT, case faulted. -/
theorem test_ClearFaultActs_faulted :
    let s : State := order 0 (head 5 1 0) ((slotIn 0 .faulted base).modSlot 0 fun x =>
      { x with fault := some .overcurrent })
    Inv s
    ∧ s.Quiet
    ∧ s.TakesFor 0 .clearFault 0
    ∧ (s.slot 0).state.settled = true
    ∧ (s.slot 0).Idle
    ∧ conditionMatches (s.cellCondition 0) (s.slot 0).gen = true
    ∧ (s.slot 0).state = .faulted
    ∧ (s.slot 0).fault = some .overcurrent := by
  simp only [inv_iff, quiet_iff, takesFor_iff, takes_iff, live_iff, ready_iff, idle_iff]
  decide +kernel

/-- A CLEAR-FAULT, case parked. -/
theorem test_ClearFaultActs_parked :
    let s : State := order 0 (head 5 1 0) ((slotIn 0 .parked base).modSlot 0 fun x =>
      { x with fault := some .agentFault })
    Inv s
    ∧ s.Quiet
    ∧ s.TakesFor 0 .clearFault 0
    ∧ (s.slot 0).state.settled = true
    ∧ (s.slot 0).Idle
    ∧ conditionMatches (s.cellCondition 0) (s.slot 0).gen = true
    ∧ (s.slot 0).state = .parked
    ∧ (s.slot 0).fault = some .agentFault := by
  simp only [inv_iff, quiet_iff, takesFor_iff, takes_iff, live_iff, ready_iff, idle_iff]
  decide +kernel

/-- A CLEAR-FAULT, case nothing. -/
theorem test_ClearFaultActs_nothing :
    let s : State := order 0 (head 5 1 0) ((slotIn 0 .inService base).modSlot 0 fun x =>
      { x with fault := none })
    Inv s
    ∧ s.Quiet
    ∧ s.TakesFor 0 .clearFault 0
    ∧ (s.slot 0).state.settled = true
    ∧ (s.slot 0).Idle
    ∧ conditionMatches (s.cellCondition 0) (s.slot 0).gen = true
    ∧ (s.slot 0).state = .inService
    ∧ (s.slot 0).fault = none := by
  simp only [inv_iff, quiet_iff, takesFor_iff, takes_iff, live_iff, ready_iff, idle_iff]
  decide +kernel

/-- A CUT in AWAIT-POWER. -/
theorem test_CutRemovesPayload_waiting :
    let s : State := order 0 (head 6 1 0) (waitingAdmit 0 base)
    Inv s
    ∧ s.QuietBut 0
    ∧ s.TakesFor 0 .cut 0
    ∧ ∀ e ∈ (s.slot 0).orders, e.cell ≠ 0
    ∧ (s.slot 0).state = .awaitPower := by
  simp only [inv_iff, quietBut_iff, takesFor_iff, takes_iff, live_iff, ready_iff]
  decide +kernel

/-- A CUT in LEAVING. -/
theorem test_CutRemovesPayload_payload :
    let s : State := order 0 (head 6 1 0) (listed 0 [⟨9, .retire, 5⟩, ⟨10, .survey, 6⟩] true (claimed 0
      100 (switched 0 (slotIn 0 .leaving base))))
    Inv s
    ∧ s.QuietBut 0
    ∧ s.TakesFor 0 .cut 0
    ∧ ∀ e ∈ (s.slot 0).orders, e.cell ≠ 0
    ∧ (s.slot 0).state ≠ .awaitPower
    ∧ (s.pwr 0).switchOn = true := by
  simp only [inv_iff, quietBut_iff, takesFor_iff, takes_iff, live_iff, ready_iff]
  decide +kernel

/-- A CANCEL of an ADMIT in AWAIT-POWER. -/
theorem test_CancelWithdraws_admit :
    let s : State := order 0 (head 7 1 0) (waitingAdmit 0 base)
    Inv s
    ∧ s.QuietBut 0
    ∧ s.TakesFor 0 .cancel 0
    ∧ ∀ e ∈ (s.slot 0).orders, e.cell ≠ 0
    ∧ (s.slot 0).state = .awaitPower
    ∧ s.activeKind 0 = some .admitBlade := by
  simp only [inv_iff, quietBut_iff, takesFor_iff, takes_iff, live_iff, ready_iff]
  decide +kernel

/-- A CANCEL of an order that waits behind an active RETIRE. -/
theorem test_CancelWithdraws_waiting :
    let s : State := order 0 (head 7 1 0) (listed 0 [⟨9, .retire, 5⟩, ⟨10, .survey, 6⟩] true (slotIn 0
      .leaving base))
    Inv s
    ∧ s.QuietBut 0
    ∧ s.TakesFor 0 .cancel 0
    ∧ ∀ e ∈ (s.slot 0).orders, e.cell ≠ 0
    ∧ (s.slot 0).waiting ≠ []
    ∧ ¬ ((s.slot 0).state = .awaitPower ∧ s.activeKind 0 = some .admitBlade) := by
  simp only [inv_iff, quietBut_iff, takesFor_iff, takes_iff, live_iff, ready_iff]
  decide +kernel

/-- The kind hold in PARKED. -/
theorem test_HoldAndPolicy_hold :
    let s : State := order 0 (head 8 1 0) (slotIn 0 .parked base)
    Inv s
    ∧ s.TakesFor 0 .hold 0
    ∧ (s.modSlot 0 fun _ => { s.slot 0 with hold := true }).handleActs 0 = false := by
  simp only [inv_iff, takesFor_iff, takes_iff, live_iff, ready_iff]
  decide +kernel

/-- The kind unhold in PARKED. -/
theorem test_HoldAndPolicy_unhold :
    let s : State := order 0 (head 9 1 0) (slotIn 0 .parked base)
    Inv s
    ∧ s.TakesFor 0 .unhold 0
    ∧ (s.modSlot 0 fun _ => { s.slot 0 with hold := false }).handleActs 0 = false := by
  simp only [inv_iff, takesFor_iff, takes_iff, live_iff, ready_iff]
  decide +kernel

/-- The kind setPolicy in PARKED. -/
theorem test_HoldAndPolicy_setPolicy :
    let s : State := order 0 (head 10 1 0 ++ [1, 1, 1]) (slotIn 0 .parked base)
    Inv s
    ∧ s.TakesFor 0 .setPolicy 0
    ∧ (s.modSlot 0 fun _ => { s.slot 0 with policy := s.policyParam 0 }).handleActs 0 = false := by
  simp only [inv_iff, takesFor_iff, takes_iff, live_iff, ready_iff]
  decide +kernel

/-- A latched request let act by unhold. -/
theorem test_UnholdLetsHandleAct_unhold :
    let s : State := order 0 (head 9 1 0) (handle 0 true true (waitingAdmit 0 base))
    Inv s
    ∧ s.TakesFor 0 .unhold 0
    ∧ s.QuietBut 0
    ∧ (s.slot 0).state = .awaitPower
    ∧ (s.slot 0).orders = [⟨9, .admitBlade, 99000⟩]
    ∧ (s.slot 0).active = true
    ∧ (s.slot 0).latch = true
    ∧ (s.slot 0).hold = true
    ∧ (s.slot 0).policy.handle = .selfRetire := by
  simp only [inv_iff, quietBut_iff, takesFor_iff, takes_iff, live_iff, ready_iff]
  decide +kernel

/-- A latched request let act by setPolicy. -/
theorem test_UnholdLetsHandleAct_setPolicy :
    let s : State := order 0 (head 10 1 0 ++ [1, 0, 0]) (handle 0 true false (waitingAdmit 0 base))
    Inv s
    ∧ s.TakesFor 0 .setPolicy 0
    ∧ s.QuietBut 0
    ∧ (s.slot 0).state = .awaitPower
    ∧ (s.slot 0).orders = [⟨9, .admitBlade, 99000⟩]
    ∧ (s.slot 0).active = true
    ∧ (s.slot 0).latch = true
    ∧ (s.slot 0).hold = false
    ∧ (s.policyParam 0).handle = .selfRetire := by
  simp only [inv_iff, quietBut_iff, takesFor_iff, takes_iff, live_iff, ready_iff]
  decide +kernel

/-- A latched request let act by unhold in IN-SERVICE. -/
theorem test_UnholdLetsHandleAct_service_unhold :
    let s : State := order 0 (head 9 1 0) (handle 0 true true (slotIn 0 .inService base))
    Inv s
    ∧ s.TakesFor 0 .unhold 0
    ∧ s.QuietBut 0
    ∧ (s.slot 0).state = .inService
    ∧ (s.slot 0).orders = []
    ∧ (s.slot 0).active = false
    ∧ (s.slot 0).latch = true
    ∧ (∀ p, nodeSlot p = 0 ∨ hubSlot p = 0 → (s.portOf p).state = .isolated)
    ∧ (s.slot 0).hold = true
    ∧ (s.slot 0).policy.handle = .selfRetire := by
  simp only [inv_iff, quietBut_iff, takesFor_iff, takes_iff, live_iff, ready_iff, forall_ports]
  decide +kernel

/-- A latched request let act by setPolicy in IN-SERVICE. -/
theorem test_UnholdLetsHandleAct_service_setPolicy :
    let s : State := order 0 (head 10 1 0 ++ [1, 0, 0]) (handle 0 true false (slotIn 0 .inService base))
    Inv s
    ∧ s.TakesFor 0 .setPolicy 0
    ∧ s.QuietBut 0
    ∧ (s.slot 0).state = .inService
    ∧ (s.slot 0).orders = []
    ∧ (s.slot 0).active = false
    ∧ (s.slot 0).latch = true
    ∧ (∀ p, nodeSlot p = 0 ∨ hubSlot p = 0 → (s.portOf p).state = .isolated)
    ∧ (s.slot 0).hold = false
    ∧ (s.policyParam 0).handle = .selfRetire := by
  simp only [inv_iff, quietBut_iff, takesFor_iff, takes_iff, live_iff, ready_iff, forall_ports]
  decide +kernel

/-- A capacity of 100 W with 100 W granted. -/
theorem test_ShelfOrders_budget_fits :
    let s : State := order 0 (head 11 0 0 ++ [100, 0, 50, 0]) (claimed 0 100 base)
    Inv s
    ∧ s.Quiet
    ∧ s.Takes 0 .setBudget
    ∧ s.alloc.shelf = []
    ∧ s.alloc.granted ≤ (s.rd16 0 0x0C).toNat := by
  simp only [inv_iff, quiet_iff, takes_iff, live_iff, ready_iff]
  decide +kernel

/-- A capacity of 100 W with 101 W granted. -/
theorem test_ShelfOrders_budget_over :
    let s : State := order 0 (head 11 0 0 ++ [100, 0, 50, 0]) (claimed 0 101 base)
    Inv s
    ∧ s.Quiet
    ∧ s.Takes 0 .setBudget
    ∧ s.alloc.shelf = []
    ∧ ¬ s.alloc.granted ≤ (s.rd16 0 0x0C).toNat := by
  simp only [inv_iff, quiet_iff, takes_iff, live_iff, ready_iff]
  decide +kernel

/-- A SET-TIMING at the bounds of its ranges, no slot RAMPING. -/
theorem test_ShelfOrders_timing_applies :
    let s : State := order 0 (head 12 0 0 ++ [10, 0, 100, 0, 0, 0, 0, 0, 0xF4, 0x01, 0xE8, 0x03, 0, 0,
      4]) base
    Inv s
    ∧ s.Quiet
    ∧ s.Takes 0 .setTiming
    ∧ s.alloc.shelf = []
    ∧ s.alloc.ramping = []
    ∧ ∀ i, (s.pwr i).deferral = none := by
  simp only [inv_iff, quiet_iff, takes_iff, live_iff, ready_iff]
  decide +kernel

/-- The same while slot 3 ramps. -/
theorem test_ShelfOrders_timing_waits :
    let s : State := order 0 (head 12 0 0 ++ [10, 0, 100, 0, 0, 0, 0, 0, 0xF4, 0x01, 0xE8, 0x03, 0, 0,
      4]) (base.modAlloc fun a => { a with ramping := [2] })
    Inv s
    ∧ s.Quiet
    ∧ s.Takes 0 .setTiming
    ∧ s.alloc.shelf = []
    ∧ s.alloc.ramping ≠ [] := by
  simp only [inv_iff, quiet_iff, takes_iff, live_iff, ready_iff]
  decide +kernel

/-- A SET-TIMING with a MIN-ON of 1001 ms, 1000 ms after the power good of a deferred slot. -/
theorem test_ShelfOrders_deferral_moves :
    let s : State := order 0 (head 12 0 0 ++ [10, 0, 100, 0, 0xE9, 0x03, 0, 0, 0xF4, 0x01, 0xE8, 0x03,
      0, 0, 4]) ((listed 0 [⟨9, .retire, 5⟩] true (switched 0 (slotIn 0 .poweringOff base))).modPower 0
      fun p => { p with deferral := some 102000, goodTime := 99000, onRef := some 159000 })
    Inv s
    ∧ s.Quiet
    ∧ s.Takes 0 .setTiming
    ∧ s.alloc.shelf = []
    ∧ s.alloc.ramping = []
    ∧ (s.pwr 0).deferral ≠ none
    ∧ (s.pwr 0).onRef ≠ none
    ∧ (s.time - (s.pwr 0).goodTime).toNat < (s.rd16 0 0x10).toNat
    ∧ ∀ j, j ≠ 0 → (s.pwr j).deferral = none
    ∧ (s.slot 0).state = .poweringOff
    ∧ (s.slot 0).latch = false
    ∧ (s.pwr 0).switchOn = true
    ∧ (s.slot 0).orders = [⟨9, .retire, 5⟩]
    ∧ (s.slot 0).active = true := by
  simp only [inv_iff, quiet_iff, takes_iff, live_iff, ready_iff]
  decide +kernel

/-- The same with a MIN-ON of 1000 ms. -/
theorem test_ShelfOrders_deferral_ends :
    let s : State := order 0 (head 12 0 0 ++ [10, 0, 100, 0, 0xE8, 0x03, 0, 0, 0xF4, 0x01, 0xE8, 0x03,
      0, 0, 4]) ((listed 0 [⟨9, .retire, 5⟩] true (switched 0 (slotIn 0 .poweringOff base))).modPower 0
      fun p => { p with deferral := some 102000, goodTime := 99000, onRef := some 159000 })
    Inv s
    ∧ s.Quiet
    ∧ s.Takes 0 .setTiming
    ∧ s.alloc.shelf = []
    ∧ s.alloc.ramping = []
    ∧ (s.pwr 0).deferral ≠ none
    ∧ (s.pwr 0).onRef ≠ none
    ∧ (s.rd16 0 0x10).toNat ≤ (s.time - (s.pwr 0).goodTime).toNat
    ∧ ∀ j, j ≠ 0 → (s.pwr j).deferral = none
    ∧ (s.slot 0).state = .poweringOff
    ∧ (s.slot 0).latch = false
    ∧ (s.pwr 0).switchOn = true
    ∧ (s.slot 0).orders = [⟨9, .retire, 5⟩]
    ∧ (s.slot 0).active = true := by
  simp only [inv_iff, quiet_iff, takes_iff, live_iff, ready_iff]
  decide +kernel

/-- Raw levels that have stood for 5 ms and for 20 ms at the next tick, and a raw level that is the
debounced one. -/
theorem test_Debounce_due :
    let s : State := (base.modPins 0 fun p => { p with long := true, handleOpen := true }).modTimes 0
      fun _ => ⟨99996, 0, 99981⟩
    s.pending = []
    ∧ s.held = false
    ∧ s.resetLine = none
    ∧ (s.pinsOf 0).long ≠ (s.slot 0).long
    ∧ (s.pinsOf 0).short = (s.slot 0).short
    ∧ (s.pinsOf 0).handleOpen ≠ (s.slot 0).handleOpen
    ∧ reached (s.time + 1) (after (s.timesOf 0).long 5) = true
    ∧ reached s.time (after (s.timesOf 0).long 5) = false
    ∧ reached (s.time + 1) (after (s.timesOf 0).handle 20) = true
    ∧ reached s.time (after (s.timesOf 0).handle 20) = false := by
  intro s
  decide +kernel

/-- The short contact makes after the long one; the long contact makes alone. -/
theorem test_ContactChanges_meets :
    let s : State := base.modSlot 0 fun x => { x with long := true }
    s.Live
    ∧ ((s.slot 0).setContact .short true).presence = .both
    ∧ (s.slot 0).presence ≠ .both
    ∧ (s.slot 0).state = .vacant
    ∧ base.Live
    ∧ ((base.slot 0).setContact .long true).presence ≠ .both
    ∧ (base.slot 0).presence ≠ .both := by
  simp only [live_iff, ready_iff]
  decide +kernel

/-- A blade drawn in BOOTING, and one in AWAIT-POWER. -/
theorem test_PresenceLossVacates_meets :
    let s : State := listed 0 [⟨9, .admitBlade, 5⟩] true (claimed 0 100 (switched 0 (slotIn 0 .booting
      base)))
    Inv s
    ∧ s.Live
    ∧ s.QuietBut 0
    ∧ (s.slot 0).presence = .both
    ∧ (s.slot 0).state ≠ .vacant
    ∧ Inv (waitingAdmit 0 base)
    ∧ (waitingAdmit 0 base).Live
    ∧ (waitingAdmit 0 base).QuietBut 0
    ∧ ((waitingAdmit 0 base).slot 0).presence = .both := by
  simp only [inv_iff, quietBut_iff, live_iff, ready_iff]
  decide +kernel

/-- Silent in VACANT; a request under NOTIFY in PARKED. -/
theorem test_HandleChanges_meets :
    let s : State := slotIn 0 .parked base
    base.Live
    ∧ (base.slot 0).state = .vacant
    ∧ s.Live
    ∧ ¬ ((s.slot 0).state = .vacant ∨ (s.slot 0).state = .seating ∨ (s.slot 0).handleOpen = true)
    ∧ (s.modSlot 0 fun _ => { s.slot 0 with handleOpen := true, latch := true }).handleActs 0 = false
    ∧ s.port.run = true
    ∧ s.journal.full = false
    ∧ s.journal.gapPending = false := by
  simp only [live_iff, ready_iff]
  decide +kernel

/-- A handle open in AWAIT-POWER. -/
theorem test_HandleRequestActs_waiting :
    let s : State := handle 0 false false (waitingAdmit 0 base)
    Inv s
    ∧ s.Live
    ∧ s.QuietBut 0
    ∧ (s.slot 0).handleOpen = false
    ∧ (s.slot 0).policy.handle = .selfRetire
    ∧ (s.slot 0).hold = false
    ∧ (s.slot 0).state = .awaitPower
    ∧ (s.slot 0).orders = [⟨9, .admitBlade, 99000⟩]
    ∧ (s.slot 0).active = true := by
  simp only [inv_iff, quietBut_iff, live_iff, ready_iff]
  decide +kernel

/-- A handle open in IN-SERVICE. -/
theorem test_HandleRequestActs_service :
    let s : State := handle 0 false false (slotIn 0 .inService base)
    Inv s
    ∧ s.Live
    ∧ s.QuietBut 0
    ∧ (s.slot 0).handleOpen = false
    ∧ (s.slot 0).policy.handle = .selfRetire
    ∧ (s.slot 0).hold = false
    ∧ (s.slot 0).state = .inService
    ∧ (s.slot 0).orders = []
    ∧ (s.slot 0).active = false
    ∧ (∀ p, nodeSlot p = 0 ∨ hubSlot p = 0 → (s.portOf p).state = .isolated) := by
  simp only [inv_iff, quietBut_iff, live_iff, ready_iff, forall_ports]
  decide +kernel

/-- A settle deadline that passes now; a slot that is not SEATING. -/
theorem test_SettleExpiry_meets :
    let s : State := (slotIn 0 .seating base).modSlot 0 fun x => { x with settle := some 100000 }
    Inv s
    ∧ s.Live
    ∧ (s.slot 0).state = .seating
    ∧ due s.time (s.slot 0).settle = true
    ∧ Inv base
    ∧ base.Live
    ∧ (base.slot 0).state ≠ .seating := by
  simp only [inv_iff, live_iff, ready_iff]
  decide +kernel

/-- A boot limit that passes now. -/
theorem test_PowerFault_boot :
    let s : State := (listed 0 [⟨9, .admitBlade, 5⟩] true (switched 0 (slotIn 0 .booting
      base))).modSlot 0 fun x => { x with boot := some 100000 }
    Inv s
    ∧ s.Live
    ∧ s.QuietBut 0
    ∧ (s.slot 0).state.payloadOn = true
    ∧ (s.slot 0).active = true
    ∧ (s.slot 0).orders.length = 1
    ∧ (s.slot 0).state = .booting
    ∧ due s.time (s.slot 0).boot = true := by
  simp only [inv_iff, quietBut_iff, live_iff, ready_iff]
  decide +kernel

/-- A ramp limit that passes now, and a trip in the ramp. -/
theorem test_PowerFault_ramp :
    let s : State := (listed 0 [⟨9, .admitBlade, 5⟩] true (switched 0 (slotIn 0 .ramping
      base))).modPower 0 fun p => { p with rampLimit := some 100000 }
    Inv s
    ∧ s.Live
    ∧ s.QuietBut 0
    ∧ (s.slot 0).state.payloadOn = true
    ∧ (s.slot 0).active = true
    ∧ (s.slot 0).orders.length = 1
    ∧ due s.time (s.pwr 0).rampLimit = true
    ∧ (s.pwr 0).switchOn = true
    ∧ (s.pwr 0).rampLimit.isSome = true := by
  simp only [inv_iff, quietBut_iff, live_iff, ready_iff]
  decide +kernel

/-- A trip and a loss of power good after the ramp, in a retirement. -/
theorem test_PowerFault_loss :
    let s : State := listed 0 [⟨9, .retire, 5⟩] true (switched 0 (slotIn 0 .quiescing base))
    Inv s
    ∧ s.Live
    ∧ s.QuietBut 0
    ∧ (s.slot 0).state.payloadOn = true
    ∧ (s.slot 0).active = true
    ∧ (s.slot 0).orders.length = 1
    ∧ (s.pwr 0).switchOn = true
    ∧ (s.pwr 0).rampLimit = none := by
  simp only [inv_iff, quietBut_iff, live_iff, ready_iff]
  decide +kernel

/-- FAULT answered in LEAVING under CUT. -/
theorem test_PowerFault_agent :
    let s : State := listed 0 [⟨9, .retire, 5⟩] true (asked 0 .probe 1 100025 (switched 0 (slotIn 0
      .leaving base)))
    Inv s
    ∧ s.Live
    ∧ s.QuietBut 0
    ∧ (s.slot 0).state.payloadOn = true
    ∧ (s.slot 0).active = true
    ∧ (s.slot 0).orders.length = 1
    ∧ (s.slot 0).policy.fault = .cut
    ∧ (s.slot 0).agentFault = false
    ∧ (s.engine 0).out = some (request .probe 1 100025)
    ∧ judgeReply .probe 3 (replyFrame .probe .report [6, 9]) = some ⟨.report, [6, 9]⟩
    ∧ AgentState.ofCode (byteAt [6, 9] 0) = some .fault := by
  simp only [inv_iff, quietBut_iff, live_iff, ready_iff]
  decide +kernel

/-- The third attempt fails in BOOTING under CUT. -/
theorem test_PowerFault_link :
    let s : State := listed 0 [⟨9, .admitBlade, 5⟩] true (asked 0 .probe 3 100000 (switched 0 (slotIn 0
      .booting base)))
    Inv s
    ∧ s.Live
    ∧ s.QuietBut 0
    ∧ (s.slot 0).state.payloadOn = true
    ∧ (s.slot 0).active = true
    ∧ (s.slot 0).orders.length = 1
    ∧ (s.slot 0).policy.fault = .cut
    ∧ (s.slot 0).state ≠ .stamping
    ∧ (s.slot 0).read = none
    ∧ (s.engine 0).link = .up
    ∧ (s.engine 0).out = some (request .probe 3 100000)
    ∧ reached s.time 100000 = true := by
  simp only [inv_iff, quietBut_iff, live_iff, ready_iff]
  decide +kernel

/-- A quiesce deadline that passes now, MIN-ON passed. -/
theorem test_RetirementPowersOff_quiesced :
    let s : State := (listed 0 [⟨9, .retire, 5⟩] true (switched 0 (slotIn 0 .quiescing base))).modSlot
      0 fun x => { x with quiesce := some 100000, retire := some ⟨17, false, false, some 9⟩ }
    Inv s
    ∧ s.Live
    ∧ s.Quiet
    ∧ s.alloc.timingAtFront = false
    ∧ (s.slot 0).latch = false
    ∧ (s.pwr 0).switchOn = true
    ∧ (s.slot 0).active = true
    ∧ (s.slot 0).orders.length = 1
    ∧ (s.slot 0).state = .quiescing
    ∧ due s.time (s.slot 0).quiesce = true
    ∧ (s.slot 0).retire.any (·.stamp) = false
    ∧ s.minOnPassed 0 = true
    ∧ (s.slot 0).orders = [⟨9, .retire, 5⟩] := by
  simp only [inv_iff, quiet_iff, live_iff, ready_iff]
  decide +kernel

/-- The same 1000 ms after power good. -/
theorem test_RetirementPowersOff_deferred :
    let s : State := ((listed 0 [⟨9, .retire, 5⟩] true (switched 0 (slotIn 0 .quiescing base))).modSlot
      0 fun x => { x with quiesce := some 100000, retire := some ⟨17, false, false, some 9⟩ }).modPower
      0 fun p => { p with goodTime := 99000, onRef := some 159000 }
    Inv s
    ∧ s.Live
    ∧ s.Quiet
    ∧ s.alloc.timingAtFront = false
    ∧ (s.slot 0).latch = false
    ∧ (s.pwr 0).switchOn = true
    ∧ (s.slot 0).active = true
    ∧ (s.slot 0).orders.length = 1
    ∧ due s.time (s.slot 0).quiesce = true
    ∧ s.minOnPassed 0 = false := by
  simp only [inv_iff, quiet_iff, live_iff, ready_iff]
  decide +kernel

/-- A deferral that passes now. -/
theorem test_RetirementPowersOff_deferral :
    let s : State := (listed 0 [⟨9, .retire, 5⟩] true (switched 0 (slotIn 0 .poweringOff
      base))).modPower 0 fun p => { p with deferral := some 100000 }
    Inv s
    ∧ s.Live
    ∧ s.Quiet
    ∧ s.alloc.timingAtFront = false
    ∧ (s.slot 0).latch = false
    ∧ (s.pwr 0).switchOn = true
    ∧ (s.slot 0).active = true
    ∧ (s.slot 0).orders.length = 1
    ∧ (s.slot 0).state = .poweringOff
    ∧ due s.time (s.pwr 0).deferral = true := by
  simp only [inv_iff, quiet_iff, live_iff, ready_iff]
  decide +kernel

/-- DRAINED answered in QUIESCING. -/
theorem test_RetirementPowersOff_drained :
    let s : State := asked 0 .probe 1 100025 ((listed 0 [⟨9, .retire, 5⟩] true (switched 0 (slotIn 0
      .quiescing base))).modSlot 0 fun x =>
      { x with quiesce := some 102000, retire := some ⟨17, false, false, some 9⟩ })
    Inv s
    ∧ s.Live
    ∧ s.Quiet
    ∧ s.alloc.timingAtFront = false
    ∧ (s.slot 0).latch = false
    ∧ (s.pwr 0).switchOn = true
    ∧ (s.slot 0).active = true
    ∧ (s.slot 0).orders.length = 1
    ∧ (s.slot 0).state = .quiescing
    ∧ (s.slot 0).retire.any (·.stamp) = false
    ∧ (s.engine 0).out = some (request .probe 1 100025)
    ∧ judgeReply .probe 3 (replyFrame .probe .report [5, 0]) = some ⟨.report, [5, 0]⟩
    ∧ AgentState.ofCode (byteAt [5, 0] 0) = some .drained
    ∧ s.minOnPassed 0 = true := by
  simp only [inv_iff, quiet_iff, live_iff, ready_iff]
  decide +kernel

/-- DRAINED answered in QUIESCING 1000 ms after power good. -/
theorem test_RetirementPowersOff_drained_deferred :
    let s : State := (asked 0 .probe 1 100025 ((listed 0 [⟨9, .retire, 5⟩] true (switched 0 (slotIn 0
      .quiescing base))).modSlot 0 fun x =>
      { x with quiesce := some 102000, retire := some ⟨17, false, false, some 9⟩ })).modPower 0 fun p
      => { p with goodTime := 99000, onRef := some 159000 }
    Inv s
    ∧ s.Live
    ∧ s.Quiet
    ∧ s.alloc.timingAtFront = false
    ∧ (s.slot 0).latch = false
    ∧ (s.pwr 0).switchOn = true
    ∧ (s.slot 0).active = true
    ∧ (s.slot 0).orders.length = 1
    ∧ (s.slot 0).state = .quiescing
    ∧ (s.slot 0).retire.any (·.stamp) = false
    ∧ (s.engine 0).out = some (request .probe 1 100025)
    ∧ s.minOnPassed 0 = false := by
  simp only [inv_iff, quiet_iff, live_iff, ready_iff]
  decide +kernel

/-- A quiesce deadline with STAMP on a link that is UP. -/
theorem test_StampDeadlines_quiesced :
    let s : State := up 0 ((slotIn 0 .quiescing base).modSlot 0 fun x =>
      { x with quiesce := some 100000, retire := some ⟨17, false, true, none⟩ })
    Inv s
    ∧ s.Live
    ∧ (s.slot 0).state = .quiescing
    ∧ due s.time (s.slot 0).quiesce = true
    ∧ (s.slot 0).retire = some ⟨17, false, true, none⟩
    ∧ s.linkUp 0 = true := by
  simp only [inv_iff, live_iff, ready_iff]
  decide +kernel

/-- A probe pause that passes now, and a program limit, 1000 ms after power good. -/
theorem test_StampDeadlines_stamping :
    let s : State := ((slotIn 0 .stamping base).modSlot 0 fun x =>
      { x with stamp := some ⟨.programming, 2, [], some 100000, some 100000⟩ }).modPower 0 fun p =>
      { p with goodTime := 99000, onRef := some 159000 }
    Inv s
    ∧ s.Live
    ∧ (s.slot 0).stamp = some ⟨.programming, 2, [], some 100000, some 100000⟩
    ∧ due s.time (some 100000) = true
    ∧ s.minOnPassed 0 = false := by
  simp only [inv_iff, live_iff, ready_iff]
  decide +kernel

/-- A probe pause that passes now on a link that is UP, with no PROBE and with one. -/
theorem test_StampDeadlines_pause :
    let s : State := up 0 ((slotIn 0 .stamping base).modSlot 0 fun x =>
      { x with stamp := some ⟨.programming, 2, [], none, some 100000⟩ })
    let u := asked 0 .probe 1 100025 s
    Inv s ∧ Inv u
    ∧ s.Live ∧ u.Live
    ∧ (s.slot 0).stamp = some ⟨.programming, 2, [], none, some 100000⟩
    ∧ (u.slot 0).stamp = some ⟨.programming, 2, [], none, some 100000⟩
    ∧ due s.time (some 100000) = true
    ∧ s.linkUp 0 = true ∧ (s.engine 0).probing = false
    ∧ u.linkUp 0 = true ∧ (u.engine 0).probing = true := by
  simp only [inv_iff, live_iff, ready_iff]
  decide +kernel

/-- OK to ROW-LOAD, and BUSY. -/
theorem test_StampReply_load :
    let s : State := (asked 0 (.rowLoad 2 (serviceRow 4 0 0 17 3 3)) 1 100025 (slotIn 0 .stamping
      base)).modSlot 0 fun x =>
      { x with stamp := some ⟨.load, 2, (serviceRow 4 0 0 17 3 3), none, none⟩ }
    Inv s
    ∧ s.Live
    ∧ (s.slot 0).stamp = some ⟨.load, 2, (serviceRow 4 0 0 17 3 3), none, none⟩
    ∧ s.linkUp 0 = true
    ∧ (s.engine 0).out = some (request (.rowLoad 2 (serviceRow 4 0 0 17 3 3)) 1 100025)
    ∧ judgeReply (.rowLoad 2 (serviceRow 4 0 0 17 3 3)) 3 (replyFrame (.rowLoad 2 (serviceRow 4 0 0 17
      3 3)) .ok []) = some ⟨.ok, []⟩
    ∧ judgeReply (.rowLoad 2 (serviceRow 4 0 0 17 3 3)) 3 (replyFrame (.rowLoad 2 (serviceRow 4 0 0 17
      3 3)) .busy []) = some ⟨.busy, []⟩
    ∧ Msg.isOwn (.rowLoad 2 (serviceRow 4 0 0 17 3 3)) = true := by
  simp only [inv_iff, live_iff, ready_iff]
  decide +kernel

/-- OK to ROW-COMMIT, and NO-LOAD, 1000 ms after power good. -/
theorem test_StampReply_commit :
    let s : State := (asked 0 (.rowCommit 2) 1 100025 (slotIn 0 .stamping base)).modSlot 0 fun x =>
      { x with stamp := some ⟨.commit, 2, (serviceRow 4 0 0 17 3 3), none, none⟩ }
    Inv s
    ∧ s.Live
    ∧ (s.slot 0).stamp = some ⟨.commit, 2, (serviceRow 4 0 0 17 3 3), none, none⟩
    ∧ s.linkUp 0 = true
    ∧ (s.engine 0).out = some (request (.rowCommit 2) 1 100025)
    ∧ judgeReply (.rowCommit 2) 3 (replyFrame (.rowCommit 2) .ok []) = some ⟨.ok, []⟩
    ∧ judgeReply (.rowCommit 2) 3 (replyFrame (.rowCommit 2) .noLoad []) = some ⟨.noLoad, []⟩
    ∧ Inv (s.modPower 0 fun p => { p with goodTime := 99000, onRef := some 159000 })
    ∧ State.minOnPassed (s.modPower 0 fun p => { p with goodTime := 99000, onRef := some 159000 }) 0 =
      false := by
  simp only [inv_iff, live_iff, ready_iff]
  decide +kernel

/-- PROGRAMMING, and READY. -/
theorem test_StampReply_programming :
    let s : State := (asked 0 .probe 1 100025 (slotIn 0 .stamping base)).modSlot 0 fun x =>
      { x with stamp := some ⟨.programming, 2, (serviceRow 4 0 0 17 3 3), none, none⟩ }
    Inv s
    ∧ s.Live
    ∧ (s.slot 0).stamp = some ⟨.programming, 2, (serviceRow 4 0 0 17 3 3), none, none⟩
    ∧ s.linkUp 0 = true
    ∧ (s.engine 0).out = some (request .probe 1 100025)
    ∧ judgeReply .probe 3 (replyFrame .probe .report [7, 0]) = some ⟨.report, [7, 0]⟩
    ∧ AgentState.ofCode (byteAt [7, 0] 0) = some .programming
    ∧ AgentState.ofCode (byteAt [3, 0] 0) = some .ready
    ∧ AgentState.ready ≠ .fault := by
  simp only [inv_iff, live_iff, ready_iff]
  decide +kernel

/-- The page read back shows the row, and does not. -/
theorem test_StampReply_verify :
    let s : State := (asked 0 (.identPage 6) 1 100025 (slotIn 0 .stamping base)).modSlot 0 fun x =>
      { x with stamp := some ⟨.verify, 2, (serviceRow 4 0 0 17 3 3), none, none⟩ }
    Inv s
    ∧ s.Live
    ∧ (s.slot 0).stamp = some ⟨.verify, 2, (serviceRow 4 0 0 17 3 3), none, none⟩
    ∧ s.linkUp 0 = true
    ∧ (s.engine 0).out = some (request (.identPage 6) 1 100025)
    ∧ judgeReply (.identPage 6) 3 (replyFrame (.identPage 6) .ok (List.replicate 16 0 ++ (serviceRow 4
      0 0 17 3 3) ++ List.replicate 8 0)) = some
      ⟨.ok, (List.replicate 16 0 ++ (serviceRow 4 0 0 17 3 3) ++ List.replicate 8 0)⟩
    ∧ (((List.replicate 16 0 ++ (serviceRow 4 0 0 17 3 3) ++ List.replicate 8 0) : List Byte).drop (8 *
      ((2 : Fin 8).val % 4))).take 8 = (serviceRow 4 0 0 17 3 3)
    ∧ ((List.replicate 32 0 : List Byte).drop (8 * ((2 : Fin 8).val % 4))).take 8 ≠ (serviceRow 4 0 0
      17 3 3)
    ∧ Inv (s.modPower 0 fun p => { p with goodTime := 99000, onRef := some 159000 })
    ∧ State.minOnPassed (s.modPower 0 fun p => { p with goodTime := 99000, onRef := some 159000 }) 0 =
      false := by
  simp only [inv_iff, live_iff, ready_iff]
  decide +kernel

/-- A program limit that passes now, MIN-ON passed. -/
theorem test_StampEnds_limit :
    let s : State := (listed 0 [⟨9, .retire, 5⟩] true (switched 0 (slotIn 0 .stamping base))).modSlot 0
      fun x => { x with stamp := some ⟨.programming, 2, (serviceRow 4 0 0 17 3 3), none, some 100000⟩ }
    Inv s
    ∧ s.Live
    ∧ s.Quiet
    ∧ s.alloc.timingAtFront = false
    ∧ (s.slot 0).latch = false
    ∧ (s.pwr 0).switchOn = true
    ∧ (s.slot 0).active = true
    ∧ (s.slot 0).orders.length = 1
    ∧ (s.slot 0).stamp = some ⟨.programming, 2, (serviceRow 4 0 0 17 3 3), none, some 100000⟩
    ∧ due s.time (some 100000) = true
    ∧ s.minOnPassed 0 = true := by
  simp only [inv_iff, quiet_iff, live_iff, ready_iff]
  decide +kernel

/-- NO-LOAD to ROW-COMMIT, MIN-ON passed. -/
theorem test_StampEnds_commit :
    let s : State := (listed 0 [⟨9, .retire, 5⟩] true (asked 0 (.rowCommit 2) 1 100025 (switched 0
      (slotIn 0 .stamping base)))).modSlot 0 fun x =>
      { x with stamp := some ⟨.commit, 2, (serviceRow 4 0 0 17 3 3), none, none⟩ }
    Inv s
    ∧ s.Live
    ∧ s.Quiet
    ∧ s.alloc.timingAtFront = false
    ∧ (s.slot 0).latch = false
    ∧ (s.pwr 0).switchOn = true
    ∧ (s.slot 0).active = true
    ∧ (s.slot 0).orders.length = 1
    ∧ (s.slot 0).stamp = some ⟨.commit, 2, (serviceRow 4 0 0 17 3 3), none, none⟩
    ∧ s.linkUp 0 = true
    ∧ (s.engine 0).out = some (request (.rowCommit 2) 1 100025)
    ∧ judgeReply (.rowCommit 2) 3 (replyFrame (.rowCommit 2) .noLoad []) = some ⟨.noLoad, []⟩
    ∧ s.minOnPassed 0 = true := by
  simp only [inv_iff, quiet_iff, live_iff, ready_iff]
  decide +kernel

/-- The page read back shows the row, MIN-ON passed. -/
theorem test_StampEnds_verify :
    let s : State := (listed 0 [⟨9, .retire, 5⟩] true (asked 0 (.identPage 6) 1 100025 (switched 0
      (slotIn 0 .stamping base)))).modSlot 0 fun x =>
      { x with stamp := some ⟨.verify, 2, (serviceRow 4 0 0 17 3 3), none, none⟩ }
    Inv s
    ∧ s.Live
    ∧ s.Quiet
    ∧ s.alloc.timingAtFront = false
    ∧ (s.slot 0).latch = false
    ∧ (s.pwr 0).switchOn = true
    ∧ (s.slot 0).active = true
    ∧ (s.slot 0).orders.length = 1
    ∧ (s.slot 0).stamp = some ⟨.verify, 2, (serviceRow 4 0 0 17 3 3), none, none⟩
    ∧ s.linkUp 0 = true
    ∧ (s.engine 0).out = some (request (.identPage 6) 1 100025)
    ∧ judgeReply (.identPage 6) 3 (replyFrame (.identPage 6) .ok (List.replicate 16 0 ++ (serviceRow 4
      0 0 17 3 3) ++ List.replicate 8 0)) = some
      ⟨.ok, (List.replicate 16 0 ++ (serviceRow 4 0 0 17 3 3) ++ List.replicate 8 0)⟩
    ∧ s.minOnPassed 0 = true := by
  simp only [inv_iff, quiet_iff, live_iff, ready_iff]
  decide +kernel

/-- A quiesce deadline with STAMP on a LOST link, MIN-ON passed and not. -/
theorem test_StampEnds_skipped :
    let s : State := (listed 0 [⟨9, .retire, 5⟩] true (switched 0 ((slotIn 0 .quiescing base).modEngine
      0 fun e => { e with link := .lost }))).modSlot 0 fun x =>
      { x with quiesce := some 100000, retire := some ⟨17, false, true, some 9⟩ }
    Inv s
    ∧ s.Live
    ∧ s.Quiet
    ∧ s.alloc.timingAtFront = false
    ∧ (s.slot 0).latch = false
    ∧ (s.pwr 0).switchOn = true
    ∧ (s.slot 0).active = true
    ∧ (s.slot 0).orders.length = 1
    ∧ (s.slot 0).state = .quiescing
    ∧ due s.time (s.slot 0).quiesce = true
    ∧ (s.slot 0).retire.any (·.stamp) = true
    ∧ s.linkUp 0 = false
    ∧ s.minOnPassed 0 = true
    ∧ Inv (s.modPower 0 fun p => { p with goodTime := 99000, onRef := some 159000 })
    ∧ (s.modPower 0 fun p => { p with goodTime := 99000, onRef := some 159000 }).minOnPassed 0 = false
      := by
  simp only [inv_iff, quiet_iff, live_iff, ready_iff]
  decide +kernel

/-- A wait deadline that passes now; an entry without one. -/
theorem test_WaitDeadline_meets :
    let s : State := queued 0 (some 100000) 100 (waitingAdmit 0 base)
    Inv s
    ∧ s.Live
    ∧ s.QuietBut 0
    ∧ (s.slot 0).state = .awaitPower
    ∧ (s.slot 0).orders = [⟨9, .admitBlade, 99000⟩]
    ∧ (s.slot 0).active = true
    ∧ ∃ q ∈ s.alloc.queue, due s.time q.deadline = true
    ∧ Inv (waitingAdmit 0 base)
    ∧ ∀ q ∈ (waitingAdmit 0 base).alloc.queue, q.slot = 0 → due (waitingAdmit 0 base).time q.deadline =
      false := by
  simp only [inv_iff, quietBut_iff, live_iff, ready_iff]
  decide +kernel

/-- A re-examination that passes now with a claim of 801 W; one that has not passed. -/
theorem test_Reexamination_fails :
    let s : State := (queued 0 none 801 (waitingAdmit 0 base)).modAlloc fun a =>
      { a with reexam := some 100000 }
    Inv s
    ∧ s.Live
    ∧ due s.time s.alloc.reexam = true
    ∧ s.alloc.queue = [⟨0, 0, 99000, none, 801⟩]
    ∧ examination s ⟨0, 0, 99000, none, 801⟩ = some .budget
    ∧ due base.time base.alloc.reexam = false := by
  simp only [inv_iff, live_iff, ready_iff]
  decide +kernel

/-- The same with a claim of 800 W. -/
theorem test_Reexamination_grants :
    let s : State := (queued 0 none 800 (waitingAdmit 0 base)).modAlloc fun a =>
      { a with reexam := some 100000 }
    Inv s
    ∧ s.Live
    ∧ due s.time s.alloc.reexam = true
    ∧ s.alloc.queue = [⟨0, 0, 99000, none, 800⟩]
    ∧ examination s ⟨0, 0, 99000, none, 800⟩ = none
    ∧ (s.pinsOf 0).powerGood = false
    ∧ (s.slot 0).state = .awaitPower := by
  simp only [inv_iff, live_iff, ready_iff]
  decide +kernel

/-- A state for each test that fails, the tests before it passed. -/
theorem test_Examination_reasons :
    let s : State := queued 0 none 800 (waitingAdmit 0 base)
    examination
      { s with straps := { base.straps with feedHold := true }, alloc := { s.alloc with feedBLost := true } }
      ⟨0, 0, 99000, none, 800⟩ = some .feed
    ∧ examination (s.modPower 0 fun p => { p with offRef := some 159000, offTime := 99000 })
      ⟨0, 0, 99000, none, 800⟩ = some .cooling
    ∧ examination { s with history := [99961] } ⟨0, 0, 99000, none, 800⟩ = some .pacing
    ∧ examination (s.modAlloc fun a => { a with shelf := [⟨11, .setTiming, 7⟩] })
      ⟨0, 0, 99000, none, 800⟩ = some .setting := by
  intro s
  decide +kernel

/-- Four entries inside the window of 500 ms, the newest 30 ms old. -/
theorem test_Pacing_meets :
    ([99700, 99750, 99900, 99970] : List Time).all (fun e => decide (((100000 : Time) - e).toNat <
      2147483648)) = true
    ∧ List.Pairwise (fun a b : Time => ((100000 : Time) - b).toNat ≤ ((100000 : Time) - a).toNat)
      [99700, 99750, 99900, 99970]
    ∧ pacingPermits Settings.powerOn [99700, 99750, 99900, 99970] 100000 = false := by
  decide +kernel

/-- A level equal to the state of a feed, and one that differs. -/
theorem test_FeedChanges_meets :
    Inv base
    ∧ base.Live
    ∧ base.alloc.feedLost .a = false
    ∧ base.alloc.feedLost .a ≠ true
    ∧ base.alloc.queue = []
    ∧ base.port.run = true
    ∧ base.journal.full = false
    ∧ base.journal.gapPending = false := by
  simp only [inv_iff, live_iff, ready_iff]
  decide +kernel

/-- A slot in its ramp, and one with no ramp. -/
theorem test_PowerGoodBeginsBoot_meets :
    let s : State := ramping 0 base
    Inv s
    ∧ s.Live
    ∧ (s.pwr 0).rampLimit ≠ none
    ∧ (s.slot 0).state = .ramping
    ∧ s.alloc.timingAtFront = false
    ∧ (base.pwr 0).rampLimit = none := by
  simp only [inv_iff, live_iff, ready_iff]
  decide +kernel

/-- An active ADMIT with a boot limit override of 7 s, and one with a boot hint in its place. -/
theorem test_PowerGoodBeginsBoot_limit :
    let s : State :=
      { listed 0 [⟨9, .admitBlade, 5⟩] true (ramping 0 base) with mem := [(cellOffset 9 + 0x10, 7)] }
    Inv s
    ∧ State.Live s
    ∧ ((State.slot s 0).orders = [⟨9, .admitBlade, 5⟩])
    ∧ (State.slot s 0).active = true
    ∧ (State.rd8 s 9 0x10).toNat = 7
    ∧ (((s : State).modSlot 0 fun x => { x with ident := { x.ident with bootHint := 5 } }).slot
      0).ident.bootHint.toNat = 5
    ∧ (State.rd8 { s with mem := [] } 9 0x10).toNat = 0 := by
  simp only [inv_iff, live_iff, ready_iff]
  decide +kernel

/-- A minute that passes now, a history entry of the age, a blinking slot; and none of them. -/
theorem test_SimpleDeadlines_meets :
    let s : State :=
      { ((slotIn 0 .leaving (switched 0 base)).modPower 0 fun p => { p with minute := some 100000 }) with history := [100000 - 2147483648] }
    s.Live
    ∧ due s.time (s.pwr 0).minute = true
    ∧ s.history = [100000 - 2147483648]
    ∧ 2147483648 ≤ ((100000 : Time) - (100000 - 2147483648)).toNat
    ∧ (s.slot 0).blink = some ⟨true, 100500⟩
    ∧ base.Live
    ∧ due base.time (base.pwr 0).minute = false
    ∧ base.history = []
    ∧ (base.slot 0).blink = none := by
  simp only [live_iff, ready_iff]
  decide +kernel

/-- A reset hold and the horizons of both references that pass now. -/
theorem test_SimpleDeadlines_power :
    let s : State := base.modPower 0 fun p =>
      { p with switchOn := true, resetHold := some 100000, onRef := some 100000, offRef := some 100000 }
    s.Live
    ∧ due s.time (s.pwr 0).resetHold = true
    ∧ due s.time (s.pwr 0).onRef = true
    ∧ due s.time (s.pwr 0).offRef = true := by
  simp only [live_iff, ready_iff]
  decide +kernel

/-- An offer that lapses now, its ADMIT queued and not queued. -/
theorem test_PortDeadlines_offer :
    let s : State := up 14 (port ⟨0, 0⟩ .offered (some 100000) (slotIn 0 .inService base))
    Inv s
    ∧ s.Live
    ∧ s.KeepsCourse ⟨0, 0⟩
    ∧ (s.portOf ⟨0, 0⟩).state = .offered
    ∧ due s.time (s.portOf ⟨0, 0⟩).deadline = true
    ∧ s.linkUp (hubSlot ⟨0, 0⟩) = true
    ∧ (s.engine (hubSlot ⟨0, 0⟩)).queued (fun m => decide (m = .admitNode 0)) = false
    ∧ ((enqueue 14 (.admitNode 0) .coordinator (asked 14 .probe 1 100025 s)).engine (hubSlot ⟨0, 0⟩)).queued
      (fun m => decide (m = .admitNode 0)) = true := by
  simp only [inv_iff, live_iff, ready_iff, keepsCourse_iff]
  decide +kernel

/-- A drain deadline of a CLOSING port that passes now, its node LEAVING in no GENTLE retirement. -/
theorem test_PortDeadlines_drain_closing_node :
    let s : State := up 0 (up 14 (port ⟨0, 1⟩ .closing (some 101000) (port ⟨0, 0⟩ .closing (some
      100000) (slotIn 0 .leaving base))))
    Inv s
    ∧ s.Live
    ∧ s.KeepsCourse ⟨0, 0⟩
    ∧ (s.portOf ⟨0, 0⟩).state = .closing
    ∧ due s.time (s.portOf ⟨0, 0⟩).deadline = true
    ∧ ∃ j ∈ s.leavingSlots ⟨0, 0⟩, s.gentle j = false
    ∧ s.bothOffering ⟨0, 0⟩ = false
    ∧ (s.slot 0).state ≠ .vacant
    ∧ s.linkUp 0 = true
    ∧ s.linkUp 14 = true
    ∧ s.port.run = true
    ∧ s.journal.full = false
    ∧ s.journal.gapPending = false := by
  simp only [inv_iff, live_iff, ready_iff, keepsCourse_iff]
  decide +kernel

/-- A drain deadline of a CLOSING port that passes now, its hub LEAVING in no GENTLE retirement. -/
theorem test_PortDeadlines_drain_closing_hub :
    let s : State := up 0 (up 14 (port ⟨1, 0⟩ .closing (some 101000) (port ⟨0, 0⟩ .closing (some
      100000) (slotIn 14 .leaving (slotIn 0 .inService base)))))
    Inv s
    ∧ s.Live
    ∧ s.KeepsCourse ⟨0, 0⟩
    ∧ (s.portOf ⟨0, 0⟩).state = .closing
    ∧ due s.time (s.portOf ⟨0, 0⟩).deadline = true
    ∧ ∃ j ∈ s.leavingSlots ⟨0, 0⟩, s.gentle j = false
    ∧ s.bothOffering ⟨0, 0⟩ = false
    ∧ (s.slot 0).state ≠ .vacant
    ∧ s.linkUp 0 = true
    ∧ s.linkUp 14 = true
    ∧ s.port.run = true
    ∧ s.journal.full = false
    ∧ s.journal.gapPending = false := by
  simp only [inv_iff, live_iff, ready_iff, keepsCourse_iff]
  decide +kernel

/-- The same with no slot LEAVING. -/
theorem test_PortDeadlines_drain_closing_none :
    let s : State := port ⟨0, 0⟩ .closing (some 100000) base
    Inv s
    ∧ s.Live
    ∧ s.KeepsCourse ⟨0, 0⟩
    ∧ s.leavingSlots ⟨0, 0⟩ = []
    ∧ (s.portOf ⟨0, 0⟩).state = .closing
    ∧ s.bothOffering ⟨0, 0⟩ = false := by
  simp only [inv_iff, live_iff, ready_iff, keepsCourse_iff]
  decide +kernel

/-- A drain deadline of a WITHDRAWING port that passes now, its node LEAVING in no GENTLE retirement. -/
theorem test_PortDeadlines_drain_withdrawing_node :
    let s : State := up 0 (up 14 (port ⟨0, 1⟩ .closing (some 101000) (port ⟨0, 0⟩ .withdrawing (some
      100000) (slotIn 0 .leaving base))))
    Inv s
    ∧ s.Live
    ∧ s.KeepsCourse ⟨0, 0⟩
    ∧ (s.portOf ⟨0, 0⟩).state = .withdrawing
    ∧ due s.time (s.portOf ⟨0, 0⟩).deadline = true
    ∧ ∃ j ∈ s.leavingSlots ⟨0, 0⟩, s.gentle j = false
    ∧ s.bothOffering ⟨0, 0⟩ = false
    ∧ (s.slot 0).state ≠ .vacant
    ∧ s.linkUp 0 = true
    ∧ s.linkUp 14 = true
    ∧ s.port.run = true
    ∧ s.journal.full = false
    ∧ s.journal.gapPending = false := by
  simp only [inv_iff, live_iff, ready_iff, keepsCourse_iff]
  decide +kernel

/-- A drain deadline of a WITHDRAWING port that passes now, its hub LEAVING in no GENTLE retirement. -/
theorem test_PortDeadlines_drain_withdrawing_hub :
    let s : State := up 0 (up 14 (port ⟨1, 0⟩ .closing (some 101000) (port ⟨0, 0⟩ .withdrawing (some
      100000) (slotIn 14 .leaving (slotIn 0 .inService base)))))
    Inv s
    ∧ s.Live
    ∧ s.KeepsCourse ⟨0, 0⟩
    ∧ (s.portOf ⟨0, 0⟩).state = .withdrawing
    ∧ due s.time (s.portOf ⟨0, 0⟩).deadline = true
    ∧ ∃ j ∈ s.leavingSlots ⟨0, 0⟩, s.gentle j = false
    ∧ s.bothOffering ⟨0, 0⟩ = false
    ∧ (s.slot 0).state ≠ .vacant
    ∧ s.linkUp 0 = true
    ∧ s.linkUp 14 = true
    ∧ s.port.run = true
    ∧ s.journal.full = false
    ∧ s.journal.gapPending = false := by
  simp only [inv_iff, live_iff, ready_iff, keepsCourse_iff]
  decide +kernel

/-- The same with no slot LEAVING. -/
theorem test_PortDeadlines_drain_withdrawing_none :
    let s : State := port ⟨0, 0⟩ .withdrawing (some 100000) base
    Inv s
    ∧ s.Live
    ∧ s.KeepsCourse ⟨0, 0⟩
    ∧ s.leavingSlots ⟨0, 0⟩ = []
    ∧ (s.portOf ⟨0, 0⟩).state = .withdrawing
    ∧ s.bothOffering ⟨0, 0⟩ = false := by
  simp only [inv_iff, live_iff, ready_iff, keepsCourse_iff]
  decide +kernel

/-- A port in neither state. -/
theorem test_PortDeadlines_stand :
    Inv base
    ∧ base.Live
    ∧ base.Quiet
    ∧ (base.portOf ⟨0, 0⟩).state ≠ .offered
    ∧ (base.portOf ⟨0, 0⟩).state ≠ .closing
    ∧ (base.portOf ⟨0, 0⟩).state ≠ .withdrawing := by
  simp only [inv_iff, quiet_iff, live_iff, ready_iff]
  decide +kernel

/-- A GENTLE retirement with a CLOSING port whose drain deadline passes now. -/
theorem test_GentleDrainAborts_closing :
    let s : State := port ⟨0, 0⟩ .closing (some 100000) (listed 0 [⟨9, .retire, 5⟩] true (slotIn 14
      .inService ((slotIn 0 .leaving base).modSlot 0 fun x =>
      { x with retire := some ⟨17, true, false, some 9⟩ })))
    Inv s
    ∧ s.Live
    ∧ s.QuietBut (nodeSlot ⟨0, 0⟩)
    ∧ (s.slot (nodeSlot ⟨0, 0⟩)).state = .leaving
    ∧ (s.slot (hubSlot ⟨0, 0⟩)).state = .inService
    ∧ (s.slot (nodeSlot ⟨0, 0⟩)).orders = [⟨9, .retire, 5⟩]
    ∧ (s.slot (nodeSlot ⟨0, 0⟩)).active = true
    ∧ (s.slot (nodeSlot ⟨0, 0⟩)).latch = false
    ∧ (s.slot (nodeSlot ⟨0, 0⟩)).retire = some ⟨17, true, false, some 9⟩
    ∧ (s.portOf ⟨0, 0⟩).state = .closing
    ∧ due s.time (s.portOf ⟨0, 0⟩).deadline = true := by
  simp only [inv_iff, quietBut_iff, live_iff, ready_iff]
  decide +kernel

/-- A GENTLE retirement with a WITHDRAWING port whose drain deadline passes now. -/
theorem test_GentleDrainAborts_withdrawing :
    let s : State := port ⟨0, 0⟩ .withdrawing (some 100000) (listed 0 [⟨9, .retire, 5⟩] true (slotIn 14
      .inService ((slotIn 0 .leaving base).modSlot 0 fun x =>
      { x with retire := some ⟨17, true, false, some 9⟩ })))
    Inv s
    ∧ s.Live
    ∧ s.QuietBut (nodeSlot ⟨0, 0⟩)
    ∧ (s.slot (nodeSlot ⟨0, 0⟩)).state = .leaving
    ∧ (s.slot (hubSlot ⟨0, 0⟩)).state = .inService
    ∧ (s.slot (nodeSlot ⟨0, 0⟩)).orders = [⟨9, .retire, 5⟩]
    ∧ (s.slot (nodeSlot ⟨0, 0⟩)).active = true
    ∧ (s.slot (nodeSlot ⟨0, 0⟩)).latch = false
    ∧ (s.slot (nodeSlot ⟨0, 0⟩)).retire = some ⟨17, true, false, some 9⟩
    ∧ (s.portOf ⟨0, 0⟩).state = .withdrawing
    ∧ due s.time (s.portOf ⟨0, 0⟩).deadline = true := by
  simp only [inv_iff, quietBut_iff, live_iff, ready_iff]
  decide +kernel

/-- No request; a second attempt whose deadline passes now and a frame that is no reply; a deadline
ahead; a notification. -/
theorem test_FailedAttempts_meets :
    let s : State := asked 0 (.identPage 0) 2 100000 base
    base.Live
    ∧ (base.engine 0).out = none
    ∧ s.Live
    ∧ (s.engine 0).out = some (request (.identPage 0) 2 100000)
    ∧ reached s.time 100000 = true
    ∧ judgeReply (.identPage 0) 3 [1, 2] = none
    ∧ reached base.time 100001 = false
    ∧ Msg.isNotification (.drop 0) = true
    ∧ Msg.isNotification (.identPage 0) = false := by
  simp only [live_iff, ready_iff]
  decide +kernel

/-- An overtaken request whose reply deadline passes now, and a frame that is no reply to it. -/
theorem test_FailedAttempts_overtaken :
    let s : State := (slotIn 0 .parked base).modEngine 0 fun e =>
      { e with link := .up, out := some ⟨.identPage 0, .sequencer, 3, 2, 100000, false, false⟩ }
    s.Live
    ∧ (s.engine 0).out = some ⟨.identPage 0, .sequencer, 3, 2, 100000, false, false⟩
    ∧ reached s.time 100000 = true
    ∧ judgeReply (.identPage 0) 3 [1, 2] = none
    ∧ Msg.identPage 0 ≠ Msg.probe := by
  simp only [live_iff, ready_iff]
  decide +kernel

/-- ACCEPT and REFUSE of an offer. -/
theorem test_Handshake_offered :
    let s : State := port ⟨0, 0⟩ .offered (some 102000) (up 0 (asked 14 (.admitNode 0) 1 100025 (slotIn
      0 .inService (slotIn 14 .inService base))))
    Inv s
    ∧ s.Live
    ∧ s.KeepsCourse ⟨0, 0⟩
    ∧ (s.engine (hubSlot ⟨0, 0⟩)).out = some (request (.admitNode 0) 1 100025)
    ∧ judgeReply (.admitNode 0) 3 (replyFrame (.admitNode 0) .accept []) = some ⟨.accept, []⟩
    ∧ judgeReply (.admitNode 0) 3 (replyFrame (.admitNode 0) .refuse []) = some ⟨.refuse, []⟩
    ∧ (s.portOf ⟨0, 0⟩).state = .offered
    ∧ s.bothOffering ⟨0, 0⟩ = true
    ∧ s.linkUp (nodeSlot ⟨0, 0⟩) = true
    ∧ (s.engine (nodeSlot ⟨0, 0⟩)).queued (fun m => decide (m = .pathClose 0)) = false := by
  simp only [inv_iff, live_iff, ready_iff, keepsCourse_iff]
  decide +kernel

/-- OK to PATH-OPEN. -/
theorem test_Handshake_opening :
    let s : State := port ⟨0, 0⟩ .opening none (asked 0 (.pathOpen 0) 1 100025 (slotIn 0 .inService
      (slotIn 14 .inService base)))
    Inv s
    ∧ s.Live
    ∧ s.KeepsCourse ⟨0, 0⟩
    ∧ (s.engine (nodeSlot ⟨0, 0⟩)).out = some (request (.pathOpen 0) 1 100025)
    ∧ judgeReply (.pathOpen 0) 3 (replyFrame (.pathOpen 0) .ok []) = some ⟨.ok, []⟩
    ∧ (s.portOf ⟨0, 0⟩).state = .opening := by
  simp only [inv_iff, live_iff, ready_iff, keepsCourse_iff]
  decide +kernel

/-- CLEAR to WITHDRAW, and PENDING, the node LEAVING. -/
theorem test_Handshake_withdrawing :
    let s : State := port ⟨0, 0⟩ .withdrawing (some 102000) (asked 14 (.withdraw 0) 1 100025 (port
      ⟨0, 1⟩ .withdrawing (some 102000) (slotIn 14 .inService (slotIn 0 .leaving base))))
    Inv s
    ∧ s.Live
    ∧ s.KeepsCourse ⟨0, 0⟩
    ∧ (s.engine (hubSlot ⟨0, 0⟩)).out = some (request (.withdraw 0) 1 100025)
    ∧ judgeReply (.withdraw 0) 3 (replyFrame (.withdraw 0) .clear []) = some ⟨.clear, []⟩
    ∧ judgeReply (.withdraw 0) 3 (replyFrame (.withdraw 0) .pending []) = some ⟨.pending, []⟩
    ∧ (s.portOf ⟨0, 0⟩).state = .withdrawing
    ∧ s.bothOffering ⟨0, 0⟩ = false
    ∧ s.linkUp 14 = true := by
  simp only [inv_iff, live_iff, ready_iff, keepsCourse_iff]
  decide +kernel

/-- OK to PATH-CLOSE, and PENDING. -/
theorem test_Handshake_closing :
    let s : State := port ⟨0, 0⟩ .closing (some 102000) (up 14 (asked 0 (.pathClose 0) 1 100025 (port
      ⟨0, 1⟩ .withdrawing (some 102000) (slotIn 14 .inService (slotIn 0 .leaving base)))))
    Inv s
    ∧ s.Live
    ∧ s.KeepsCourse ⟨0, 0⟩
    ∧ (s.engine (nodeSlot ⟨0, 0⟩)).out = some (request (.pathClose 0) 1 100025)
    ∧ judgeReply (.pathClose 0) 3 (replyFrame (.pathClose 0) .ok []) = some ⟨.ok, []⟩
    ∧ judgeReply (.pathClose 0) 3 (replyFrame (.pathClose 0) .pending []) = some ⟨.pending, []⟩
    ∧ (s.portOf ⟨0, 0⟩).state = .closing
    ∧ s.linkUp (hubSlot ⟨0, 0⟩) = true
    ∧ s.linkUp 0 = true
    ∧ (s.engine (hubSlot ⟨0, 0⟩)).queued (fun m => decide (m = .admitNode 0)) = false := by
  simp only [inv_iff, live_iff, ready_iff, keepsCourse_iff]
  decide +kernel

/-- LATER of an offer, and BUSY of an own request. -/
theorem test_Handshake_put_back :
    let s : State := asked 0 (.identPage 3) 1 100025 (slotIn 0 .parked base)
    judgeReply (.admitNode 0) 3 (replyFrame (.admitNode 0) .later []) = some ⟨.later, []⟩
    ∧ Inv s
    ∧ s.Live
    ∧ (s.engine 0).out = some (request (.identPage 3) 1 100025)
    ∧ judgeReply (.identPage 3) 3 (replyFrame (.identPage 3) .busy []) = some ⟨.busy, []⟩
    ∧ Msg.isOwn (.identPage 3) = true
    ∧ (s.slot 0).stamp = none
    ∧ s.linkUp 0 = true := by
  simp only [inv_iff, live_iff, ready_iff]
  decide +kernel

/-- DRAINED in PARKED. -/
theorem test_ProbeAnswer_recorded :
    let s : State := asked 0 .probe 1 100025 (slotIn 0 .parked base)
    Inv s
    ∧ s.Live
    ∧ (s.engine 0).out = some (request .probe 1 100025)
    ∧ judgeReply .probe 3 (replyFrame .probe .report [5, 0]) = some ⟨.report, [5, 0]⟩
    ∧ AgentState.ofCode (byteAt [5, 0] 0) = some .drained
    ∧ (s.slot 0).state ∉ [SlotState.booting, .quiescing, .stamping, .resuming] := by
  simp only [inv_iff, live_iff, ready_iff]
  decide +kernel

/-- FAULT in IN-SERVICE under NOTIFY. -/
theorem test_ProbeAnswer_fault :
    let s : State := (asked 0 .probe 1 100025 (slotIn 0 .inService base)).modSlot 0 fun x =>
      { x with policy := ⟨.notify, .notify, false⟩ }
    Inv s
    ∧ s.Live
    ∧ (s.engine 0).out = some (request .probe 1 100025)
    ∧ judgeReply .probe 3 (replyFrame .probe .report [6, 9]) = some ⟨.report, [6, 9]⟩
    ∧ AgentState.ofCode (byteAt [6, 9] 0) = some .fault
    ∧ (s.slot 0).state ∉ [SlotState.booting, .quiescing, .stamping, .resuming]
    ∧ (s.slot 0).state.payloadOn = true
    ∧ (s.slot 0).agentFault = false
    ∧ (s.slot 0).policy.fault = .notify := by
  simp only [inv_iff, live_iff, ready_iff]
  decide +kernel

/-- READY in BOOTING. -/
theorem test_ProbeAnswer_ready :
    let s : State := (listed 0 [⟨9, .admitBlade, 5⟩] true (asked 0 .probe 1 100025 (slotIn 0 .booting
      (switched 0 base)))).modPower 0 fun p => { p with resetAsserted := false }
    Inv s
    ∧ s.Live
    ∧ (s.engine 0).out = some (request .probe 1 100025)
    ∧ judgeReply .probe 3 (replyFrame .probe .report [3, 0]) = some ⟨.report, [3, 0]⟩
    ∧ s.Quiet
    ∧ (s.slot 0).state = .booting
    ∧ (s.pwr 0).resetAsserted = false := by
  simp only [inv_iff, quiet_iff, live_iff, ready_iff]
  decide +kernel

/-- The same slot: no slot to offer to, its one order an active ADMIT. -/
theorem test_ProbeAnswer_ready_alone :
    let s : State := (listed 0 [⟨9, .admitBlade, 5⟩] true (asked 0 .probe 1 100025 (slotIn 0 .booting
      (switched 0 base)))).modPower 0 fun p => { p with resetAsserted := false }
    (∀ h, isHub h ≠ isHub 0 → (s.slot h).state ≠ .inService)
    ∧ (∀ q : PortId, nodeSlot q = 0 ∨ hubSlot q = 0 → (s.portOf q).state = .isolated)
    ∧ (s.slot 0).latch = false
    ∧ (∀ e, (s.slot 0).orders = [e] → e.kind = .admitBlade)
    ∧ (s.slot 0).active = true
    ∧ (s.slot 0).orders.length = 1
    ∧ isHub 0 = false := by
  simp only [forall_ports, forall_single]
  decide +kernel

/-- READY in BOOTING with a hub IN-SERVICE. -/
theorem test_ProbeAnswer_ready_offers_inService :
    let s : State := up 14 (slotIn 14 .inService ((listed 0 [⟨9, .admitBlade, 5⟩] true (asked 0 .probe
      1 100025 (slotIn 0 .booting (switched 0 base)))).modPower 0 fun p =>
      { p with resetAsserted := false }))
    Inv s
    ∧ s.Live
    ∧ (s.engine 0).out = some (request .probe 1 100025)
    ∧ judgeReply .probe 3 (replyFrame .probe .report [3, 0]) = some ⟨.report, [3, 0]⟩
    ∧ (s.slot 0).state = .booting
    ∧ (s.pwr 0).resetAsserted = false
    ∧ (s.portOf ⟨0, 0⟩).state = .isolated
    ∧ (s.slot (hubSlot ⟨0, 0⟩)).state = .inService
    ∧ s.linkUp (nodeSlot ⟨0, 0⟩) = true
    ∧ s.linkUp (hubSlot ⟨0, 0⟩) = true
    ∧ (∀ p, nodeSlot p = 0 ∨ hubSlot p = 0 → p ≠ ⟨0, 0⟩ → (s.slot (hubSlot p)).state = .vacant) := by
  simp only [inv_iff, live_iff, ready_iff, forall_ports]
  decide +kernel

/-- READY in BOOTING with a hub JOINING. -/
theorem test_ProbeAnswer_ready_offers_joining :
    let s : State := up 14 (slotIn 14 .joining ((listed 0 [⟨9, .admitBlade, 5⟩] true (asked 0 .probe 1
      100025 (slotIn 0 .booting (switched 0 base)))).modPower 0 fun p =>
      { p with resetAsserted := false }))
    Inv s
    ∧ s.Live
    ∧ (s.engine 0).out = some (request .probe 1 100025)
    ∧ judgeReply .probe 3 (replyFrame .probe .report [3, 0]) = some ⟨.report, [3, 0]⟩
    ∧ (s.slot 0).state = .booting
    ∧ (s.pwr 0).resetAsserted = false
    ∧ (s.portOf ⟨0, 0⟩).state = .isolated
    ∧ (s.slot (hubSlot ⟨0, 0⟩)).state = .joining
    ∧ s.linkUp (nodeSlot ⟨0, 0⟩) = true
    ∧ s.linkUp (hubSlot ⟨0, 0⟩) = true
    ∧ (∀ p, nodeSlot p = 0 ∨ hubSlot p = 0 → p ≠ ⟨0, 0⟩ → (s.slot (hubSlot p)).state = .vacant) := by
  simp only [inv_iff, live_iff, ready_iff, forall_ports]
  decide +kernel

/-- READY, BOOTING and FAULT in RESUMING under NOTIFY. -/
theorem test_ProbeAnswer_resuming :
    let s : State := up 14 (slotIn 14 .inService (port ⟨0, 1⟩ .opened none ((asked 0 .probe 1 100025
      (slotIn 0 .resuming base)).modSlot 0 fun x => { x with policy := ⟨.notify, .notify, false⟩ })))
    Inv s
    ∧ s.Live
    ∧ (s.engine 0).out = some (request .probe 1 100025)
    ∧ judgeReply .probe 3 (replyFrame .probe .report [3, 0]) = some ⟨.report, [3, 0]⟩
    ∧ AgentState.ofCode (byteAt [3, 0] 0) = some .ready
    ∧ AgentState.ofCode (byteAt [2, 0] 0) = some .booting
    ∧ AgentState.ofCode (byteAt [6, 9] 0) = some .fault
    ∧ (s.slot 0).state = .resuming
    ∧ s.Quiet
    ∧ (s.slot 0).Idle
    ∧ isHub 0 = false
    ∧ (s.slot 0).policy.fault = .notify
    ∧ (s.pwr 0).resetHold = none
    ∧ ((s.modPower 0 fun p => { p with resetHold := some 100050 }).pwr 0).resetHold ≠ none
    ∧ s.port.run = true
    ∧ s.journal.full = false
    ∧ s.journal.gapPending = false := by
  simp only [inv_iff, quiet_iff, live_iff, ready_iff, idle_iff]
  decide +kernel

/-- READY to a recovery probe, a port to be offered. -/
theorem test_ProbeAnswer_recovered :
    let s : State := (up 14 (slotIn 14 .inService (slotIn 0 .inService base))).modEngine 0 fun e =>
      { e with link := .lost, recovery := some 101000, out := some ⟨.probe, .engine, 3, 1, 100025, true, true⟩ }
    Inv s
    ∧ s.Live
    ∧ (s.engine 0).out = some ⟨.probe, .engine, 3, 1, 100025, true, true⟩
    ∧ judgeReply .probe 3 (replyFrame .probe .report [3, 0]) = some ⟨.report, [3, 0]⟩
    ∧ (s.slot 0).state ∉ [SlotState.booting, .quiescing, .stamping, .resuming]
    ∧ (s.engine 0).link = .lost
    ∧ (s.portOf ⟨0, 0⟩).state = .isolated
    ∧ (s.portOf ⟨0, 0⟩).declined = false
    ∧ s.bothOffering ⟨0, 0⟩ = true
    ∧ s.linkUp 14 = true := by
  simp only [inv_iff, live_iff, ready_iff]
  decide +kernel

/-- A third attempt whose deadline passes now. -/
theorem test_ThirdFailure_parked :
    let s : State := (asked 0 (.identPage 3) 3 100000 (slotIn 0 .parked base)).modSlot 0 fun x =>
      { x with policy := ⟨.notify, .notify, false⟩ }
    Inv s
    ∧ s.Live
    ∧ (s.engine 0).link = .up
    ∧ (s.engine 0).out = some (request (.identPage 3) 3 100000)
    ∧ reached s.time 100000 = true
    ∧ (s.slot 0).read = none
    ∧ (∀ p, nodeSlot p = 0 ∨ hubSlot p = 0 → (s.portOf p).state = .isolated)
    ∧ (s.slot 0).state = .parked
    ∧ (s.slot 0).policy.fault = .notify := by
  simp only [inv_iff, live_iff, ready_iff, forall_ports]
  decide +kernel

/-- A third attempt whose deadline passes now. -/
theorem test_ThirdFailure_inService :
    let s : State := (asked 0 (.identPage 3) 3 100000 (slotIn 0 .inService base)).modSlot 0 fun x =>
      { x with policy := ⟨.notify, .notify, false⟩ }
    Inv s
    ∧ s.Live
    ∧ (s.engine 0).link = .up
    ∧ (s.engine 0).out = some (request (.identPage 3) 3 100000)
    ∧ reached s.time 100000 = true
    ∧ (s.slot 0).read = none
    ∧ (∀ p, nodeSlot p = 0 ∨ hubSlot p = 0 → (s.portOf p).state = .isolated)
    ∧ (s.slot 0).state = .inService
    ∧ (s.slot 0).policy.fault = .notify := by
  simp only [inv_iff, live_iff, ready_iff, forall_ports]
  decide +kernel

/-- A live state. -/
theorem test_EngineSends_meets :
    base.Live := by
  simp only [live_iff, ready_iff]
  decide +kernel

/-- A node with an OFFERED port whose ADMIT is queued and a CLOSING port. -/
theorem test_ThirdFailure_node_ports :
    let s : State := port ⟨0, 1⟩ .closing (some 100500) (port ⟨0, 0⟩ .offered (some 102000) (enqueue 14
      (.admitNode 0) .coordinator (asked 14 .probe 1 100025 (slotIn 14 .inService (up 15 (slotIn 15 .inService
      ((asked 0 .quiesce 3 100000 (slotIn 0 .inService base)).modSlot 0 fun x =>
      { x with policy := ⟨.notify, .notify, false⟩ })))))))
    Inv s
    ∧ s.Live
    ∧ (s.engine 0).link = .up
    ∧ (s.engine 0).out = some (request .quiesce 3 100000)
    ∧ reached s.time 100000 = true
    ∧ (s.slot 0).read = none
    ∧ (s.slot 0).state = .inService
    ∧ (s.slot 0).policy.fault = .notify
    ∧ (s.portOf ⟨0, 0⟩).state = .offered
    ∧ (s.engine 14).queued (fun m => decide (m = .admitNode 0)) = true
    ∧ (s.portOf ⟨0, 1⟩).state = .closing
    ∧ s.linkUp (hubSlot ⟨0, 1⟩) = true
    ∧ (s.engine 15).queued (fun m => decide (m = .admitNode 0)) = false
    ∧ s.KeepsCourse ⟨0, 0⟩
    ∧ s.KeepsCourse ⟨0, 1⟩
    ∧ s.port.run = true
    ∧ s.journal.gapPending = false
    ∧ (s.journal.writeCount - s.journal.readCount).toNat ≤ 112 := by
  simp only [inv_iff, live_iff, ready_iff, keepsCourse_iff]
  decide +kernel

/-- A hub with an OFFERED and a WITHDRAWING port. -/
theorem test_ThirdFailure_hub_ports :
    let s : State := port ⟨1, 0⟩ .withdrawing (some 100500) (port ⟨0, 0⟩ .offered (some 102000) (slotIn
      0 .inService (slotIn 1 .inService ((asked 14 (.withdraw 1) 3 100000 (slotIn 14 .inService
      base)).modSlot 14 fun x => { x with policy := ⟨.notify, .notify, false⟩ }))))
    Inv s
    ∧ s.Live
    ∧ (s.engine 14).link = .up
    ∧ (s.engine 14).out = some (request (.withdraw 1) 3 100000)
    ∧ reached s.time 100000 = true
    ∧ (s.slot 14).read = none
    ∧ (s.slot 14).state = .inService
    ∧ (s.slot 14).policy.fault = .notify
    ∧ (s.portOf ⟨0, 0⟩).state = .offered
    ∧ (s.portOf ⟨1, 0⟩).state = .withdrawing
    ∧ s.KeepsCourse ⟨0, 0⟩
    ∧ s.KeepsCourse ⟨1, 0⟩
    ∧ s.port.run = true
    ∧ s.journal.gapPending = false
    ∧ (s.journal.writeCount - s.journal.readCount).toNat ≤ 112 := by
  simp only [inv_iff, live_iff, ready_iff, keepsCourse_iff]
  decide +kernel

/-- A free line with a message that is not ready before one that is; a poll deadline that passes now. -/
theorem test_EngineSends_ready :
    let s : State := base.modEngine 0 fun e =>
      { e with link := .up, queue := [⟨.quiesce, .sequencer, some 100001⟩, ⟨.identPage 3, .sequencer, some 100000⟩,
        ⟨.probe, .engine, none⟩], poll := some 100000 }
    s.Live
    ∧ (s.engine 0).link = .up
    ∧ (s.engine 0).out = none
    ∧ (s.engine 0).queue = [⟨.quiesce, .sequencer, some 100001⟩] ++ ⟨.identPage 3, .sequencer, some 100000⟩ :: [⟨.probe, .engine, none⟩]
    ∧ ∀ b ∈ [(⟨.quiesce, .sequencer, some 100001⟩ : QueuedMsg)], b.ready base.time = false
    ∧ QueuedMsg.ready base.time ⟨.identPage 3, .sequencer, some 100000⟩ = true
    ∧ due s.time (s.engine 0).poll = true := by
  simp only [live_iff, ready_iff]
  decide +kernel

/-- A LOST link whose recovery deadline passes now, its line free. -/
theorem test_EngineSends_recovery :
    let s : State := (slotIn 0 .parked base).modEngine 0 fun e =>
      { e with link := .lost, recovery := some 100000 }
    s.Live
    ∧ (s.engine 0).link = .lost
    ∧ due s.time (s.engine 0).recovery = true
    ∧ (s.engine 0).out = none := by
  simp only [live_iff, ready_iff]
  decide +kernel

/-- RESTART, and the release, with slots in PARKED, AWAIT-POWER and IN-SERVICE. -/
theorem test_WarmRestart_meets :
    let s : State := claimed 0 100 (slotIn 0 .inService (switched 0 (slotIn 1 .parked (waitingAdmit 2
      base))))
    Inv s
    ∧ s.Ready
    ∧ s.held = false
    ∧ Inv { s with held := true, resetLine := some 99000 }
    ∧ State.Ready { s with held := true, resetLine := some 99000 }
    ∧ (s.slot 1).state = .parked
    ∧ (s.slot 2).state = .awaitPower
    ∧ (s.slot 0).state.payloadOn = true
    ∧ (s.pwr 0).switchOn = true
    ∧ (s.pinsOf 0).powerGood = false
    ∧ ((s.modPins 0 fun p => { p with powerGood := true }).pinsOf 0).powerGood = true := by
  simp only [inv_iff, ready_iff]
  decide +kernel

/-- A VACANT slot, its contacts not made and made, its power stage off and on. -/
theorem test_WarmRestart_vacant :
    let s : State := slotIn 0 .vacant base
    Inv s
    ∧ s.Ready
    ∧ s.held = false
    ∧ (s.slot 0).state = .vacant
    ∧ (s.pinsOf 0).long = false
    ∧ (s.pwr 0).switchOn = false
    ∧ Inv (switched 0 (s.modPins 0 fun _ => ⟨true, true, false, true, false⟩))
    ∧ ((s.modPins 0 fun _ => ⟨true, true, false, true, false⟩).pinsOf 0).short = true := by
  simp only [inv_iff, ready_iff]
  decide +kernel

/-- A SEATING slot, its contacts not made and made, its power stage off and on. -/
theorem test_WarmRestart_seating :
    let s : State := slotIn 0 .seating base
    Inv s
    ∧ s.Ready
    ∧ s.held = false
    ∧ (s.slot 0).state = .seating
    ∧ (s.pinsOf 0).long = false
    ∧ (s.pwr 0).switchOn = false
    ∧ Inv (switched 0 (s.modPins 0 fun _ => ⟨true, true, false, true, false⟩))
    ∧ ((s.modPins 0 fun _ => ⟨true, true, false, true, false⟩).pinsOf 0).short = true := by
  simp only [inv_iff, ready_iff]
  decide +kernel

/-- A SURVEYING slot, its contacts not made and made, its power stage off and on. -/
theorem test_WarmRestart_surveying :
    let s : State := slotIn 0 .surveying base
    Inv s
    ∧ s.Ready
    ∧ s.held = false
    ∧ (s.slot 0).state = .surveying
    ∧ (s.pinsOf 0).long = false
    ∧ (s.pwr 0).switchOn = false
    ∧ Inv (switched 0 (s.modPins 0 fun _ => ⟨true, true, false, true, false⟩))
    ∧ ((s.modPins 0 fun _ => ⟨true, true, false, true, false⟩).pinsOf 0).short = true := by
  simp only [inv_iff, ready_iff]
  decide +kernel

/-- A RESUMING slot, its contacts not made and made, its power stage off and on. -/
theorem test_WarmRestart_resuming :
    let s : State := slotIn 0 .resuming base
    Inv s
    ∧ s.Ready
    ∧ s.held = false
    ∧ (s.slot 0).state = .resuming
    ∧ (s.pinsOf 0).long = false
    ∧ (s.pwr 0).switchOn = false
    ∧ Inv (switched 0 (s.modPins 0 fun _ => ⟨true, true, false, true, false⟩))
    ∧ ((s.modPins 0 fun _ => ⟨true, true, false, true, false⟩).pinsOf 0).short = true := by
  simp only [inv_iff, ready_iff]
  decide +kernel

/-- A RAMPING slot with power good; a reference 59999 ms old and one 60000 ms old. -/
theorem test_WarmRestart_references :
    let s : State := (slotIn 0 .ramping (switched 0 (base.modPins 0 fun p =>
      { p with powerGood := true }))).modPower 1 fun p =>
      { p with onRef := some 100001, goodTime := 40001, offRef := some 100000, offTime := 40000 }
    Inv s
    ∧ s.Ready
    ∧ s.held = false
    ∧ (s.slot 0).state = .ramping
    ∧ (s.pwr 0).switchOn = true
    ∧ (s.pinsOf 0).powerGood = true
    ∧ (s.pwr 1).onRef ≠ none
    ∧ (s.time - (s.pwr 1).goodTime).toNat = 59999
    ∧ (s.pwr 1).offRef ≠ none
    ∧ (s.time - (s.pwr 1).offTime).toNat = 60000 := by
  simp only [inv_iff, ready_iff]
  decide +kernel

/-- Cells on a slot list, on the shelf list and on none; a gate that is open and one that is closed. -/
theorem test_WarmRestart_cells :
    let s : State := listed 0 [⟨9, .retire, 5⟩, ⟨10, .survey, 6⟩] true (port ⟨0, 0⟩ .opened none
      (slotIn 0 .inService (base.modAlloc fun a => { a with shelf := [⟨11, .setBudget, 7⟩] })))
    Inv s
    ∧ s.Ready
    ∧ s.held = false
    ∧ s.alloc.shelf = [⟨11, .setBudget, 7⟩]
    ∧ (s.slot 0).orders = [⟨9, .retire, 5⟩, ⟨10, .survey, 6⟩]
    ∧ ∀ j, ∀ d ∈ (s.slot j).orders, d.cell ∈ [9, 10] ∧ j = 0
    ∧ (s.portOf ⟨0, 0⟩).gate = true
    ∧ (s.portOf ⟨0, 1⟩).gate = false := by
  simp only [inv_iff, ready_iff]
  decide +kernel

/-- An open gate with both its slots resuming, and a FAULTED slot. -/
theorem test_WarmRestart_resuming_ports :
    let s : State := port ⟨0, 0⟩ .opened none (slotIn 1 .faulted (switched 14 (slotIn 14 .inService
      (switched 0 (slotIn 0 .leaving ((base.modPins 0 fun p => { p with powerGood := true }).modPins 14
      fun p => { p with powerGood := true }))))))
    Inv s
    ∧ s.Ready
    ∧ s.held = false
    ∧ (s.portOf ⟨0, 0⟩).gate = true
    ∧ (s.slot 0).state.payloadOn = true
    ∧ (s.slot 14).state.payloadOn = true
    ∧ (s.pwr 0).switchOn = true
    ∧ (s.pwr 14).switchOn = true
    ∧ (s.pinsOf 0).powerGood = true
    ∧ (s.pinsOf 14).powerGood = true
    ∧ (s.slot 1).state = .faulted := by
  simp only [inv_iff, ready_iff]
  decide +kernel

/-- A queue in order, a hub, then nodes of urgency 1, 1 and 2, and an entry that arrives last. -/
theorem test_QueueKeptInOrder_meets :
    ([⟨14, 3, 5, none, 1⟩, ⟨0, 1, 6, none, 1⟩, ⟨1, 1, 7, none, 1⟩, ⟨2, 2, 4, none, 1⟩] : List
      QueueEntry).Pairwise
      fun a b => b.before a = false ∧ (a.before b = false → reached b.arrival a.arrival = true)
    ∧ ∀ a ∈ ([⟨14, 3, 5, none, 1⟩, ⟨0, 1, 6, none, 1⟩, ⟨1, 1, 7, none, 1⟩, ⟨2, 2, 4, none, 1⟩] : List
      QueueEntry), reached (8 : Time) a.arrival = true := by
  decide +kernel

/-- A page for each of the four tests and for each step of the survey. -/
theorem test_Page0Judged_meets :
    byteSum goodPage = 0
    ∧ byteSum ([1] : List Byte) ≠ 0
    ∧ byteSum ([2, 254] : List Byte) = 0
    ∧ byteAt ([2, 254] : List Byte) 0 ≠ 1
    ∧ byteSum ([1, 3, 252] : List Byte) = 0
    ∧ byteAt ([1, 3, 252] : List Byte) 1 ≠ 2
    ∧ byteAt goodPage 0 = 1
    ∧ byteAt goodPage 1 = 1
    ∧ (up 0 base).linkUp 0 = true := by
  decide +kernel

/-- Eight rows without a valid one, and with two valid ones. -/
theorem test_RowPointers_meets :
    ∀ r ∈ List.replicate 8 (List.replicate 8 (0xFF : Byte)), rowValid r = false
    ∧ (serviceRow 4 1 0 5 3 3 :: serviceRow 5 1 0 5 3 3 :: List.replicate 6 (List.replicate 8
      0xFF)).length = 8
    ∧ rowValid (serviceRow 4 1 0 5 3 3) = true
    ∧ rowPointers (serviceRow 4 1 0 5 3 3 :: serviceRow 5 1 0 5 3 3 :: List.replicate 6 (List.replicate
      8 0xFF)) = (2, 6) := by
  decide +kernel

/-- Bytes whose sum is not 0. -/
theorem test_CheckBytes_meets :
    byteSum ([1, 2] : List Byte) ≠ 0 := by
  decide +kernel

/-- A step from a state with the invariant answers a next state. -/
theorem test_StepKeepsInvariant_meets : Inv base ∧ ∃ t, step base = .next t :=
  ⟨(inv_iff _).mpr (by decide +kernel), _, rfl⟩

/-- A command that is no POWER_ON_RESET. -/
theorem test_RecordWrittenOncePerEvent_meets :
    Inv base ∧ ∀ b, Instr.restart ≠ Instr.powerOnReset b :=
  ⟨(inv_iff _).mpr (by decide +kernel), fun _ h => nomatch h⟩

/-! ### Worked by hand from the spec -/

/-- The service row of the example in R204. -/
theorem test_row_of_R204 : serviceRow 5 3 6 240 300 2 = [5, 3, 7, 240, 44, 1, 2, 210] := by decide

/-- A PROBE of sequence 0: kind 1, sequence 0, far slot 0, length 0 and the check byte. -/
theorem test_frame_of_probe : requestFrame .probe 0 = [1, 0, 0, 0, 255] := by decide

/-- An ADMIT for slot 3, sequence 9: kind 9, far slot 3. -/
theorem test_frame_of_admit : requestFrame (.admitNode 2) 9 = [9, 9, 3, 0, 235] := by decide

/-- The example of R61: a node claim fits up to 400 W, a hub claim up to 500 W. -/
theorem test_fits_of_R61 :
    let a : Allocator := { Allocator.powerOn BoardInputs.empty.straps with
      capacity := 1600, hubReserve := 400, granted := 1100
      claims := (Vector.replicate 16 0).set 14 300 }
    a.fits 0 400 = true ∧ a.fits 0 401 = false ∧ a.fits 15 500 = true ∧ a.fits 15 501 = false := by
  decide

/-- The example of R64: slots 3, 9, 4 and 16 join and the queue reads 16, 9, 4, 3. -/
theorem test_queue_of_R64 :
    (insertEntry ⟨15, 3, 1300, none, 1⟩ (insertEntry ⟨3, 1, 1250, none, 1⟩
      (insertEntry ⟨8, 1, 1200, none, 1⟩ (insertEntry ⟨2, 2, 1000, none, 1⟩ [])))).map (·.slot)
      = [15, 8, 3, 2] := by decide

/-- A slot record has 128 bytes, the shelf record 240 and the header 16 (R176). -/
theorem test_record_lengths :
    (recordBytes false (State.reset.recordView 0) 0).length = 128
    ∧ (recordBytes true (State.reset.recordView 14) 0).length = 128
    ∧ State.reset.shelfBytes.length = 240 ∧ headerBytes.length = 16
    ∧ (slotNotice State.reset 0 .surprise none).bytes.length = 32 := by decide +kernel

/-- STATUS after power-on reset: cause 1 and part revision 1 (R185). -/
theorem test_status_at_reset : State.reset.readWord 0x4004 = 0x01000001 := by decide +kernel

/-- The area header's first word: format 1, 0, 32 cells, 16 slots (R176). -/
theorem test_header_word : State.reset.readWord 0 = 0x10200001 := by decide +kernel

/-- A record write starts with the trailing copy and ends with the leading one (R2, R182). -/
theorem test_record_run : recordRun [10, 11, 12, 13] = [(3, 13), (1, 11), (2, 12), (0, 10)] := by decide

/-- The words of a request go ascending by address, the state words of its cells last (R175). -/
theorem test_request_order :
    (requestOrder [⟨0x480, 1, 0xF⟩, ⟨0x404, 2, 0xF⟩, ⟨0x400, 1, 0xF⟩, ⟨0x3FC, 0, 0xF⟩]).map (·.addr)
      = [0x3FC, 0x404, 0x400, 0x480] := by decide

/-- The state a command leaves, for the tests below. -/
def done (c : Instr) (s : State) : State :=
  match exec c s with
  | .next t => t
  | .fault _ => s
  | .refused _ => s

/-- The PROBE of a probe pause is the sequencer's, that of a poll the engine's (R130); a PROBE already
queued keeps its placer when it is asked for again (R137). -/
theorem test_probe_placer :
    let s : State := asked 0 .quiesce 1 100025 ((slotIn 0 .stamping base).modSlot 0 fun x =>
      { x with stamp := some ⟨.programming, 2, [], none, some 100000⟩ })
    let polled := s.modEngine 0 fun e => { e with poll := some 100000 }
    ((done (.probePauseExpiry 0) s).engine 0).queue = [⟨.probe, .sequencer, none⟩]
    ∧ ((done (.pollDeadlineExpiry 0) polled).engine 0).queue = [⟨.probe, .engine, none⟩]
    ∧ ((done (.probePauseExpiry 0) (s.modEngine 0 fun e =>
      { e with queue := [⟨.probe, .engine, none⟩] })).engine 0).queue = [⟨.probe, .engine, none⟩] := by
  decide +kernel

/-- The raw levels of slot 1's contacts and handle make now, and have not held. -/
def rawIn (s : State) : State :=
  done (.handleDebounce 0 ⟨true, false⟩) (done (.contactDebounce 0 .short ⟨true, false⟩)
    (done (.contactDebounce 0 .long ⟨true, false⟩) s))

/-- The second contact of slot 1 makes: SEATING, generation 2, one record write, and none for
slot 2. -/
theorem test_arrival :
    let t := done (.contactDebounce 0 .short ⟨true, true⟩) (base.modSlot 0 fun x => { x with long := true })
    (t.slot 0).state = .seating ∧ (t.slot 0).gen = 2 ∧ (t.slot 0).upd = 1 ∧ (t.slot 1).upd = 0
      ∧ (t.slot 0).settle = some 100200 ∧ t.journal.writeCount = 1 := by decide +kernel

/-- A PARKED slot 1 with an ADMIT in cell 0 is granted 800 W and ramps for at most 20 ms. -/
theorem test_admit :
    let t := done .admitBlade (order 0 (head 1 1 0 ++ [2, 0, 60, 0])
      (known 0 1 800 (slotIn 0 .parked base)))
    (t.slot 0).state = .ramping ∧ (t.slot 0).gen = 3 ∧ t.alloc.granted = 800 ∧ t.cell 0 = .taken
      ∧ (t.pwr 0).rampLimit = some 100020 ∧ t.history = [100000] ∧ t.pointer = 1 := by decide +kernel

/-- A kind byte of 13 is refused BAD-KIND, code 0x81, and ORDER-DONE latches. -/
theorem test_bad_kind :
    let t := done .badKindTake (order 0 (head 13 1 0) base)
    t.cell 0 = .refused ∧ t.rd8 0 0x1C = 0x81 ∧ t.port.attention = 1 := by decide +kernel

/-- A CLEAR-FAULT that joins and finishes NOTHING in one event: one record write (R40, R46). -/
theorem test_clear_fault_record :
    let t := done .clearFault (order 0 (head 5 1 0) (slotIn 0 .parked base))
    t.cell 0 = .finished ∧ (t.slot 0).upd = 1 ∧ (t.slot 1).upd = 0 := by decide +kernel

/-- A write of the word at 0x0100: refused with a byte of the write count enabled, else nothing
(R176, R177). -/
theorem test_write_count :
    (done (.shelfAreaWriteRefused 0x0100 ⟨0, 0xC⟩ []) base).port.attention = 0
    ∧ (done (.shelfAreaWriteRefused 0x0100 ⟨0, 0x2⟩ []) base).port.attention = 8 := by decide +kernel

/-- A request of POSTED and two body words, in whatever order it lists them: the body is stored and the
cell is POSTED; over a POSTED cell every word is refused (R175, R179). -/
theorem test_post_in_one_request :
    let post := fun (s : State) =>
      done (.cellBodyWrite 3 2 ⟨9, 0xF⟩ [⟨0x580, 1, 0x1⟩, ⟨0x584, 7, 0xF⟩]) s
    (post base).cell 3 = .posted ∧ Memory.read (post base).mem 0x584 = 7
    ∧ Memory.read (post base).mem 0x588 = 9 ∧ (post base).port.attention = 0
    ∧ (post (base.setCell 3 .posted)).mem = [] ∧ (post (base.setCell 3 .posted)).port.attention = 8 := by
  decide +kernel

/-- A request over STATUS, ATTENTION and ATTENTION-ENABLE: STATUS is refused and latches GUARD, which
the clear of ATTENTION in the same request then removes (R175, R186). -/
theorem test_register_request :
    let t := done (.attentionEnableWrite ⟨0x3F, 0xF⟩ [⟨0x4008, 8, 0xF⟩, ⟨0x4004, 0, 0xF⟩]) base
    t.port.attention = 0 ∧ t.port.enable = 0x3F := by decide +kernel

/-- A reference kept at a warm restart: its horizon stands up to 59999 ms after its time, and it is CLEAR
from 60000 ms on, however long the hold was (R94). -/
theorem test_kept_reference :
    keepRef 60999 (some 61000) 1000 = some 61000 ∧ keepRef 61000 (some 61000) 1000 = none
    ∧ keepRef 2147544648 (some 61000) 1000 = none ∧ keepRef 999 (some 61000) 1000 = none := by decide

/-- Such levels change no debounced level; they are taken 5 ms on, and none is once it has returned
(R3). -/
theorem test_debounce_runs :
    (rawIn base).slots = base.slots ∧ (tick { rawIn base with time := 100003 }).pending = []
    ∧ (tick { rawIn base with time := 100004 }).pending =
      [.contactDebounce 0 .long ⟨true, true⟩, .contactDebounce 0 .short ⟨true, true⟩]
    ∧ (tick { done (.contactDebounce 0 .long ⟨false, false⟩) (rawIn base) with
        time := 100004 }).pending = [.contactDebounce 0 .short ⟨true, true⟩] := by decide +kernel

/-- In the middle of a debounce a VACANT slot's first sample takes the raw levels (R196). -/
theorem test_restart_samples :
    let t := restartSample (rawIn base) 0
    (t.slot 0).state = .seating ∧ (t.slot 0).handleOpen = true := by decide +kernel

/-- The debounces under way run from the restart (R197). -/
theorem test_restart_debounce :
    (restartBlocks .restartBit { rawIn base with time := 100003 }).timesOf 0
      = ⟨100003, 100003, 100003⟩ := by decide +kernel

/-- A feed's measured level that has not held (R76). -/
theorem test_feed_debounce :
    let s := done (.feedDebounce .b ⟨true, false⟩) base
    s.alloc.feedBLost = false ∧ (tick { s with time := 100008 }).pending = []
    ∧ (tick { s with time := 100009 }).pending = [.feedDebounce .b ⟨true, true⟩] := by decide +kernel

/-- A READ-IDENTITY abandoned after its first page has its data zero (log 52). -/
theorem test_abandoned_read :
    let s := (slotIn 0 .parked base).modSlot 0 fun x => { x with read := some ⟨1, 1, List.replicate 32 7⟩ }
    let t := abandonSlot (Vector.replicate 16 [⟨9, .readIdentity, 5⟩]) s 0
    t.cell 9 = .finished ∧ t.rd8 9 0x40 = 0 := by decide +kernel

/-- One millisecond with nothing due. -/
theorem test_tick : (tick base).time = 100001 ∧ (tick base).pending = [] := by decide +kernel

/-- The RESET line: taken 1 ms after it asserts, and a release before that restarts nothing (R193). -/
theorem test_reset_line :
    (tick (done .resetLineAssert base)).held = true
    ∧ (done .resetLineAssert base).held = false
    ∧ (tick (done .resetLineRelease (done .resetLineAssert base))).held = false
    ∧ (done .resetLineRelease (done .resetLineAssert base)).port = base.port := by decide +kernel

/-- RAMP-GAP longer than RAMP-WINDOW, with entries almost 2^31 ms apart: the gap decides (R84). -/
theorem test_pacing_time :
    pacingTime ⟨1000, 100, 2, 0, 0, 0, 0⟩ [0, 2147483148] 2147483149 = 2147484148
    ∧ pacingTime Settings.powerOn [99700, 99750, 99900, 99970] 100000 = 100200 := by decide +kernel

end Sys2Proof.Tests
end

/-! The intake's refusal (R38, R39): what a result written into a cell reads back as, and the take of a
cell that fails an intake check. -/

namespace Sys2Proof.Machine

/-! ### Fields of several bytes -/

/-- The two bytes of a field spell it (00_scope.md, Numbers and bytes). -/
theorem ofBytes16_le16 (w : Word16) : ofBytes16 (byteAt (le16 w) 0) (byteAt (le16 w) 1) = w := by
  apply BitVec.eq_of_getLsbD_eq
  intro n hn
  rcases Nat.lt_or_ge n 8 with h | h
  · simp [ofBytes16, le16, byteAt, h, hn]
  · simp [ofBytes16, le16, byteAt, hn, show ¬ n < 8 by omega, show n - 8 < 8 by omega,
      show 8 + (n - 8) = n by omega]

/-- The four bytes of a field spell it (00_scope.md, Numbers and bytes). -/
theorem ofBytes32_le32 (w : Word) :
    ofBytes32 (byteAt (le32 w) 0) (byteAt (le32 w) 1) (byteAt (le32 w) 2) (byteAt (le32 w) 3) = w := by
  apply BitVec.eq_of_getLsbD_eq
  intro n hn
  have split4 : n < 8 ∨ (¬ n < 8 ∧ n < 16) ∨ (¬ n < 16 ∧ n < 24) ∨ ¬ n < 24 := by omega
  rcases split4 with h | ⟨h, h'⟩ | ⟨h, h'⟩ | h
  · simp [ofBytes32, le32, byteAt, hn, h, show n < 16 by omega, show n < 24 by omega]
  · simp [ofBytes32, le32, byteAt, hn, h, h', show n < 24 by omega, show n - 8 < 8 by omega,
      show 8 + (n - 8) = n by omega]
  · simp [ofBytes32, le32, byteAt, hn, h, h', show ¬ n < 8 by omega, show ¬ n - 8 < 8 by omega,
      show n - 16 < 8 by omega, show 16 + (n - 16) = n by omega]
  · simp [ofBytes32, le32, byteAt, hn, h, show ¬ n < 8 by omega, show ¬ n < 16 by omega,
      show ¬ n - 8 < 8 by omega, show ¬ n - 16 < 8 by omega, show n - 24 < 8 by omega,
      show 24 + (n - 24) = n by omega]

theorem rd16_eq_of_bytes {s : State} {c : CellId} {k : Nat} {w : Word16}
    (h0 : s.rd8 c k = byteAt (le16 w) 0) (h1 : s.rd8 c (k + 1) = byteAt (le16 w) 1) :
    s.rd16 c k = w := by
  rw [State.rd16, h0, h1, ofBytes16_le16]

theorem rd32_eq_of_bytes {s : State} {c : CellId} {k : Nat} {w : Word}
    (h0 : s.rd8 c k = byteAt (le32 w) 0) (h1 : s.rd8 c (k + 1) = byteAt (le32 w) 1)
    (h2 : s.rd8 c (k + 2) = byteAt (le32 w) 2) (h3 : s.rd8 c (k + 3) = byteAt (le32 w) 3) :
    s.rd32 c k = w := by
  rw [State.rd32, h0, h1, h2, h3, ofBytes32_le32]

/-! ### The results of a cell -/

section Results

variable (c : CellId) (st : CellState) (r : CellResult) (s : State)

/-- The results fill the bytes 0x1C to 0x7F of a cell. -/
@[simp] theorem CellResult.bytes_length : (r.bytes s).length = 100 := by
  simp [CellResult.bytes, le32, le16]

/-- Bytes 12 and 13 of the results spell the generation of the slot they name, 0 when they name none. -/
theorem CellResult.gen_bytes :
    let w := r.slot.elim 0 fun i => (s.slot i).gen
    byteAt (r.bytes s) 12 = byteAt (le16 w) 0 ∧ byteAt (r.bytes s) 13 = byteAt (le16 w) 1 := by
  rcases r with ⟨_, _, _ | i, _, _, _⟩ <;> exact ⟨rfl, rfl⟩

@[simp] theorem writeResult_cell_self : (writeResult c st r s).cell c = st := by
  simp [writeResult]

theorem writeResult_cell_ne {d : CellId} (h : d ≠ c) : (writeResult c st r s).cell d = s.cell d := by
  simp only [writeResult, latch_cell, setCell_cell_ne _ _ _ _ h]
  rfl

@[simp] theorem writeResult_mem : (writeResult c st r s).mem
    = Memory.writeList s.mem (cellOffset c + 0x1C) (r.bytes s) := by
  simp [writeResult]

/-- ATTENTION.ORDER-DONE latches, whether or not a message is sent (R186). -/
@[simp] theorem writeResult_attention : (writeResult c st r s).port.attention
    = s.port.attention ||| Attention.orderDone.mask := by
  simp only [writeResult, State.latch, State.updatePort]
  split <;> rfl

variable {s} (hm : Memory.wf s.mem = true)

include hm

/-- A result is written into the state and the result fields of its own cell (R35). -/
theorem writeResult_otherCells : OtherCells c s (writeResult c st r s) := by
  refine ⟨fun d hd => writeResult_cell_ne c st r s hd, fun a ha => ?_⟩
  rw [writeResult_mem, Memory.read_writeList _ _ _ _ hm, CellResult.bytes_length, if_neg (by omega)]

/-- The result fields of a cell read as the bytes written. -/
theorem writeResult_rd8 {k : Nat} (hk : k < 100) :
    (writeResult c st r s).rd8 c (0x1C + k) = byteAt (r.bytes s) k := by
  rw [State.rd8, writeResult_mem, Memory.read_writeList _ _ _ _ hm, CellResult.bytes_length,
    if_pos (by omega), ← Nat.add_assoc, Nat.add_sub_cancel_left]
  rfl

theorem writeResult_code : (writeResult c st r s).rd8 c 0x1C = r.code :=
  writeResult_rd8 c st r hm (k := 0) (by decide)

theorem writeResult_fault : (writeResult c st r s).rd8 c 0x1D = faultByte r.fault :=
  writeResult_rd8 c st r hm (k := 1) (by decide)

theorem writeResult_state :
    (writeResult c st r s).rd8 c 0x1E = stateByte (r.slot.map fun i => (s.slot i).state) :=
  writeResult_rd8 c st r hm (k := 2) (by decide)

theorem writeResult_summary : (writeResult c st r s).rd8 c 0x1F = r.summary :=
  writeResult_rd8 c st r hm (k := 3) (by decide)

theorem writeResult_taken : (writeResult c st r s).rd32 c 0x20 = r.taken :=
  have h := fun k hk => writeResult_rd8 c st r hm (k := k) hk
  rd32_eq_of_bytes (h 4 (by decide)) (h 5 (by decide)) (h 6 (by decide)) (h 7 (by decide))

theorem writeResult_finished : (writeResult c st r s).rd32 c 0x24 = s.time :=
  have h := fun k hk => writeResult_rd8 c st r hm (k := k) hk
  rd32_eq_of_bytes (h 8 (by decide)) (h 9 (by decide)) (h 10 (by decide)) (h 11 (by decide))

theorem writeResult_gen :
    (writeResult c st r s).rd16 c 0x28 = r.slot.elim 0 fun i => (s.slot i).gen := by
  have h := fun k hk => writeResult_rd8 c st r hm (k := k) hk
  obtain ⟨low, high⟩ := CellResult.gen_bytes r s
  exact rd16_eq_of_bytes ((h 12 (by decide)).trans low) ((h 13 (by decide)).trans high)

end Results

/-! ### The take of a cell -/

/-- Every kind, and no kind, has its command, which takes a cell of that kind (R36). -/
theorem exec_takeCommand (k : Option OrderKind) (s : State) :
    exec (takeCommand k) s = .next (liveEvent (takeKind k) s) := by
  cases k with
  | none => rfl
  | some k => cases k <;> rfl

theorem takeKind_next {s : State} {c : CellId} (h : s.intakeNext = some c) :
    takeKind (s.cellKind c) s = takeCell c s := by
  simp [takeKind, h]

/-- The pointer plays no part in the intake checks. -/
theorem intakeRefusal_pointer (s : State) (p c : CellId) :
    intakeRefusal { s with pointer := p } c = intakeRefusal s c := rfl

/-- A refusal at intake carries the generation and state of the slot the cell names, and the time of
the take as both its times (R39). -/
theorem takeCell_refused {s : State} {c : CellId} {code : OrderRefusal}
    (h : intakeRefusal s c = some code) :
    takeCell c s
      = writeResult c .refused ⟨code.code, none, s.cellSlot c, 0, s.time, []⟩
          { s with pointer := c + 1 } := by
  simp only [takeCell, intakeRefusal_pointer, h]
  rfl

/-- A kind byte that matches no kind fails the first check (R38). -/
theorem intakeRefusal_of_no_kind {s : State} {c : CellId} (h : s.cellKind c = none) :
    intakeRefusal s c = some .badKind := by
  simp only [intakeRefusal, h]

/-- A refusal brings no work and touches no record, so the whole event is the write of the result. -/
theorem exec_take_refused {s : State} {c : CellId} {code : OrderRefusal} (hl : s.Live)
    (hn : s.intakeNext = some c) (hr : intakeRefusal s c = some code) :
    exec (takeCommand (s.cellKind c)) s
      = .next (writeResult c .refused ⟨code.code, none, s.cellSlot c, 0, s.time, []⟩
          { s with pointer := c + 1 }) := by
  have hact := (unlessHeld_live s _ hl.held).trans ((takeKind_next hn).trans (takeCell_refused hr))
  rw [exec_takeCommand, liveEvent]
  refine congrArg _ (event_act s _ hl.toReady hact ?_ ?_ ?_ ?_ ?_ (recordView_congr ?_ ?_ ?_ ?_))
  all_goals simp

/-- Settles O19: the whole event is the write of one result, and its fields read back as R39 says. -/
theorem intakeRefuses : Obligations.IntakeRefuses := by
  intro s c code hl hinv hn hr
  have hm : Memory.wf ({ s with pointer := c + 1 } : State).mem = true := hinv.mem
  refine ⟨_, exec_take_refused hl hn hr, writeResult_cell_self .., writeResult_code _ _ _ hm,
    writeResult_fault _ _ _ hm, writeResult_summary _ _ _ hm, writeResult_taken _ _ _ hm,
    writeResult_finished _ _ _ hm, fun i hi => ⟨?_, ?_⟩, fun hnone => ⟨?_, ?_⟩, fun hk => ?_,
    writeResult_attention .., ?_, writeResult_otherCells _ _ _ hm, ?_⟩
  · rw [writeResult_gen _ _ _ hm, hi]; rfl
  · rw [writeResult_state _ _ _ hm, hi]; rfl
  · rw [writeResult_gen _ _ _ hm, hnone]; rfl
  · rw [writeResult_state _ _ _ hm, hnone]; rfl
  · exact Option.some.inj (hr.symm.trans (intakeRefusal_of_no_kind hk))
  · simp
  · simp

end Sys2Proof.Machine

/-! The survey of a blade's identity (R148 to R154): what becomes of a message a block places, what the
return of each page makes of the slot, the tests of page 0, and the search for the newest service row. -/

namespace Sys2Proof.Machine

/-! ### A placed message -/

/-- An engine that serves its queue sends the first ready message and keeps the others, so no message
gets lost (R132). -/
theorem Engine.Carries.serve {e : Engine} {m : Msg} (now : Time) (h : e.Carries m) :
    (e.serve now).Carries m := by
  unfold Engine.serve
  split
  case isFalse => exact h
  case isTrue hfree =>
    split
    case h_2 => exact h
    case h_1 sent hsent =>
      obtain ⟨q, hq, rfl⟩ | ⟨o, ho, -⟩ := h
      · obtain ⟨hready, ahead, behind, hqueue, hwait⟩ := List.find?_eq_some_iff_append.mp hsent
        have hrest : e.queue.eraseP (QueuedMsg.ready now) = ahead ++ behind := by
          rw [hqueue, List.eraseP_append_right _ (by simpa using hwait), List.eraseP_cons_of_pos hready]
        by_cases hqs : q = sent
        · exact .inr ⟨_, rfl, by rw [hqs], rfl⟩
        · have hmem : q ∈ ahead ++ behind := by simpa [hqueue, hqs] using hq
          exact .inl ⟨q, hrest ▸ hmem, rfl⟩
      · exact absurd (hfree.2.symm.trans ho) nofun

/-- A message that joins the queue of a link that is UP is carried (R125, R144). -/
theorem Engine.carries_join {e : Engine} (hup : e.link = .up) (m : Msg) (b : Placer)
    (notBefore : Option Time) : (e.join m b notBefore).Carries m := by
  rw [Engine.join, if_pos hup]
  exact .inl ⟨⟨m, b, notBefore⟩, by simp, rfl⟩

/-- An own request placed on a link that is UP waits in the queue or is sent (R132, R144). -/
theorem carries_placeOwn {s : State} {i : SlotId} (hup : s.linkUp i = true) (m : Msg) :
    ((placeOwn i m s).engine i).Carries m := by
  rw [placeOwn, if_pos hup, enqueue, modEngine_engine_self]
  exact (Engine.carries_join (of_decide_eq_true hup) m .sequencer none).serve s.time

/-! ### The pages of the survey -/

/-- A finish takes an order off the slot's list, with its active mark and its page read: any field that
this leaves stands (R46). -/
theorem finishActiveIf_slot_field {α : Type} (f : Slot → α) (hf : ∀ x, f x.dropHead = f x)
    (k : OrderKind) (i : SlotId) (o : OrderOutcome) (c : Option FaultCause) (l : List Byte) (s : State) :
    f ((finishActiveIf k i o c l s).slot i) = f (s.slot i) := by
  unfold finishActiveIf
  split
  case isFalse => rfl
  case isTrue =>
    rw [finishActive_slot_self]
    unfold Slot.finished
    split
    · exact hf _
    all_goals rfl

/-- The end of a survey is the move to PARKED of the slot with its identity judged; a SURVEY order that
finishes by it leaves the fields that are not the order list's (R6, R152). -/
theorem surveyEnd_slot_field {α : Type} (f : Slot → α) (hf : ∀ x, f x.dropHead = f x)
    (i : SlotId) (status : IdStatus) (reason : IdReason) (s : State) :
    f ((surveyEnd i status reason s).slot i)
      = f (({ s.slot i with idStatus := status, idReason := reason } : Slot).enter s.time .parked) := by
  rw [surveyEnd, testNext, raise_slot, finishActiveIf_slot_field f hf, changeStateOwn_slot_self,
    modSlot_slot_self, modSlot_time]

section SurveyPage

variable {i : SlotId} {v : Survey} {page : List Byte} {s : State}

theorem surveyPage_page0 (hv : v.step = .page0) :
    surveyPage i v page s = placeOwn i (.identPage 6) (s.modSlot i fun x =>
      { x with ident := identityOf page, survey := some ⟨.page6, some (judgePage page), []⟩ }) := by
  simp only [surveyPage, hv]

theorem surveyPage_page6 (hv : v.step = .page6) :
    surveyPage i v page s = placeOwn i (.identPage 7) (s.modSlot i fun x =>
      { x with survey := some ⟨.page7, v.judgement, page⟩ }) := by
  simp only [surveyPage, hv]

/-- Page 7 sets the row pointers and ends the survey with the judgement kept since page 0 (R151). -/
theorem surveyPage_page7 (hv : v.step = .page7) :
    surveyPage i v page s =
      surveyEnd i (if v.judgement = some .none then .valid else .invalid) (v.judgement.getD .none)
        (s.modSlot i fun x =>
          { x with
            nextRow := (rowPointers (rowsOf v.page6 page)).1
            nextSeq := (rowPointers (rowsOf v.page6 page)).2 }) := by
  simp only [surveyPage, hv]
  split
  case h_1 hj => simp [hj]
  case h_2 r hgood hj =>
    have hbad : r ≠ .none := hgood
    simp [hj, hbad]
  case h_3 hj => simp [hj]

/-- The return of page 0 fills the copy, keeps the judgement, and places IDENT-PAGE 6 whatever the
judgement is (R149, R151). -/
theorem surveyPage_page0_reads (hup : s.linkUp i = true) (hv : v.step = .page0) :
    ((surveyPage i v page s).slot i).survey = some ⟨.page6, some (judgePage page), []⟩
    ∧ ((surveyPage i v page s).slot i).ident = identityOf page
    ∧ ((surveyPage i v page s).engine i).Carries (.identPage 6) := by
  rw [surveyPage_page0 hv]
  exact ⟨by simp, by simp, carries_placeOwn (by simpa using hup) _⟩

/-- The return of page 6 keeps the page and places IDENT-PAGE 7 whatever the judgement is (R151). -/
theorem surveyPage_page6_reads (hup : s.linkUp i = true) (hv : v.step = .page6) :
    ((surveyPage i v page s).slot i).survey = some ⟨.page7, v.judgement, page⟩
    ∧ ((surveyPage i v page s).engine i).Carries (.identPage 7) := by
  rw [surveyPage_page6 hv]
  exact ⟨by simp, carries_placeOwn (by simpa using hup) _⟩

/-- The return of page 7 makes the judgement the identity status of the slot, now PARKED (R150, R152). -/
theorem surveyPage_page7_status {r : IdReason} (hv : v.step = .page7) (hj : v.judgement = some r) :
    ((surveyPage i v page s).slot i).state = .parked
    ∧ ((surveyPage i v page s).slot i).idReason = r
    ∧ ((surveyPage i v page s).slot i).idStatus = if r = .none then .valid else .invalid := by
  rw [surveyPage_page7 hv, hj]
  refine ⟨surveyEnd_slot_field Slot.state (fun _ => rfl) ..,
    surveyEnd_slot_field Slot.idReason (fun _ => rfl) ..,
    (surveyEnd_slot_field Slot.idStatus (fun _ => rfl) ..).trans ?_⟩
  simp [Slot.enter]

/-- The return of page 7 sets the row pointers from the rows of pages 6 and 7 (R151, R154). -/
theorem surveyPage_page7_pointers (hv : v.step = .page7) :
    (((surveyPage i v page s).slot i).nextRow, ((surveyPage i v page s).slot i).nextSeq)
      = rowPointers (rowsOf v.page6 page) := by
  rw [surveyPage_page7 hv,
    surveyEnd_slot_field (fun x => (x.nextRow, x.nextSeq)) (fun _ => rfl), modSlot_slot_self]
  rfl

end SurveyPage

/-! ### The judgement of page 0 (R150) -/

section Judgement

variable {page : List Byte}

@[simp] theorem identityOf_format : (identityOf page).format = byteAt page 0 := rfl
@[simp] theorem identityOf_kind : (identityOf page).kind = byteAt page 1 := rfl
@[simp] theorem identityOf_draw :
    (identityOf page).draw = ofBytes16 (byteAt page 4) (byteAt page 5) := rfl
@[simp] theorem identityOf_inrush : (identityOf page).inrush = byteAt page 6 := rfl

theorem judgePage_check (hsum : byteSum page ≠ 0) : judgePage page = .check := by
  rw [judgePage, if_pos hsum]

theorem judgePage_format (hsum : byteSum page = 0) (hformat : byteAt page 0 ≠ 1) :
    judgePage page = .format := by
  rw [judgePage, if_neg (not_not.mpr hsum), identityOf_format, if_pos hformat]

theorem judgePage_kind (hsum : byteSum page = 0) (hformat : byteAt page 0 = 1)
    (hnode : byteAt page 1 ≠ 1) (hhub : byteAt page 1 ≠ 2) : judgePage page = .kind := by
  rw [judgePage, if_neg (not_not.mpr hsum), identityOf_format, if_neg (not_not.mpr hformat),
    identityOf_kind, if_pos ⟨hnode, hhub⟩]

/-- Past the first three tests a page is good or fails the test of its draw and inrush class. -/
theorem judgePage_range (hsum : byteSum page = 0) (hformat : byteAt page 0 = 1)
    (hkind : byteAt page 1 = 1 ∨ byteAt page 1 = 2) :
    judgePage page =
      if 1 ≤ (ofBytes16 (byteAt page 4) (byteAt page 5)).toNat
        ∧ (ofBytes16 (byteAt page 4) (byteAt page 5)).toNat ≤ 600 ∧ (byteAt page 6).toNat ≤ 3
      then .none else .range := by
  have hkind' : ¬ (byteAt page 1 ≠ 1 ∧ byteAt page 1 ≠ 2) := fun ⟨hnode, hhub⟩ => hkind.elim hnode hhub
  rw [judgePage, if_neg (not_not.mpr hsum), identityOf_format, if_neg (not_not.mpr hformat),
    identityOf_kind, if_neg hkind']
  simp [inRange_iff, and_assoc]

end Judgement

/-- Settles O58: the four tests one by one, then the return of each of the survey's three pages. -/
theorem page0Judged : Obligations.Page0Judged :=
  ⟨fun _ => ⟨judgePage_check, judgePage_format, judgePage_kind, judgePage_range⟩,
    fun _ _ _ _ hup => ⟨surveyPage_page0_reads hup, surveyPage_page6_reads hup,
      fun _ hv hj => surveyPage_page7_status hv hj⟩⟩

/-! ### The newest valid row (R153, R154) -/

theorem rowValid_iff (row : List Byte) :
    rowValid row = true ↔
      byteSum row = 0 ∧ 1 ≤ (byteAt row 2).toNat ∧ (byteAt row 2).toNat ≤ 16 := by
  simp [rowValid, inRange_iff]

section NewestRow

variable {row : List Byte} {rows : List (List Byte)} {k b : Nat} {q : Byte} {best : Option (Nat × Byte)}

/-- A row that is not valid is ignored. -/
theorem newestRow_cons_invalid (h : rowValid row = false) :
    newestRow k best (row :: rows) = newestRow (k + 1) best rows := by
  simp [newestRow, h]

/-- The first valid row becomes the candidate. -/
theorem newestRow_cons_first (h : rowValid row = true) :
    newestRow k none (row :: rows) = newestRow (k + 1) (some (k, byteAt row 0)) rows := by
  simp [newestRow, h]

/-- A later valid row replaces the candidate exactly when its sequence is newer. -/
theorem newestRow_cons_later (h : rowValid row = true) :
    newestRow k (some (b, q)) (row :: rows) =
      if 1 ≤ (byteAt row 0 - q).toNat ∧ (byteAt row 0 - q).toNat ≤ 127
      then newestRow (k + 1) (some (k, byteAt row 0)) rows
      else newestRow (k + 1) (some (b, q)) rows := by
  simp only [newestRow, h, if_true, seqNewer, inRange_iff]
  split <;> rfl

/-- After a row the candidate is the one from before, or the row itself, which is then valid; a first
candidate is taken at the first valid row. -/
theorem newestRow_cons_cases (k : Nat) (best : Option (Nat × Byte)) (row : List Byte)
    (rows : List (List Byte)) :
    ∃ cand, newestRow k best (row :: rows) = newestRow (k + 1) cand rows
      ∧ ((cand = best ∧ (best = none → rowValid row = false))
        ∨ (cand = some (k, byteAt row 0) ∧ rowValid row = true)) := by
  rcases Bool.eq_false_or_eq_true (rowValid row) with h | h
  · rcases best with _ | ⟨b, q⟩
    · exact ⟨_, newestRow_cons_first h, .inr ⟨rfl, h⟩⟩
    · rw [newestRow_cons_later h]
      split
      · exact ⟨_, rfl, .inr ⟨rfl, h⟩⟩
      · exact ⟨_, rfl, .inl ⟨rfl, nofun⟩⟩
  · exact ⟨_, newestRow_cons_invalid h, .inl ⟨rfl, fun _ => h⟩⟩

/-- There is no newest row exactly when there was no candidate and no row is valid. -/
theorem newestRow_eq_none_iff :
    newestRow k best rows = none ↔ best = none ∧ ∀ r ∈ rows, rowValid r = false := by
  induction rows generalizing k best with
  | nil => simp [newestRow]
  | cons row rows ih =>
    obtain ⟨cand, hnext, ⟨rfl, hinvalid⟩ | ⟨rfl, hvalid⟩⟩ := newestRow_cons_cases k best row rows
    · rw [hnext, ih, List.forall_mem_cons]
      exact and_congr_right fun hbest => (and_iff_right (hinvalid hbest)).symm
    · simp [hnext, ih, hvalid]

/-- The newest row is the candidate from before or a valid one of the rows, with its number and its
sequence. -/
theorem newestRow_eq_some {c : Nat × Byte} (h : newestRow k best rows = some c) :
    best = some c ∨ ∃ j, j < rows.length ∧ rowValid (rows.getD j []) = true
      ∧ c = (k + j, byteAt (rows.getD j []) 0) := by
  induction rows generalizing k best with
  | nil => exact .inl h
  | cons row rows ih =>
    obtain ⟨cand, hnext, hcand⟩ := newestRow_cons_cases k best row rows
    obtain hc | ⟨j, hj, hvalid, rfl⟩ := ih (hnext ▸ h)
    · obtain ⟨hbest, -⟩ | ⟨hself, hvalid⟩ := hcand
      · exact .inl (hbest ▸ hc)
      · exact .inr ⟨0, by simp, hvalid, Option.some.inj (hc.symm.trans hself)⟩
    · exact .inr ⟨j + 1, by simpa using hj, hvalid, by simp [Nat.add_comm, Nat.add_left_comm]⟩

end NewestRow

/-- With no valid row the pointers are 0 and 1. -/
theorem rowPointers_of_none_valid {rows : List (List Byte)} (h : ∀ r ∈ rows, rowValid r = false) :
    rowPointers rows = (0, 1) := by
  rw [rowPointers, newestRow_eq_none_iff.mpr ⟨rfl, h⟩]

/-- With a valid row there is a newest row, itself one of the valid rows, and the pointers follow it. -/
theorem rowPointers_of_valid {rows : List (List Byte)} (h : ∃ r ∈ rows, rowValid r = true) :
    ∃ k, k < rows.length ∧ rowValid (rows.getD k []) = true
    ∧ rowPointers rows = (Fin.ofNat 8 (k + 1), byteAt (rows.getD k []) 0 + 1)
    ∧ (newestRow 0 none rows).map Prod.fst = some k := by
  obtain ⟨r, hr, hvalid⟩ := h
  cases hnew : newestRow 0 none rows with
  | none => exact absurd ((newestRow_eq_none_iff.mp hnew).2 r hr) (by simp [hvalid])
  | some c =>
    obtain hc | ⟨k, hk, hkvalid, rfl⟩ := newestRow_eq_some hnew
    · nomatch hc
    · exact ⟨k, hk, hkvalid, by simp [rowPointers, hnew], by simp⟩

/-- Row r stands in page 6 for r from 0 to 3 and in page 7 for r from 4 to 7, at byte 8 times
(r modulo 4) (R148). -/
theorem rowsOf_getD (page6 page7 : List Byte) (r : Fin 8) :
    (rowsOf page6 page7).getD r.val [] =
      ((if r.val < 4 then page6 else page7).drop (8 * (r.val % 4))).take 8 := by
  fin_cases r <;> rfl

/-- Settles O59: the search row by row, what it answers for eight rows, and the pointers page 7 sets. -/
theorem rowPointersFollowNewest : Obligations.RowPointersFollowNewest :=
  ⟨fun _ => rowPointers_of_none_valid,
    fun _ hlen hvalid =>
      have ⟨k, hk, hrow⟩ := rowPointers_of_valid hvalid
      ⟨k, hlen ▸ hk, hrow⟩,
    fun _ _ _ _ => newestRow_cons_invalid,
    fun _ _ _ => newestRow_cons_first,
    fun _ _ _ _ _ => newestRow_cons_later,
    rowValid_iff,
    fun _ _ v page hv => ⟨surveyPage_page7_pointers hv, rowsOf_getD v.page6 page⟩⟩

end Sys2Proof.Machine

/-! Every command completes: what one event leaves, in the shapes that the meanings of the commands have, and
from it that a step keeps the invariant. -/

namespace Sys2Proof.Machine

/-- What every command but POWER_ON_RESET leaves of a state: the invariant, the queue, the shelf time and
the straps. -/
structure Completed (s t : State) : Prop where
  inv : Inv t
  pending : t.pending = s.pending
  time : t.time = s.time
  straps : t.straps = s.straps

/-- What one event leaves: each slot's record is written at most once, and not left other than it was
unwritten (R2, log 6). -/
structure OneEvent (s t : State) : Prop extends Completed s t where
  records : ∀ i, (t.slot i).upd = (s.slot i).upd + 1
    ∨ (t.slot i).upd = (s.slot i).upd ∧ t.recordView i = s.recordView i

variable {s : State} {act : State → State}

theorem OneEvent.refl (h : Inv s) : OneEvent s s :=
  ⟨⟨h, rfl, rfl, rfl⟩, fun _ => .inr ⟨rfl, rfl⟩⟩

/-- A level of an input is in no slot's record. -/
theorem OneEvent.of_modPins {i : SlotId} {g : SlotPins → SlotPins} {t : State}
    (h : OneEvent (s.modPins i g) t) : OneEvent s t :=
  ⟨⟨h.inv, h.pending, h.time, h.straps⟩, h.records⟩

theorem OneEvent.of_measureFeed {x : Feed} {b : Bool} {t : State}
    (h : OneEvent (s.measureFeed x b) t) : OneEvent s t := by
  cases x <;> exact ⟨⟨h.inv, h.pending, h.time, h.straps⟩, h.records⟩

/-! ### A raw level that has not held (log 18) -/

/-- A level an input already has changes nothing. -/
theorem modPins_same {s : State} {i : SlotId} {g : SlotPins → SlotPins} (h : g (s.pinsOf i) = s.pinsOf i) :
    s.modPins i g = s := by
  rw [State.modPins, h]
  simp [State.pinsOf]

/-- A raw contact level changes the level and from when its debounce runs (R3). -/
theorem rawContact_eq (i : SlotId) (c : Contact) (made : Bool) (s : State) :
    rawContact i c made s = { s.modPins i (SlotPins.setContact c made) with
      debounceFrom := (rawContact i c made s).debounceFrom } := by
  by_cases h : SlotPins.contact c (s.pinsOf i) = made
  · have same : s.modPins i (SlotPins.setContact c made) = s := modPins_same (by subst h; cases c <;> rfl)
    rw [rawContact, if_pos h, same]
  · rw [rawContact, if_neg h]
    rfl

/-- A raw handle level changes the level and from when its debounce runs (R4). -/
theorem rawHandle_eq (i : SlotId) (isOpen : Bool) (s : State) :
    rawHandle i isOpen s = { s.modPins i (fun p => { p with handleOpen := isOpen }) with
      debounceFrom := (rawHandle i isOpen s).debounceFrom } := by
  by_cases h : (s.pinsOf i).handleOpen = isOpen
  · have same : s.modPins i (fun p => { p with handleOpen := isOpen }) = s := modPins_same (by subst h; rfl)
    rw [rawHandle, if_pos h, same]
  · rw [rawHandle, if_neg h]
    rfl

/-- A raw feed level changes the measurement and from when its debounce runs (R76). -/
theorem rawFeed_eq (x : Feed) (low : Bool) (s : State) :
    rawFeed x low s = { s.measureFeed x low with debounceFrom := (rawFeed x low s).debounceFrom } := by
  cases x
  · by_cases h : s.feedALow = low
    · simp [rawFeed, State.measureFeed, ← h]
    · simp [rawFeed, State.measureFeed, h]
  · by_cases h : s.feedBLow = low
    · simp [rawFeed, State.measureFeed, ← h]
    · simp [rawFeed, State.measureFeed, h]

theorem oneEvent_rawContact {s : State} (h : Inv s) (i : SlotId) (c : Contact) (made : Bool) :
    OneEvent s (rawContact i c made s) := by
  have hinv : Inv (rawContact i c made s) := inv_rawContact h
  rw [rawContact_eq] at hinv ⊢
  exact ⟨⟨hinv, rfl, rfl, rfl⟩, fun _ => .inr ⟨rfl, rfl⟩⟩

theorem oneEvent_rawHandle {s : State} (h : Inv s) (i : SlotId) (isOpen : Bool) :
    OneEvent s (rawHandle i isOpen s) := by
  have hinv : Inv (rawHandle i isOpen s) := inv_rawHandle h
  rw [rawHandle_eq] at hinv ⊢
  exact ⟨⟨hinv, rfl, rfl, rfl⟩, fun _ => .inr ⟨rfl, rfl⟩⟩

theorem oneEvent_rawFeed {s : State} (h : Inv s) (x : Feed) (low : Bool) :
    OneEvent s (rawFeed x low s) := by
  have hinv : Inv (rawFeed x low s) := inv_rawFeed h
  rw [rawFeed_eq] at hinv ⊢
  cases x <;> exact ⟨⟨hinv, rfl, rfl, rfl⟩, fun _ => .inr ⟨rfl, rfl⟩⟩

/-! ### The shapes of the commands -/

/-- An event whose act keeps the invariant and the parts no act changes. -/
theorem oneEvent_event (h : Written s (act s)) : OneEvent s (event act s) := by
  obtain ⟨inv, pending, time, -, straps, -, -, -, upd⟩ := (Kept.refl h.inv).event
  refine ⟨⟨inv, pending.trans h.pending, time.trans h.time, straps.trans h.straps⟩, fun i => ?_⟩
  rw [← h.upd i]
  exact upd i

theorem oneEvent_unlessHeld (h : Inv s)
    (ha : ∀ f s, Kept f s → s.held = false → Kept f (act s)) : OneEvent s (event (unlessHeld act) s) :=
  oneEvent_event (.of_kept_self ((Kept.refl h).unlessHeld (ha _ _ (Kept.refl h))))

/-- A deadline or a frame: an event that the hold of the RESET line stops. -/
theorem oneEvent_live (h : Inv s) (ha : ∀ f s, Kept f s → Kept f (act s)) :
    OneEvent s (liveEvent act s) :=
  oneEvent_unlessHeld h fun f s hk _ => ha f s hk

/-- A host write of one word. -/
theorem oneEvent_write (h : Inv s) (a : Nat) (v : Word) (e : BitVec 4) :
    OneEvent s (event (writeWord a v e) s) :=
  oneEvent_event (written_writeWord a v e h)

/-- A take of the intake, which moves the pointer as well (R36). -/
theorem oneEvent_take (h : Inv s) (k : Option OrderKind) : OneEvent s (liveEvent (takeKind k) s) := by
  refine oneEvent_event ?_
  unfold unlessHeld
  split
  · exact .refl h
  · obtain ⟨c, hc⟩ := (Kept.refl h).takeKind (k := k)
    exact .of_kept hc rfl rfl rfl rfl fun _ => rfl

/-- The words of a host write request are events one after another. -/
theorem completed_request (h : Inv s) (words : List WordWrite) : Completed s (writeRequest words s) := by
  unfold writeRequest
  refine List.foldlRecOn _ _ ⟨h, rfl, rfl, rfl⟩ fun t ht w _ => ?_
  have hw := oneEvent_write ht.inv w.addr w.data.value w.data.enable
  exact ⟨hw.inv, hw.pending.trans ht.pending, hw.time.trans ht.time, hw.straps.trans ht.straps⟩

/-! ### Every command -/

/-- How a command completes in a state: as one event, unless it is a request of several words (log 22). -/
structure Completes (c : Instr) (s t : State) : Prop extends Completed s t where
  next : exec c s = .next t
  one : c.hostAddresses.length ≤ 1 → OneEvent s t

theorem OneEvent.completes {c : Instr} {t : State} (h : OneEvent s t) (hx : exec c s = .next t) :
    ∃ t, Completes c s t :=
  ⟨t, ⟨h.toCompleted, hx, fun _ => h⟩⟩

/-- A host write request completes; of one word it is one event. -/
theorem completes_request {c : Instr} {w : WordWrite} {more : List WordWrite} (h : Inv s)
    (hx : exec c s = .next (writeRequest (w :: more) s))
    (ha : c.hostAddresses = w.addr :: more.map (·.addr)) : ∃ t, Completes c s t := by
  refine ⟨_, ⟨completed_request h _, hx, fun hlen => ?_⟩⟩
  have hmore : more = [] := by simpa [ha] using hlen
  subst hmore
  exact oneEvent_write h ..

/-- The command table: every command but POWER_ON_RESET completes. -/
theorem exec_completes (c : Instr) (hc : ∀ b, c ≠ .powerOnReset b) (h : Inv s) :
    ∃ t, Completes c s t := by
  cases c with
  | powerOnReset board => exact absurd rfl (hc board)
  | resetLineAssert =>
    exact OneEvent.completes (t := { s with resetLine := some (s.resetLine.getD s.time) })
      ⟨⟨inv_resetLine h, rfl, rfl, rfl⟩, fun _ => .inr ⟨rfl, rfl⟩⟩ rfl
  | resetLineRelease =>
    have hreleased : Inv { s with resetLine := none } := inv_resetLine h
    refine OneEvent.completes ?_ rfl
    split
    · have he := oneEvent_event (act := warmRestart .resetLine) (written_warmRestart hreleased)
      exact ⟨⟨he.inv, he.pending, he.time, he.straps⟩, he.records⟩
    · exact ⟨⟨hreleased, rfl, rfl, rfl⟩, fun _ => .inr ⟨rfl, rfl⟩⟩
  | restart | cellPost | cellWithdraw | cellReturn | runSet | runClear | noticeEnableWrite =>
    exact (oneEvent_write h ..).completes rfl
  | cellBodyWrite | readCountWrite | shelfAreaWriteRefused | attentionClear | attentionEnableWrite
  | registerWriteRefused => exact completes_request h rfl rfl
  | messageEnableChange b =>
    exact (oneEvent_event (written_changeMessageEnable h)).completes rfl
  | admitBlade | retire | survey | readIdentity | clearFault | cut | cancel | hold | unhold | setPolicy
  | setBudget | setTiming | badKindTake => exact (oneEvent_take h _).completes rfl
  | contactDebounce i x input =>
    refine OneEvent.completes ?_ rfl
    split
    · exact (oneEvent_unlessHeld (inv_modPins h) fun f s hk _ => hk.contactTaken).of_modPins
    · exact oneEvent_rawContact h i x _
  | handleDebounce i input =>
    refine OneEvent.completes ?_ rfl
    split
    · exact (oneEvent_unlessHeld (inv_modPins h) fun f s hk _ => hk.handleTaken).of_modPins
    · exact oneEvent_rawHandle h i _
  | feedDebounce x input =>
    refine OneEvent.completes ?_ rfl
    split
    · exact (oneEvent_unlessHeld (inv_measureFeed h) fun f s hk _ => hk.feedTaken).of_measureFeed
    · exact oneEvent_rawFeed h x _
  | settleExpiry => exact (oneEvent_live h fun _ _ hk => hk.settleExpired).completes rfl
  | waitDeadlineExpiry => exact (oneEvent_live h fun _ _ hk => hk.waitExpired).completes rfl
  | reexaminationExpiry => exact (oneEvent_live h fun _ _ hk => hk.reexamExpired).completes rfl
  | powerGood =>
    exact (oneEvent_unlessHeld (inv_modPins h) fun _ _ hk _ => hk.powerGoodTaken).of_modPins.completes rfl
  | rampLimitExpiry => exact (oneEvent_live h fun _ _ hk => hk.rampLimitExpired).completes rfl
  | trip =>
    refine OneEvent.completes (oneEvent_event (.of_kept_self ?_)) rfl
    split
    · next hh => exact (Kept.refl h).tripHeld hh
    · exact (Kept.refl h).tripTaken
  | powerGoodLoss =>
    exact (oneEvent_unlessHeld (inv_modPins h) fun _ _ hk _ => hk.powerGoodLost).of_modPins.completes rfl
  | resetHoldExpiry =>
    exact (oneEvent_unlessHeld h fun _ _ hk hh => hk.resetHoldExpired hh).completes rfl
  | deferralExpiry => exact (oneEvent_live h fun _ _ hk => hk.deferralExpired).completes rfl
  | minuteExpiry => exact (oneEvent_unlessHeld h fun _ _ hk hh => hk.minuteExpired hh).completes rfl
  | horizonExpiry => exact (oneEvent_live h fun _ _ hk => hk.horizonExpired).completes rfl
  | historyEntryAge => exact (oneEvent_live h fun _ _ hk => hk.historyAged).completes rfl
  | bootLimitExpiry => exact (oneEvent_live h fun _ _ hk => hk.bootExpired).completes rfl
  | quiesceDeadlineExpiry => exact (oneEvent_live h fun _ _ hk => hk.quiesceExpired).completes rfl
  | offerDeadlineExpiry => exact (oneEvent_live h fun _ _ hk => hk.offerExpired).completes rfl
  | drainDeadlineExpiry => exact (oneEvent_live h fun _ _ hk => hk.drainExpired).completes rfl
  | frameArrival => exact (oneEvent_live h fun _ _ hk => hk.frameTaken).completes rfl
  | replyDeadlineExpiry => exact (oneEvent_live h fun _ _ hk => hk.replyExpired).completes rfl
  | notBeforeExpiry => exact (oneEvent_live h fun _ _ hk => hk.serveLink).completes rfl
  | pollDeadlineExpiry => exact (oneEvent_live h fun _ _ hk => hk.pollExpired).completes rfl
  | alert =>
    exact (oneEvent_unlessHeld (inv_modPins h) fun _ _ hk _ => hk.alertTest).of_modPins.completes rfl
  | recoveryDeadlineExpiry => exact (oneEvent_live h fun _ _ hk => hk.recoveryExpired).completes rfl
  | probePauseExpiry => exact (oneEvent_live h fun _ _ hk => hk.pauseExpired).completes rfl
  | programLimitExpiry => exact (oneEvent_live h fun _ _ hk => hk.limitExpired).completes rfl
  | indicatorBlinkPhase => exact (oneEvent_live h fun _ _ hk => hk.blinkExpired).completes rfl

/-- POWER_ON_RESET starts every block afresh and leaves the queue of commands (R190, log 30). -/
theorem exec_powerOnReset_completes (b : BoardInputs) (s : State) :
    ∃ t, exec (.powerOnReset b) s = .next t ∧ Inv t ∧ t.pending = s.pending := by
  have he := (Kept.refl (inv_powerOn b s.pending)).powerOnSamples.event
  exact ⟨_, rfl, he.1, he.2.1⟩

/-- Every command completes, keeps the invariant and leaves the queue. -/
theorem exec_keeps_inv (c : Instr) (h : Inv s) : ∃ t, exec c s = .next t ∧ Inv t ∧ t.pending = s.pending := by
  by_cases hc : ∃ b, c = .powerOnReset b
  · obtain ⟨b, rfl⟩ := hc
    exact exec_powerOnReset_completes b s
  · obtain ⟨t, ht⟩ := exec_completes c (fun b hb => hc ⟨b, hb⟩) h
    exact ⟨t, ht.next, ht.inv, ht.pending⟩

/-- Settles O5: a step is one command with the queue's rest, or one millisecond. -/
theorem stepKeepsInvariant : Obligations.StepKeepsInvariant := by
  intro s t h hstep
  unfold step at hstep
  split at hstep
  case h_1 c rest _ =>
    obtain ⟨u, hu, hinv, -⟩ := exec_keeps_inv c (inv_queue (q := rest) (t := s.time) h)
    exact (Host.Outcome.next.inj (hu.symm.trans hstep)) ▸ hinv
  case h_2 =>
    exact (Host.Outcome.next.inj hstep) ▸ inv_tick h

/-- Settles O6. -/
theorem everyCommandCompletes : Obligations.EveryCommandCompletes := by
  intro c s h
  by_cases hc : ∃ b, c = .powerOnReset b
  · obtain ⟨b, rfl⟩ := hc
    obtain ⟨t, ht, -, hpending⟩ := exec_powerOnReset_completes b s
    exact ⟨t, ht, hpending, fun hne => absurd rfl (hne b)⟩
  · obtain ⟨t, ht⟩ := exec_completes c (fun b hb => hc ⟨b, hb⟩) h
    exact ⟨t, ht.next, ht.pending, fun _ => ⟨ht.time, ht.straps⟩⟩

/-- Settles O4: the part after power-on reset, on the board of log 5. -/
theorem resetHasInvariant : Obligations.ResetHasInvariant :=
  inv_powerOn BoardInputs.empty []

end Sys2Proof.Machine

/-! Rules of single functions: check bytes (R204), the room for a claim (R61), the order of the Power Wait
Queue (R64), a step's two courses and the state after power-on reset (R190). -/

namespace Sys2Proof.Machine

/-! ### Check bytes (R204) -/

theorem byteSum_append (xs ys : List Byte) : byteSum (xs ++ ys) = byteSum xs + byteSum ys := by
  have shift : ∀ (zs : List Byte) (b : Byte), zs.foldl (· + ·) b = b + zs.foldl (· + ·) 0 := by
    intro zs
    induction zs with
    | nil => simp
    | cons z zs ih =>
      intro b
      rw [List.foldl_cons, List.foldl_cons, ih, ih (0 + z), zero_add, add_assoc]
  rw [byteSum, byteSum, List.foldl_append, shift]
  rfl

/-- The check byte makes the sum 0. -/
theorem byteSum_append_checkByte (bs : List Byte) : byteSum (bs ++ [checkByte bs]) = 0 := by
  rw [byteSum_append, show byteSum [checkByte bs] = 0 + checkByte bs from rfl, checkByte]
  bv_omega

theorem byteSum_toNat (bs : List Byte) : (byteSum bs).toNat = (bs.map BitVec.toNat).sum % 256 := by
  induction bs with
  | nil => rfl
  | cons b bs ih =>
    have cons_eq : byteSum (b :: bs) = byteSum [b] + byteSum bs := byteSum_append [b] bs
    rw [cons_eq, BitVec.toNat_add, ih, show byteSum [b] = 0 + b from rfl, zero_add, List.map_cons,
      List.sum_cons, Nat.add_mod_mod]

theorem checkByte_toNat (bs : List Byte) :
    (checkByte bs).toNat = (256 - (bs.map BitVec.toNat).sum % 256) % 256 := by
  rw [checkByte, BitVec.toNat_sub, byteSum_toNat]
  rfl

/-- Settles O60. -/
theorem checkBytes : Obligations.CheckBytes :=
  ⟨fun bs => ⟨checkByte_toNat bs, byteSum_append_checkByte bs⟩,
    fun _ _ _ _ _ _ => ⟨byteSum_append_checkByte _, rfl⟩,
    fun _ _ => byteSum_append_checkByte _,
    fun _ => judgePage_check,
    fun _ h => by rw [rowValid, decide_eq_false h, Bool.false_and],
    fun _ _ _ h => by rw [judgeReply, if_pos (.inr h)]⟩

/-! ### The room for a claim (R61) -/

/-- Settles O56: a hub's claim is held to the capacity, a node's to what the unused reserve leaves of it. -/
theorem claimFits : Obligations.ClaimFits := by
  intro a i claim reserve
  refine ⟨?_, fun q => rfl⟩
  have hreserve : (a.unusedReserve : Int) = reserve := by
    simp only [Allocator.unusedReserve, reserve]
    omega
  by_cases hub : 14 ≤ i.val
  · simp only [Allocator.fits, isHub, hub, decide_true, if_true, decide_eq_true_eq]
    omega
  · simp only [Allocator.fits, isHub, hub, decide_false, Bool.false_eq_true, if_false,
      decide_eq_true_eq]
    omega

/-! ### The order of the Power Wait Queue (R64) -/

theorem QueueEntry.before_iff (e f : QueueEntry) : e.before f = true ↔
    (isHub e.slot = true ∧ isHub f.slot = false)
      ∨ (isHub e.slot = isHub f.slot ∧ e.urgency < f.urgency) := by
  simp [QueueEntry.before]

theorem QueueEntry.not_before_of_before {e f : QueueEntry} (h : e.before f = true) : f.before e = false := by
  rw [Bool.eq_false_iff, Ne, QueueEntry.before_iff]
  rw [QueueEntry.before_iff] at h
  rcases h with ⟨he, hf⟩ | ⟨hclass, hlt⟩
  · simp [he, hf]
  · simp [hclass]
    omega

/-- An entry ordered before another is ordered before all that stand no earlier than that one. -/
theorem QueueEntry.before_of_before {e f g : QueueEntry} (h : e.before f = true)
    (hg : g.before f = false) : e.before g = true := by
  rw [Bool.eq_false_iff, Ne, QueueEntry.before_iff] at hg
  rw [QueueEntry.before_iff] at h ⊢
  cases he : isHub e.slot <;> cases hf : isHub f.slot <;> cases hgs : isHub g.slot <;>
    simp_all <;> omega

/-- The order of two entries of the queue, the earlier place first (R64). -/
def QueueEntry.Ordered (a b : QueueEntry) : Prop :=
  b.before a = false ∧ (a.before b = false → reached b.arrival a.arrival = true)

/-- Where an entry joins: behind those it is not ordered before, ahead of the first it is. -/
theorem insertEntry_split (e : QueueEntry) (q : List QueueEntry) :
    ∃ ahead behind, q = ahead ++ behind ∧ insertEntry e q = ahead ++ e :: behind
      ∧ (∀ a ∈ ahead, e.before a = false) ∧ ∀ b ∈ behind.head?, e.before b = true := by
  induction q with
  | nil => exact ⟨[], [], rfl, rfl, nofun, nofun⟩
  | cons f fs ih =>
    by_cases hf : e.before f = true
    · exact ⟨[], f :: fs, rfl, by simp [insertEntry, hf], nofun, by simpa using hf⟩
    · obtain ⟨ahead, behind, hq, hins, hahead, hbehind⟩ := ih
      refine ⟨f :: ahead, behind, by rw [hq]; rfl, by simp [insertEntry, hf, hins], ?_, hbehind⟩
      simpa [Bool.eq_false_iff.mpr hf] using hahead

/-- An entry that joins leaves an ordered queue ordered. -/
theorem insertEntry_ordered {e : QueueEntry} {q : List QueueEntry} (h : q.Pairwise QueueEntry.Ordered)
    (harrived : ∀ a ∈ q, reached e.arrival a.arrival = true) :
    (insertEntry e q).Pairwise QueueEntry.Ordered := by
  obtain ⟨ahead, behind, rfl, hins, hahead, hbehind⟩ := insertEntry_split e q
  have before_behind : ∀ b ∈ behind, e.before b = true := by
    cases behind with
    | nil => nofun
    | cons f fs =>
      have hf : e.before f = true := hbehind f rfl
      have hfs := (List.pairwise_cons.mp (List.pairwise_append.mp h).2.1).1
      intro b hb
      rcases List.mem_cons.mp hb with rfl | hb
      · exact hf
      · exact QueueEntry.before_of_before hf (hfs b hb).1
  obtain ⟨horder_ahead, horder_behind, hacross⟩ := List.pairwise_append.mp h
  rw [hins, List.pairwise_append, List.pairwise_cons]
  refine ⟨horder_ahead, ⟨fun b hb => ?_, horder_behind⟩, fun a ha b hb => ?_⟩
  · have hbefore := before_behind b hb
    exact ⟨QueueEntry.not_before_of_before hbefore, fun hn => absurd hbefore (by simp [hn])⟩
  · rcases List.mem_cons.mp hb with rfl | hb
    · exact ⟨hahead a ha, fun _ => harrived a (List.mem_append_left _ ha)⟩
    · exact hacross a ha b hb

@[simp] theorem reportFrom_alloc (k : Nat) (q : List QueueEntry) (s : State) :
    (reportFrom k q s).alloc = s.alloc := by
  induction q generalizing k s with
  | nil => rfl
  | cons e es ih => rw [reportFrom, ih, modSlot_alloc]

@[simp] theorem setQueue_alloc (q : List QueueEntry) (s : State) :
    (setQueue q s).alloc = { s.alloc with queue := q, reexam := none } := by
  simp [setQueue, reportQueue]

/-- A removed entry closes its place (R71). -/
theorem removeEntry_queue (i : SlotId) (s : State) : (removeEntry i s).alloc.queue =
    s.alloc.queue.filter fun e => !decide (e.slot = i) := by
  unfold removeEntry
  split
  case isTrue h => simp
  case isFalse h =>
    rw [eq_comm, List.filter_eq_self]
    simpa [State.isQueued] using h

/-- Settles O57. -/
theorem queueKeptInOrder : Obligations.QueueKeptInOrder := by
  intro e q ordered hq harrived
  obtain ⟨ahead, behind, heq, hins, hahead, hbehind⟩ := insertEntry_split e q
  exact ⟨insertEntry_ordered hq harrived, ahead, behind, heq, hins, hahead, hbehind,
    fun s i => removeEntry_queue i s⟩

/-! ### A step -/

/-- Settles O1: a step's first case, by definition. -/
theorem stepRunsFrontCommand : Obligations.StepRunsFrontCommand :=
  fun _ _ _ => rfl

/-- During the hold nothing comes due (R193). -/
theorem dueCommands_held {s : State} (h : s.held = true) : dueCommands s = [] := by
  rw [dueCommands, if_pos h]

/-- One millisecond: the shelf time, the take of the RESET line, and what has come due (log 4). -/
theorem tick_eq (s : State) : tick s =
    let u : State := { s with
      time := s.time + 1
      held := s.held || due (s.time + 1) (s.resetLine.map fun since => after since 1) }
    { u with pending := s.pending ++ dueCommands u } := by
  rw [tick, takeResetLine_eq]
  rfl

/-- On an empty queue the time base ticks (log 4). -/
theorem step_idle {s : State} (h : s.pending = []) : step s = .next (tick s) := by
  simp only [step, h]

/-- Settles O2: the time base's tick, field by field. -/
theorem idleStepIsOneMillisecond : Obligations.IdleStepIsOneMillisecond := by
  intro s hs u
  refine ⟨?_, dueCommands_held⟩
  rw [step_idle hs, tick_eq]
  exact congrArg (fun l => Host.Outcome.next { u with pending := l ++ dueCommands u }) hs

/-- After power-on reset every port is ISOLATED and its gate closed (R99, R190). -/
theorem reset_portOf (p : PortId) : State.reset.portOf p = ⟨.isolated, false, 0, none, false⟩ := by
  obtain ⟨n, h⟩ := p
  revert n h
  decide +kernel

/-- Settles O3: each field of the initialization, on the empty board. -/
theorem resetState : Obligations.ResetState := by
  unfold Obligations.ResetState
  and_intros
  any_goals exact reset_portOf
  all_goals decide +kernel

end Sys2Proof.Machine

/-! Host writes at the Management Port: each word is an event that brings no follow-up work and changes no
slot's record, so the event is the write itself. -/

namespace Sys2Proof.Machine

/-! ### Acts that bring no work and change no record -/

/-- `t` differs from `s` in nothing that an event follows up or writes a record of. -/
structure Unrecorded (s t : State) : Prop where
  work : t.work = s.work
  late : t.late = s.late
  shelfDirty : t.shelfDirty = s.shelfDirty
  changed : t.changed = s.changed
  broughtBy : t.broughtBy = s.broughtBy
  slots : t.slots = s.slots
  power : t.power = s.power
  engines : t.engines = s.engines
  ports : t.ports = s.ports

variable {s : State} {act : State → State}

/-- Such an act is the whole event. -/
theorem event_unrecorded (hr : s.Ready) (h : Unrecorded s (act s)) : event act s = act s :=
  event_act s act hr rfl h.work h.late h.shelfDirty h.changed h.broughtBy
    (recordView_congr h.slots h.power h.engines h.ports)

theorem Unrecorded.refl (s : State) : Unrecorded s s := ⟨rfl, rfl, rfl, rfl, rfl, rfl, rfl, rfl, rfl⟩

theorem Unrecorded.trans {t u : State} (h : Unrecorded s t) (h' : Unrecorded t u) : Unrecorded s u :=
  ⟨h'.work.trans h.work, h'.late.trans h.late, h'.shelfDirty.trans h.shelfDirty,
    h'.changed.trans h.changed, h'.broughtBy.trans h.broughtBy, h'.slots.trans h.slots,
    h'.power.trans h.power, h'.engines.trans h.engines, h'.ports.trans h.ports⟩

theorem Unrecorded.ready {t : State} (h : Unrecorded s t) (hr : s.Ready) : t.Ready :=
  ⟨h.work.trans hr.work, h.late.trans hr.late, h.shelfDirty.trans hr.shelf, h.changed.trans hr.changed,
    h.broughtBy.trans hr.broughtBy⟩

theorem unrecorded_setCell (c : CellId) (x : CellState) (s : State) : Unrecorded s (s.setCell c x) :=
  ⟨rfl, rfl, rfl, rfl, rfl, rfl, rfl, rfl, rfl⟩

theorem unrecorded_updatePort (f : MgmtPort → MgmtPort) (s : State) : Unrecorded s (s.updatePort f) :=
  ⟨rfl, rfl, rfl, rfl, rfl, rfl, rfl, rfl, rfl⟩

theorem unrecorded_latch (a : Attention) (s : State) : Unrecorded s (s.latch a) := by
  unfold State.latch
  exact unrecorded_updatePort _ s

theorem unrecorded_refuseWrite (s : State) : Unrecorded s (refuseWrite s) := unrecorded_latch .guard s

theorem unrecorded_setMem (m : List Host.Cell) (s : State) : Unrecorded s { s with mem := m } :=
  ⟨rfl, rfl, rfl, rfl, rfl, rfl, rfl, rfl, rfl⟩

theorem unrecorded_roomTest (s : State) : Unrecorded s (roomTest s) := by
  constructor <;> simp

theorem unrecorded_setReadCount (r : Word16) (s : State) :
    Unrecorded s { s with journal := { s.journal with readCount := r } } :=
  ⟨rfl, rfl, rfl, rfl, rfl, rfl, rfl, rfl, rfl⟩

/-! ### The words of the window -/

theorem unrecorded_writeStateWord (c : CellId) (v : Word) (e : BitVec 4) (s : State) :
    Unrecorded s (writeStateWord c v e s) := by
  unfold writeStateWord
  split
  · split
    · exact unrecorded_setCell ..
    · exact unrecorded_refuseWrite s
  · exact .refl s

theorem unrecorded_writeBodyWord (c : CellId) (a : Nat) (v : Word) (e : BitVec 4) (s : State) :
    Unrecorded s (writeBodyWord c a v e s) := by
  unfold writeBodyWord
  split
  · exact unrecorded_setMem ..
  · exact unrecorded_refuseWrite s

theorem unrecorded_writeCountWord (e : BitVec 4) (s : State) : Unrecorded s (writeCountWord e s) := by
  unfold writeCountWord
  split
  · exact unrecorded_refuseWrite s
  · exact .refl s

theorem unrecorded_writeReadCount (v : Word) (e : BitVec 4) (s : State) :
    Unrecorded s (writeReadCount v e s) := by
  unfold writeReadCount
  dsimp only
  split
  · split
    · exact .refl s
    · exact (unrecorded_setReadCount _ s).trans (unrecorded_roomTest _)
  · exact unrecorded_refuseWrite s

theorem unrecorded_storeControl (run notice : Bool) (s : State) :
    Unrecorded s (storeControl run notice s) := by
  unfold storeControl
  dsimp only
  split
  · exact (unrecorded_updatePort _ s).trans (unrecorded_roomTest _)
  · exact unrecorded_updatePort _ s

theorem unrecorded_writeAttention (v : Word) (e : BitVec 4) (s : State) :
    Unrecorded s (writeAttention v e s) := by
  unfold writeAttention
  dsimp only
  generalize (if e.getLsbD 0 then v.setWidth 6 else (0 : BitVec 6)) = bits
  split
  · exact (unrecorded_updatePort _ s).trans (unrecorded_updatePort _ _)
  · exact unrecorded_updatePort _ s

theorem unrecorded_writeEnable (v : Word) (e : BitVec 4) (s : State) :
    Unrecorded s (writeEnable v e s) := by
  unfold writeEnable
  split
  · exact unrecorded_updatePort _ s
  · exact .refl s

theorem unrecorded_changeMessageEnable (b : Bool) (s : State) : Unrecorded s (changeMessageEnable b s) :=
  ⟨rfl, rfl, rfl, rfl, rfl, rfl, rfl, rfl, rfl⟩

/-! What a word's offset selects, outside the hold (R176, R184 to R188). -/

theorem writeWord_state (h : s.held = false) (c : CellId) (v : Word) (e : BitVec 4) :
    writeWord (cellOffset c) v e s = writeStateWord c v e s := by
  simpa using writeWord_cell h c 0 (by omega) v e

theorem writeWord_body (h : s.held = false) (c : CellId) {w : Nat} (h0 : 1 ≤ w) (hw : w < 32) (v : Word)
    (e : BitVec 4) :
    writeWord (cellOffset c + 4 * w) v e s = writeBodyWord c (cellOffset c + 4 * w) v e s := by
  rw [writeWord_cell h c w hw, if_neg (by omega)]

theorem writeWord_count (h : s.held = false) (v : Word) (e : BitVec 4) :
    writeWord 0x0100 v e s = writeCountWord e s := by
  simp [writeWord, h]

theorem writeWord_readCount (h : s.held = false) (v : Word) (e : BitVec 4) :
    writeWord 0x0104 v e s = writeReadCount v e s := by
  simp [writeWord, h]

theorem writeWord_control (h : s.held = false) (v : Word) (e : BitVec 4) :
    writeWord 0x4000 v e s = writeControl v e s := by
  simp [writeWord, h]

theorem writeWord_attention (h : s.held = false) (v : Word) (e : BitVec 4) :
    writeWord 0x4008 v e s = writeAttention v e s := by
  simp [writeWord, h]

theorem writeWord_enable (h : s.held = false) (v : Word) (e : BitVec 4) :
    writeWord 0x400C v e s = writeEnable v e s := by
  simp [writeWord, h]

/-- Every other word of the window is read-only (R177, R188). -/
theorem writeWord_refused (h : s.held = false) {a : Nat} (ha : a < 0x8000)
    (hcell : ¬ (0x400 ≤ a ∧ a < 0x1400))
    (hreg : a ∉ [0x0100, 0x0104, 0x4000, 0x4008, 0x400C]) (v : Word) (e : BitVec 4) :
    writeWord a v e s = refuseWrite s := by
  simp only [List.mem_cons, List.not_mem_nil, or_false, not_or] at hreg
  obtain ⟨h1, h2, h3, h4, h5⟩ := hreg
  have hin : (s.held || decide (0x8000 ≤ a)) = false := by simp [h, ha]
  rw [writeWord, hin, if_neg (by simp), if_neg hcell, if_neg h1, if_neg h2, if_neg h3, if_neg h4,
    if_neg h5]

/-! ### Order cells (R178, R179) -/

/-- A write of a cell's state word, by the cell's state and the byte written. -/
theorem writeStateWord_eq (c : CellId) (v : Word) (e : BitVec 4) (s : State) :
    writeStateWord c v e s =
      if e.getLsbD 0 = false then s
      else if s.cell c = .free ∧ v.setWidth 8 = (1 : Byte) then s.setCell c .posted
      else if (s.cell c = .posted ∨ s.cell c = .finished ∨ s.cell c = .refused)
        ∧ v.setWidth 8 = (0 : Byte) then s.setCell c .free
      else s.latch .guard := by
  by_cases he : e.getLsbD 0 = false
  · rw [writeStateWord, he, if_pos rfl, if_neg Bool.false_ne_true]
  · rw [writeStateWord, if_neg he, if_pos (by simpa using he)]
    cases s.cell c <;> simp only [hostChange, CellState.code, refuseWrite] <;> split_ifs <;> simp_all

/-- A write of FREE to a cell's state word. -/
theorem writeStateWord_zero (c : CellId) (s : State) : writeStateWord c 0 1 s =
    if s.cell c = .posted ∨ s.cell c = .finished ∨ s.cell c = .refused then s.setCell c .free
    else s.latch .guard := by
  rw [writeStateWord_eq, if_neg (by decide), if_neg fun h => absurd h.2 (by decide)]
  exact if_congr (and_iff_left (by decide)) rfl rfl

/-- A write of a cell's state word is the whole event. -/
theorem event_stateWord (hl : s.Live) (c : CellId) (v : Word) (e : BitVec 4) :
    event (writeWord (cellOffset c) v e) s = writeStateWord c v e s := by
  rw [event_unrecorded hl.toReady] <;> rw [writeWord_state hl.held]
  exact unrecorded_writeStateWord ..

/-- Settles O8. -/
theorem cellStateWrites : Obligations.CellStateWrites := by
  intro c s hl
  have write := event_stateWord hl c
  refine ⟨?_, ?_, ?_, fun v e => ?_⟩
  · refine congrArg Host.Outcome.next ((write 1 1).trans ?_)
    rw [writeStateWord_eq, if_neg (by decide)]
    by_cases hc : s.cell c = .free
    · rw [if_pos ⟨hc, by decide⟩, if_pos hc]
    · rw [if_neg fun h => hc h.1, if_neg fun h => absurd h.2 (by decide), if_neg hc]
  · exact congrArg Host.Outcome.next ((write 0 1).trans (writeStateWord_zero c s))
  · exact congrArg Host.Outcome.next ((write 0 1).trans (writeStateWord_zero c s))
  · exact congrArg Host.Outcome.next ((write v e).trans (writeStateWord_eq c v e s))

/-- A write of a word of a cell's body is the whole event. -/
theorem event_bodyWord (hl : s.Live) (c : CellId) {w : Nat} (h0 : 1 ≤ w) (hw : w < 32) (v : Word)
    (e : BitVec 4) : event (writeWord (cellOffset c + 4 * w) v e) s =
      writeBodyWord c (cellOffset c + 4 * w) v e s := by
  rw [event_unrecorded hl.toReady] <;> rw [writeWord_body hl.held c h0 hw]
  exact unrecorded_writeBodyWord ..

/-- Word w of a cell holds its state field when w is 0 (R176). -/
theorem isStateWord_cell (c : CellId) {w : Nat} (hw : w < 32) (d : WordData) :
    isStateWord ⟨cellOffset c + 4 * w, d⟩ = decide (w = 0) := by
  have hc := c.isLt
  have above : 0x400 ≤ cellOffset c + 4 * w := by unfold cellOffset; omega
  have below : cellOffset c + 4 * w < 0x1400 := by unfold cellOffset; omega
  have first : (cellOffset c + 4 * w - 0x400) % 128 = 0 ↔ w = 0 := by unfold cellOffset; omega
  simp only [isStateWord, above, below, first, decide_true, Bool.true_and]

/-- Of a body word and the state word of one cell the body word goes first (R175). -/
theorem requestOrder_body_state (c : CellId) {w : Nat} (h0 : 1 ≤ w) (hw : w < 32) (d p : WordData) :
    requestOrder [⟨cellOffset c + 4 * w, d⟩, ⟨cellOffset c, p⟩] =
      [⟨cellOffset c + 4 * w, d⟩, ⟨cellOffset c, p⟩] := by
  have hbody : isStateWord ⟨cellOffset c + 4 * w, d⟩ = false := by
    rw [isStateWord_cell c hw, decide_eq_false (by omega)]
  have hstate : isStateWord ⟨cellOffset c, p⟩ = true := isStateWord_cell c (w := 0) (by omega) p
  simp [requestOrder, insertWord, wordBefore, hbody, hstate]

/-- A body word and then the state word of one request are two events (log 22). -/
theorem writeRequest_body_state (c : CellId) {w : Nat} (h0 : 1 ≤ w) (hw : w < 32) (d p : WordData)
    (s : State) : writeRequest [⟨cellOffset c + 4 * w, d⟩, ⟨cellOffset c, p⟩] s =
      event (writeWord (cellOffset c) p.value p.enable)
        (event (writeWord (cellOffset c + 4 * w) d.value d.enable) s) := by
  rw [writeRequest, requestOrder_body_state c h0 hw]
  rfl

theorem Unrecorded.live {t : State} (h : Unrecorded s t) (hl : s.Live) (hheld : t.held = s.held) : t.Live :=
  { h.ready hl.toReady with held := hheld.trans hl.held }

/-- Settles O9. -/
theorem cellBodyWrite : Obligations.CellBodyWrite := by
  intro c w v e p s hl hinv hwf posts
  obtain ⟨h0, hw⟩ : 1 ≤ w ∧ w < 32 := by
    simp [Instr.wellFormed, Instr.operandsWellFormed] at hwf
    omega
  have single : exec (.cellBodyWrite c w ⟨v, e⟩ []) s =
      .next (writeBodyWord c (cellOffset c + 4 * w) v e s) :=
    congrArg Host.Outcome.next (event_bodyWord hl c h0 hw v e)
  have pair : ∀ t, writeBodyWord c (cellOffset c + 4 * w) v e s = t → t.Live →
      exec (.cellBodyWrite c w ⟨v, e⟩ [⟨cellOffset c, p⟩]) s =
        .next (writeStateWord c p.value p.enable t) := by
    intro t ht hlive
    refine congrArg Host.Outcome.next ((writeRequest_body_state c h0 hw ⟨v, e⟩ p s).trans ?_)
    rw [event_bodyWord hl c h0 hw, ht, event_stateWord hlive]
  have hmem : Memory.wf (storeWord s.mem (cellOffset c + 4 * w) v e) = true := wf_storeWord hinv.mem
  constructor
  · intro hfree
    have hbody : writeBodyWord c (cellOffset c + 4 * w) v e s =
        { s with mem := storeWord s.mem (cellOffset c + 4 * w) v e } := if_pos hfree
    refine ⟨_, single.trans (congrArg _ hbody), fun ⟨hen, hval⟩ => ?_, hmem,
      read_storeWord hinv.mem _ v e⟩
    rw [pair _ hbody ((unrecorded_setMem _ s).live hl rfl), writeStateWord_eq, if_neg (by simp [hen]),
      if_pos ⟨hfree, hval⟩]
  · intro hnot
    have hbody : writeBodyWord c (cellOffset c + 4 * w) v e s = s.latch .guard := if_neg hnot
    refine ⟨single.trans (congrArg _ hbody), fun ⟨hen, hval⟩ => ?_⟩
    rw [pair _ hbody ((unrecorded_refuseWrite s).live hl rfl), writeStateWord_eq, if_neg (by simp [hen]),
      if_neg fun h => hnot h.1, if_neg fun h => by simp [hval] at h]

/-! ### The read count (R181) -/

/-- Settles O10. -/
theorem readCountWrite : Obligations.ReadCountWrite := by
  intro v e s hl r r'
  have write : exec (.readCountWrite ⟨v, e⟩ []) s = .next (writeReadCount v e s) := by
    refine congrArg Host.Outcome.next ?_
    rw [writeRequest_one, event_unrecorded hl.toReady] <;> rw [writeWord_readCount hl.held]
    exact unrecorded_writeReadCount ..
  rw [write]
  refine ⟨fun h => ?_, fun h heq => ?_, fun h hne => ?_⟩
  · rw [writeReadCount, if_neg h, refuseWrite]
  · rw [writeReadCount, if_pos h, if_pos heq]
  · rw [writeReadCount, if_pos h, if_neg hne]

/-! ### The guard (R175, R177, R188) -/

theorem event_refused (hl : s.Live) {a : Nat} (ha : a < 0x8000) (hcell : ¬ (0x400 ≤ a ∧ a < 0x1400))
    (hreg : a ∉ [0x0100, 0x0104, 0x4000, 0x4008, 0x400C]) (v : Word) (e : BitVec 4) :
    event (writeWord a v e) s = s.latch .guard := by
  rw [event_unrecorded hl.toReady] <;> rw [writeWord_refused hl.held ha hcell hreg]
  · rfl
  · exact unrecorded_refuseWrite s

/-- Settles O12: each word of a request is the event of that word alone, applied in the request's order. -/
theorem guardRefusesWrites : Obligations.GuardRefusesWrites := by
  refine ⟨fun a d s hl => ⟨fun ha => ?_, ?_, fun ha => ?_⟩,
    ⟨fun w => event (writeWord w.addr w.data.value w.data.enable), fun _ _ => rfl,
      fun _ _ _ _ _ _ => ⟨rfl, rfl, rfl, rfl, rfl, rfl⟩⟩,
    fun ws => ⟨requestOrder_perm ws, (requestOrder_ordered ws).imp fun {u v} h => ?_⟩⟩
  · refine congrArg Host.Outcome.next (event_refused hl ?_ ?_ ?_ _ _)
    · show a < 0x8000
      omega
    · show ¬ (0x400 ≤ a ∧ a < 0x1400)
      omega
    · simp only [List.mem_cons, List.not_mem_nil, or_false]
      omega
  · refine congrArg Host.Outcome.next ?_
    rw [writeRequest_one, event_unrecorded hl.toReady] <;> rw [writeWord_count hl.held]
    · simp [writeCountWord, refuseWrite]
    · exact unrecorded_writeCountWord ..
  · refine congrArg Host.Outcome.next (event_refused hl ?_ ?_ ?_ _ _)
    · show a < 0x8000
      omega
    · show ¬ (0x400 ≤ a ∧ a < 0x1400)
      omega
    · simp only [List.mem_cons, List.not_mem_nil, or_false]
      omega
  · unfold wordBefore at h
    split at h
    · next heq => rw [if_pos heq]; exact of_decide_eq_true h
    · next hne => rw [if_neg hne]; exact h

/-! ### CONTROL (R184) -/

theorem controlValue_bits (r n : Bool) : (controlValue r n).getLsbD 0 = r
    ∧ (controlValue r n).getLsbD 1 = n ∧ (controlValue r n).getLsbD 2 = false := by
  revert r n
  decide

/-- A write of CONTROL with RESTART 0 stores RUN and NOTICE-ENABLE. -/
theorem writeControl_value (r n : Bool) (s : State) :
    writeControl (controlValue r n) 0xF s = storeControl r n s := by
  obtain ⟨hr, hn, hrestart⟩ := controlValue_bits r n
  simp only [writeControl, mergeWord_all, hr, hn, hrestart, Bool.false_eq_true, if_false]

theorem event_control (hl : s.Live) (r n : Bool) :
    event (writeWord 0x4000 (controlValue r n) 0xF) s = storeControl r n s := by
  rw [event_unrecorded hl.toReady] <;> rw [writeWord_control hl.held, writeControl_value]
  exact unrecorded_storeControl ..

/-- Settles O13. -/
theorem controlWrites : Obligations.ControlWrites := by
  intro n s hl stored
  refine ⟨?_, ?_, ?_⟩ <;> refine congrArg Host.Outcome.next ((event_control hl _ n).trans ?_)
  · cases hrun : s.port.run <;> simp [storeControl, hrun, stored]
  · simp [storeControl, stored]
  · cases hrun : s.port.run <;> simp [storeControl, hrun, stored]

/-! ### ATTENTION and the messages (R186, R187) -/

/-- What changing the port's registers leaves, outside the hold. -/
theorem updatePort_live (f : MgmtPort → MgmtPort) (h : s.held = false) :
    s.updatePort f = { s with port := { f s.port with
      messages := (f s.port).messages + (if (f s.port).noticeHolds = true ∧ s.port.noticeHolds = false
        ∧ (f s.port).messageEnable = true then 1 else 0) } } := by
  unfold State.updatePort
  by_cases hs : (f s.port).noticeHolds = true ∧ s.port.noticeHolds = false
      ∧ (f s.port).messageEnable = true
  · rw [if_pos hs]
    obtain ⟨holds, before, enabled⟩ := hs
    dsimp only
    rw [if_pos (by simp [holds, before, enabled, h])]
  · rw [if_neg hs]
    dsimp only
    rw [if_neg (by simpa [h, and_assoc] using hs)]
    rfl

/-- Clearing bits of ATTENTION makes the NOTICE condition hold only if it did before. -/
theorem noticeHolds_clear {p : MgmtPort} {bits : BitVec 6}
    (h : ({ p with attention := p.attention &&& ~~~bits } : MgmtPort).noticeHolds = true) :
    p.noticeHolds = true := by
  simp only [MgmtPort.noticeHolds, Bool.and_eq_true, decide_eq_true_eq] at h ⊢
  refine ⟨h.1, fun h0 => h.2 ?_⟩
  rw [BitVec.and_assoc, BitVec.and_comm (~~~bits), ← BitVec.and_assoc, h0]
  exact BitVec.zero_and

/-- Sending a message is no change of the condition. -/
theorem updatePort_send (s : State) :
    s.updatePort (fun p => { p with messages := p.messages + 1 }) =
      { s with port := { s.port with messages := s.port.messages + 1 } } := by
  have same : ({ s.port with messages := s.port.messages + 1 } : MgmtPort).noticeHolds =
      s.port.noticeHolds := rfl
  unfold State.updatePort
  dsimp only
  rw [same, if_neg (by simp)]

/-- A clear of bits of ATTENTION sends no message by itself (R187). -/
theorem updatePort_clear (s : State) (bits : BitVec 6) :
    s.updatePort (fun p => { p with attention := p.attention &&& ~~~bits }) =
      { s with port := { s.port with attention := s.port.attention &&& ~~~bits } } := by
  unfold State.updatePort
  dsimp only
  rw [if_neg]
  intro h
  simp only [Bool.and_eq_true, Bool.not_eq_true'] at h
  obtain ⟨⟨⟨holds, before⟩, -⟩, -⟩ := h
  exact absurd (noticeHolds_clear holds) (by simp [before])

/-- The port after a clear of the bits of ATTENTION that are written as 1 (R186). -/
def MgmtPort.cleared (p : MgmtPort) (v : Word) (e : BitVec 4) : MgmtPort :=
  { p with attention := if e.getLsbD 0 then p.attention &&& ~~~(v.setWidth 6) else p.attention }

/-- A clear of ATTENTION: the bits, and in message form one message if the condition still holds. -/
theorem writeAttention_eq (v : Word) (e : BitVec 4) (s : State) :
    writeAttention v e s = { s with port := { s.port.cleared v e with messages := s.port.messages +
      (if (s.port.cleared v e).noticeHolds = true ∧ s.port.messageEnable = true then 1 else 0) } } := by
  have cleared : (s.updatePort fun p => { p with
      attention := p.attention &&& ~~~(if e.getLsbD 0 then v.setWidth 6 else (0 : BitVec 6)) }) =
      { s with port := s.port.cleared v e } := by
    rw [updatePort_clear, MgmtPort.cleared]
    split
    · rfl
    · exact congrArg (fun a => { s with port := { s.port with attention := a } }) BitVec.and_allOnes
  unfold writeAttention
  dsimp only
  rw [cleared, updatePort_send]
  show (if ((s.port.cleared v e).noticeHolds && s.port.messageEnable) = true then _ else _) = _
  by_cases hs : (s.port.cleared v e).noticeHolds = true ∧ s.port.messageEnable = true
  · rw [if_pos hs, if_pos ((Bool.and_eq_true _ _).mpr hs)]
    rfl
  · rw [if_neg hs, if_neg (by simpa using hs)]
    rfl

/-- A write of ATTENTION-ENABLE, outside the hold. -/
theorem writeEnable_eq (h : s.held = false) (v : Word) (e : BitVec 4) :
    let q : MgmtPort := { s.port with enable := if e.getLsbD 0 then v.setWidth 6 else s.port.enable }
    writeEnable v e s = { s with port := { q with messages := s.port.messages +
      (if q.noticeHolds = true ∧ s.port.noticeHolds = false ∧ s.port.messageEnable = true
        then 1 else 0) } } := by
  intro q
  unfold writeEnable
  by_cases he : e.getLsbD 0 = true
  · have hq : q = { s.port with enable := v.setWidth 6 } := 
      congrArg (fun x => { s.port with enable := x }) (if_pos he)
    rw [if_pos he, updatePort_live _ h, hq]
  · have hq : q = s.port := congrArg (fun x => { s.port with enable := x }) (if_neg he)
    rw [if_neg he, hq, if_neg fun hs => absurd hs.1 (by simp [hs.2.1])]
    rfl

theorem exec_attentionClear (hl : s.Live) (v : Word) (e : BitVec 4) :
    exec (.attentionClear ⟨v, e⟩ []) s = .next (writeAttention v e s) := by
  refine congrArg Host.Outcome.next ?_
  rw [writeRequest_one, event_unrecorded hl.toReady] <;> rw [writeWord_attention hl.held]
  exact unrecorded_writeAttention ..

theorem exec_attentionEnableWrite (hl : s.Live) (v : Word) (e : BitVec 4) :
    exec (.attentionEnableWrite ⟨v, e⟩ []) s = .next (writeEnable v e s) := by
  refine congrArg Host.Outcome.next ?_
  rw [writeRequest_one, event_unrecorded hl.toReady] <;> rw [writeWord_enable hl.held]
  exact unrecorded_writeEnable ..

theorem exec_messageEnableChange (hr : s.Ready) (b : Bool) :
    exec (.messageEnableChange b) s = .next (changeMessageEnable b s) :=
  congrArg Host.Outcome.next (event_unrecorded hr (unrecorded_changeMessageEnable b s))

/-- Settles O14. -/
theorem attentionRegisters : Obligations.AttentionRegisters := by
  intro v e b s hl
  refine ⟨⟨_, exec_attentionClear hl v e, ?_⟩, ⟨_, exec_attentionEnableWrite hl v e, ?_⟩,
    ⟨_, exec_messageEnableChange hl.toReady b, rfl, ?_, ?_⟩, fun a => ⟨_, updatePort_live _ ?_, ?_⟩⟩
  · rw [writeAttention_eq]
    exact ⟨rfl, rfl, rfl⟩
  · rw [writeEnable_eq hl.held]
    exact ⟨rfl, rfl, rfl⟩
  · simp only [changeMessageEnable, hl.held]
    cases b <;> cases s.port.messageEnable <;> cases s.port.noticeHolds <;> rfl
  · simp [changeMessageEnable, State.noticePin, MgmtPort.noticeHolds, hl.held]
  · exact hl.held
  · exact ⟨rfl, rfl⟩

end Sys2Proof.Machine

/-! The hold of the RESET line (R175, R193) and what the window reads (R175, R176, R184 to R188, 11_formats). -/

namespace Sys2Proof.Machine

variable {s : State}

/-! ### Host writes during the hold -/

theorem writeWord_held (h : s.held = true) (a : Nat) (v : Word) (e : BitVec 4) : writeWord a v e s = s := by
  rw [writeWord, h, Bool.true_or, if_pos rfl]

/-- During the hold a host write is discarded (R175). -/
theorem event_writeWord_held (hr : s.Ready) (h : s.held = true) (a : Nat) (v : Word) (e : BitVec 4) :
    event (writeWord a v e) s = s :=
  event_nothing s _ (writeWord_held h a v e) hr

theorem writeRequest_held (hr : s.Ready) (h : s.held = true) (words : List WordWrite) :
    writeRequest words s = s := by
  unfold writeRequest
  refine List.foldlRecOn (motive := (· = s)) _ _ rfl fun t ht w _ => ?_
  rw [ht, event_writeWord_held hr h]

theorem exec_resetLineRelease_idle (h : s.held = false) :
    exec .resetLineRelease s = .next { s with resetLine := none } :=
  congrArg Host.Outcome.next (if_neg (by simp [h]))

/-- A moment has come at its own millisecond (log 16). -/
theorem reached_self (t : Time) : reached t t = true := by
  simp [reached]

/-- A millisecond after the RESET line asserts on an idle part, the part takes it (R193). -/
theorem step_takes_resetLine (hp : s.pending = []) :
    step { s with resetLine := some s.time } =
      .next { s with time := s.time + 1, held := true, resetLine := some s.time } := by
  have hdue : due (s.time + 1) ((some s.time).map fun since => after since 1) = true :=
    reached_self (s.time + 1)
  rw [step_idle (s := { s with resetLine := some s.time }) hp, tick_eq]
  dsimp only
  rw [hdue, Bool.or_true, dueCommands_held rfl, List.append_nil]

/-! ### The bytes of the structures -/

/-- Byte lists that stand one after the other from offset `a` on, each with its offset. -/
def placed : Nat → List (List Byte) → List (Nat × List Byte)
  | _, [] => []
  | a, p :: ps => (a, p) :: placed (a + p.length) ps

theorem shows_placed {s : State} {base : Nat} : ∀ {ps : List (List Byte)} {a : Nat},
    s.Shows (base + a) ps.flatten → ∀ f ∈ placed a ps, s.Shows (base + f.1) f.2
  | [], _, _, _, hf => by simp [placed] at hf
  | p :: ps, a, h, f, hf => by
    obtain ⟨first, rest⟩ := (shows_append s (base + a) p ps.flatten).mp h
    rcases List.mem_cons.mp hf with rfl | hf
    · exact first
    · rw [Nat.add_assoc] at rest
      exact shows_placed rest f hf

theorem le16_length (w : Word16) : (le16 w).length = 2 := rfl

theorem le32_length (w : Word) : (le32 w).length = 4 := rfl

/-- Entries shown at fixed places, the places beyond the list showing `d`. -/
theorem take_map_append_replicate {α : Type} (f : α → Byte) (d : Byte) (n : Nat) (xs : List α) :
    (xs.map f ++ List.replicate n d).take n = (List.range n).map fun k => (xs[k]?).elim d f := by
  apply List.ext_getElem
  · simp
  · intro k hk _
    rcases Nat.lt_or_ge k xs.length with h | h
    · simp [h]
    · simp [h]

/-- The four places of the switch-on history (11_formats). -/
def historyField (h : List Time) : List Byte := (List.range 4).flatMap fun k => le32 (h.getD k 0)

theorem historyField_length (h : List Time) : (historyField h).length = 16 := by
  simp [historyField, List.length_flatMap, le32_length]

theorem historyBytes_eq (h : List Time) : (h.flatMap le32 ++ zeros 16).take 16 = historyField h := by
  match h with
  | [] => rfl
  | [_] | [_, _] | [_, _, _] | _ :: _ :: _ :: _ :: _ => simp [historyField, le32, zeros, List.range_succ]

/-- The four places of the shelf order list (11_formats). -/
def shelfListField (l : List OrderEntry) : List Byte :=
  (List.range 4).flatMap fun k =>
    (l[k]?).elim [0xFF, 0] fun e => [BitVec.ofNat 8 e.cell.val, e.kind.code]

theorem shelfListField_length (l : List OrderEntry) : (shelfListField l).length = 8 := by
  have place : ∀ k : Nat, ((l[k]?).elim [0xFF, 0] fun e =>
      [BitVec.ofNat 8 e.cell.val, e.kind.code] : List Byte).length = 2 := by
    intro k
    cases l[k]? <;> rfl
  simp only [shelfListField, List.length_flatMap, place]
  rfl

theorem shelfListBytes_eq (l : List OrderEntry) :
    (l.flatMap (fun (e : OrderEntry) => [BitVec.ofNat 8 e.cell.val, e.kind.code])
      ++ [0xFF, 0, 0xFF, 0, 0xFF, 0, 0xFF, 0]).take 8 =
    shelfListField l := by
  match l with
  | [] => rfl
  | [_] => rfl
  | [_, _] => rfl
  | [_, _, _] => rfl
  | _ :: _ :: _ :: _ :: _ => rfl

/-- The fields of the shelf record, in the order of their offsets (11_formats). -/
def State.shelfFields (s : State) : List (List Byte) :=
  [le16 s.shelfRevision ++ [0, 0], le16 (BitVec.ofNat 16 s.alloc.capacity),
    le16 (BitVec.ofNat 16 s.alloc.hubReserve), le16 (BitVec.ofNat 16 s.alloc.granted),
    [if s.alloc.feedALost then 1 else 0, if s.alloc.feedBLost then 1 else 0],
    le16 (BitVec.ofNat 16 s.settings.rampGap), le16 (BitVec.ofNat 16 s.settings.rampWindow),
    le16 (BitVec.ofNat 16 s.settings.minOn), le16 (BitVec.ofNat 16 s.settings.minOff),
    le16 (BitVec.ofNat 16 s.settings.drainLimit),
    [BitVec.ofNat 8 s.settings.windowLimit, BitVec.ofNat 8 s.history.length],
    le32 (BitVec.ofNat 32 s.settings.quiesceLimit),
    historyField s.history,
    (List.range 16).map fun k => (s.alloc.queue[k]?).elim 0 fun q => BitVec.ofNat 8 (q.slot.val + 1),
    shelfListField s.alloc.shelf,
    le32 (s.journal.gapMask.setWidth 32),
    [if s.journal.gapPending then 1 else 0, s.straps.shelfNumber.setWidth 8,
      s.straps.budgetCode.setWidth 8, s.straps.feedLevel.setWidth 8,
      if s.straps.feedHold then 1 else 0, if s.straps.handleDefault = .selfRetire then 1 else 0,
      if s.straps.faultDefault = .notify then 1 else 0],
    List.replicate 157 0, le16 s.shelfRevision ++ [0, 0]]

theorem flagByte_decide (p : Prop) [Decidable p] : flagByte (decide p) = if p then 1 else 0 := by
  by_cases h : p <;> simp [flagByte, h]

theorem shelfBytes_eq (s : State) : s.shelfBytes = s.shelfFields.flatten := by
  have queue := take_map_append_replicate (fun q : QueueEntry => slotByte q.slot) 0 16 s.alloc.queue
  unfold State.shelfBytes State.shelfFields
  dsimp only
  rw [historyBytes_eq, shelfListBytes_eq, show zeros 16 = List.replicate 16 0 from rfl, queue,
    show zeros 2 = [0, 0] from rfl]
  simp only [List.flatten_cons, List.flatten_nil, List.append_nil, List.append_assoc,
    flagByte_decide]
  simp only [zeros, flagByte, natLe16, maskBytes, slotByte]

theorem shelfBytes_length (s : State) : s.shelfBytes.length = 240 := by
  unfold State.shelfBytes
  dsimp only
  simp only [zeros, natLe16, maskBytes, List.length_append, List.length_replicate, List.length_take,
    le16_length, le32_length, List.length_map]
  simp only [List.length_cons, List.length_nil, Nat.reduceAdd]
  simp only [Nat.min_eq_left (Nat.le_add_left _ _)]

theorem shows_header (s : State) : s.Shows 0 headerBytes := fun k hk => by
  rw [Nat.zero_add, areaByte_header s hk]

theorem shows_shelfBytes (s : State) : s.Shows 0x10 s.shelfBytes := fun k hk =>
  areaByte_shelf s (by rwa [shelfBytes_length] at hk)

/-- Where the fields of the shelf record stand. -/
theorem shows_shelfFields (s : State) : ∀ f ∈ placed 0x10 s.shelfFields, s.Shows f.1 f.2 :=
  fun f hf => by
    simpa using shows_placed (base := 0) (by simpa using shelfBytes_eq s ▸ shows_shelfBytes s) f hf

theorem shelfFields_placed (s : State) : placed 0x10 s.shelfFields =
    [0x10, 0x14, 0x16, 0x18, 0x1A, 0x1C, 0x1E, 0x20, 0x22, 0x24, 0x26, 0x28, 0x2C, 0x3C, 0x4C, 0x54,
      0x58, 0x5F, 0xFC].zip s.shelfFields := by
  simp only [State.shelfFields, placed, List.length_append, List.length_replicate, le16_length,
    le32_length, List.length_map, List.length_range, List.length_cons, List.length_nil, Nat.reduceAdd,
    historyField_length, shelfListField_length, List.zip_cons_cons, List.zip_nil_right]

theorem shows_writeCount (s : State) : s.Shows 0x100 (le16 s.journal.writeCount ++ [0, 0]) := by
  intro k hk
  have hk : k < 4 := hk
  interval_cases k <;> rfl

theorem shows_readCount (s : State) : s.Shows 0x104 (le16 s.journal.readCount ++ [0, 0]) := by
  intro k hk
  have hk : k < 4 := hk
  interval_cases k <;> rfl

theorem shows_cellState (s : State) (c : CellId) : s.Shows (cellOffset c) [(s.cell c).code, 0, 0, 0] := by
  intro k hk
  have hk : k < 4 := hk
  rw [areaByte_cell s c (by omega)]
  interval_cases k <;> rfl

theorem areaByte_cellBody (s : State) (c : CellId) {k : Nat} (h4 : 4 ≤ k) (hk : k < 128) :
    s.areaByte (cellOffset c + k) = Memory.read s.mem (cellOffset c + k) := by
  rw [areaByte_cell s c hk, State.cellByte, if_neg (by omega), if_neg (by omega)]
  rfl

/-! ### STATUS (R185) -/

theorem flag_bit (p : Prop) [Decidable p] (k : Nat) :
    (if p then 1 else 0 : Word).getLsbD k = (decide p && decide (k = 0)) := by
  have one : (1 : Word).getLsbD k = decide (k = 0) := by
    rcases Nat.eq_zero_or_pos k with rfl | hk
    · rfl
    · simp [show (1 : Word) = 1#32 from rfl, BitVec.getLsbD_one, Nat.pos_iff_ne_zero.mp hk]
  by_cases h : p
  · simp only [h, if_true, one, decide_true, Bool.true_and]
  · simp only [h, if_false, decide_false, Bool.false_and]
    exact BitVec.getLsbD_zero

/-- Where each field of STATUS stands. -/
theorem status_fields (s : State) :
    s.status.extractLsb' 0 2 = s.port.cause.code
    ∧ s.status.getLsbD 2 = s.alloc.feedALost ∧ s.status.getLsbD 3 = s.alloc.feedBLost
    ∧ s.status.extractLsb' 4 6 = s.straps.shelfNumber ∧ s.status.extractLsb' 10 2 = s.straps.budgetCode
    ∧ s.status.extractLsb' 12 2 = s.straps.feedLevel ∧ s.status.getLsbD 14 = s.straps.feedHold
    ∧ s.status.getLsbD 15 = decide (s.straps.handleDefault = .selfRetire)
    ∧ s.status.getLsbD 16 = decide (s.straps.faultDefault = .notify)
    ∧ s.status.extractLsb' 17 7 = 0 ∧ s.status.extractLsb' 24 8 = 1 := by
  have bit : ∀ k, k < 32 → s.status.getLsbD k =
      (s.port.cause.code.getLsbD k || (!decide (k < 2) && (s.alloc.feedALost && decide (k - 2 = 0)))
        || (!decide (k < 3) && (s.alloc.feedBLost && decide (k - 3 = 0)))
        || (!decide (k < 4) && s.straps.shelfNumber.getLsbD (k - 4))
        || (!decide (k < 10) && s.straps.budgetCode.getLsbD (k - 10))
        || (!decide (k < 12) && s.straps.feedLevel.getLsbD (k - 12))
        || (!decide (k < 14) && (s.straps.feedHold && decide (k - 14 = 0)))
        || (!decide (k < 15) && (decide (s.straps.handleDefault = .selfRetire) && decide (k - 15 = 0)))
        || (!decide (k < 16) && (decide (s.straps.faultDefault = .notify) && decide (k - 16 = 0)))
        || (!decide (k < 24) && Config.partRevision.getLsbD (k - 24))) := by
    intro k hk
    simp only [State.status, BitVec.getLsbD_or, BitVec.getLsbD_shiftLeft, BitVec.getLsbD_setWidth, flag_bit]
    have : ∀ n, decide (k - n < 32) = true := fun n => by simp; omega
    simp only [hk, this, decide_true, Bool.true_and, Bool.decide_eq_true]
  have field : ∀ (n l : Nat) (v : BitVec l), n + l ≤ 32 →
      (∀ k, k < l → s.status.getLsbD (n + k) = v.getLsbD k) → s.status.extractLsb' n l = v := by
    intro n l v hn h
    refine BitVec.eq_of_getLsbD_eq fun k hk => ?_
    rw [BitVec.getLsbD_extractLsb', h k hk, decide_eq_true hk, Bool.true_and]
  refine ⟨field _ _ _ (by omega) fun k hk => ?_, ?_, ?_, field _ _ _ (by omega) fun k hk => ?_,
    field _ _ _ (by omega) fun k hk => ?_, field _ _ _ (by omega) fun k hk => ?_, ?_, ?_, ?_,
    field _ _ _ (by omega) fun k hk => ?_, field _ _ _ (by omega) fun k hk => ?_⟩
  · rw [bit _ (by omega)]
    interval_cases k <;> simp
  · rw [bit _ (by omega)]
    simp
  · rw [bit _ (by omega)]
    simp
  · rw [bit _ (by omega)]
    interval_cases k <;> simp
  · rw [bit _ (by omega)]
    interval_cases k <;> simp
  · rw [bit _ (by omega)]
    interval_cases k <;> simp
  · rw [bit _ (by omega)]
    simp
  · rw [bit _ (by omega)]
    simp
  · rw [bit _ (by omega)]
    simp
  · rw [bit _ (by omega)]
    interval_cases k <;> simp
  · rw [bit _ (by omega)]
    interval_cases k <;> simp [Config.partRevision]

/-! ### The hold, and the window outside it -/

theorem exec_held (hr : s.Ready) (h : s.held = true) (w a : Nat) (cell : CellId) (d : WordData)
    (more : List WordWrite) (n : Bool) :
    ∀ c ∈ [Instr.restart, .cellPost cell, .cellWithdraw cell, .cellReturn cell,
      .cellBodyWrite cell w d more, .readCountWrite d more, .shelfAreaWriteRefused a d more,
      .runSet n, .runClear n, .noticeEnableWrite n, .attentionClear d more,
      .attentionEnableWrite d more, .registerWriteRefused a d more], exec c s = .next s := by
  have word := fun a v e => congrArg (Host.Outcome.next (φ := Fault) (ρ := Refusal))
    (event_writeWord_held hr h a v e)
  have request := fun words => congrArg (Host.Outcome.next (φ := Fault) (ρ := Refusal))
    (writeRequest_held hr h words)
  simp only [List.forall_mem_cons]
  exact ⟨word .., word .., word .., word .., request _, request _, request _, word .., word .., word ..,
    request _, request _, request _, nofun⟩

theorem readWord_register (h : s.held = false) {a : Nat} (ha : 0x4000 ≤ a) : s.readWord a = s.register a := by
  rw [State.readWord, h, if_neg (by simp), if_neg (by omega)]

/-- Settles O15. -/
theorem holdDiscardsHostWrites : Obligations.HoldDiscardsHostWrites := by
  refine ⟨fun a w cell d more n s => ⟨rfl, exec_resetLineRelease_idle, fun hp hline => ?_,
      fun hr h => ⟨exec_held hr h w a cell d more n, ?_, ?_⟩⟩,
    fun s a h ha => ?_, fun s h => ?_,
    fun s c => ⟨shows_cellState s c, fun k => areaByte_cellBody s c⟩, fun s => ?_⟩
  · refine ⟨{ s with resetLine := some s.time }, ?_, rfl, step_takes_resetLine hp⟩
    rw [show exec .resetLineAssert s = .next { s with resetLine := some (s.resetLine.getD s.time) }
      from rfl, hline]
    rfl
  · rw [State.noticePin, h, Bool.not_true, Bool.and_false]
  · rw [State.readWord, h, if_pos rfl]
  · rw [State.readWord, h, if_neg (by simp), if_pos ha]
  · have reg : ∀ a, 0x4000 ≤ a → s.readWord a = s.register a := fun a => readWord_register h
    refine ⟨reg _ (by omega), ?_, reg _ (by omega), reg _ (by omega), reg _ (by omega), fun a ha => ?_⟩
    · intro w
      have hw : w = s.status := reg _ (by omega)
      rw [hw]
      obtain ⟨cause, fields⟩ := status_fields s
      refine ⟨?_, fields⟩
      rw [cause]
      cases s.port.cause <;> rfl
    · rw [reg a (by omega), State.register]
      split_ifs <;> first | omega | rfl
  · have shelf := shows_shelfFields s
    rw [shelfFields_placed] at shelf
    simp only [State.shelfFields, List.zip_cons_cons, List.zip_nil_right, List.forall_mem_cons] at shelf ⊢
    obtain ⟨revision, capacity, reserve, granted, feeds, rampGap, rampWindow, minOn, minOff, drain, limits,
      quiesce, history, queue, list, mask, straps, unused, copy, -⟩ := shelf
    refine ⟨shows_header s, revision, capacity, reserve, granted, feeds, rampGap, rampWindow, minOn, minOff,
      drain, limits, quiesce, history, ?_, ?_, mask, straps, unused, copy, shows_writeCount s,
      shows_readCount s, nofun⟩
    · convert queue using 3 with k
      cases s.alloc.queue[k]? <;> rfl
    · rw [shelfListField] at list
      convert list using 3 with k
      cases s.alloc.shelf[k]? <;> rfl

end Sys2Proof.Machine

/-! The hold of the RESET line stops every event of the part (R193). -/

namespace Sys2Proof.Machine

variable {s : State}

theorem event_held (hr : s.Ready) (h : s.held = true) (act : State → State) :
    event (unlessHeld act) s = s :=
  event_nothing s _ (unlessHeld_held s act h) hr

theorem ready_modPins (hr : s.Ready) (i : SlotId) (g : SlotPins → SlotPins) : (s.modPins i g).Ready :=
  ⟨hr.work, hr.late, hr.shelf, hr.changed, hr.broughtBy⟩

theorem ready_measureFeed (hr : s.Ready) (x : Feed) (b : Bool) : (s.measureFeed x b).Ready := by
  cases x <;> exact ⟨hr.work, hr.late, hr.shelf, hr.changed, hr.broughtBy⟩

/-- During the hold a debounced input changes its raw level alone, with at most the time from which its
debounce runs. -/
theorem debounced_held {raw u : State} {act : State → State} (held : Bool) (hr : u.Ready)
    (hh : u.held = true) (hd : u.debounceFrom = s.debounceFrom)
    (hraw : raw = { u with debounceFrom := raw.debounceFrom }) :
    ∃ d, (.next (if held then event (unlessHeld act) u else raw) : Host.Outcome State Fault Refusal) =
      .next { u with debounceFrom := d } ∧ (held = true → d = s.debounceFrom) := by
  cases held
  · exact ⟨_, congrArg Host.Outcome.next hraw, nofun⟩
  · exact ⟨_, congrArg Host.Outcome.next (event_held hr hh act), fun _ => hd⟩

/-- The switch latch and the blade reset are in no slot's record (R32). -/
theorem recordView_modPower {i : SlotId} {g : Power → Power} (hgood : (g (s.pwr i)).goodTime = (s.pwr i).goodTime)
    (hoff : (g (s.pwr i)).offTime = (s.pwr i).offTime) (j : SlotId) :
    (s.modPower i g).recordView j = s.recordView j := by
  unfold State.recordView
  by_cases h : j = i
  · subst h
    simp only [modPower_pwr_self, hgood, hoff]
    rfl
  · simp only [modPower_pwr_ne _ _ _ _ h]
    rfl

/-- A trip during the hold clears the latch directly (R97, R193). -/
theorem event_tripHeld (hr : s.Ready) (i : SlotId) : event (tripHeld i) s =
    if (s.pwr i).switchOn then
      s.modPower i fun x => { x with switchOn := false, resetAsserted := true }
    else s := by
  refine event_act s _ hr rfl ?_ ?_ ?_ ?_ ?_ fun j => ?_
  all_goals split
  any_goals rfl
  exact recordView_modPower rfl rfl j

/-- Settles O16. -/
theorem holdStopsEvents : Obligations.HoldStopsEvents := by
  intro i p f r s hr h
  have live := fun act => congrArg (Host.Outcome.next (φ := Fault) (ρ := Refusal)) (event_held hr h act)
  have raw : ∀ g act, event (unlessHeld act) (s.modPins i g) = s.modPins i g := fun g act =>
    event_held (ready_modPins hr i g) h act
  refine ⟨?_, fun b => congrArg Host.Outcome.next (raw _ _), fun b held => ?_,
    congrArg Host.Outcome.next (raw _ _), congrArg Host.Outcome.next (raw _ _), ?_⟩
  · simp only [List.forall_mem_cons]
    exact ⟨live _, live _, live _, live _, live _, live _, live _, live _, live _, live _, live _, live _,
      live _, live _, live _, live _, live _, live _, live _, live _, live _, live _, live _, live _,
      live _, live _, live _, live _, live _, live _, live _, live _, live _, live _,
      fun _ hx => absurd hx List.not_mem_nil⟩
  · have feed : ∀ x, (s.measureFeed x b).Ready ∧ (s.measureFeed x b).held = true
        ∧ (s.measureFeed x b).debounceFrom = s.debounceFrom := by
      intro x
      refine ⟨ready_measureFeed hr x b, ?_⟩
      cases x <;> exact ⟨h, rfl⟩
    simp only [List.forall_mem_cons]
    refine ⟨debounced_held held (ready_modPins hr i _) h rfl (rawContact_eq i .long b s),
      debounced_held held (ready_modPins hr i _) h rfl (rawContact_eq i .short b s),
      debounced_held held (ready_modPins hr i _) h rfl (rawHandle_eq i b s), ?_, ?_,
      fun _ hx => absurd hx List.not_mem_nil⟩
    · obtain ⟨ready, hh, hd⟩ := feed .a
      exact debounced_held held ready hh hd (rawFeed_eq .a b s)
    · obtain ⟨ready, hh, hd⟩ := feed .b
      exact debounced_held held ready hh hd (rawFeed_eq .b b s)
  · refine congrArg Host.Outcome.next ?_
    rw [h, if_pos rfl]
    exact event_tripHeld hr i

end Sys2Proof.Machine

/-! The Order Intake: which cell it takes, its checks in their order, and a take of an order that passes them
(R36 to R40). -/

namespace Sys2Proof.Machine

variable {s : State} {c : CellId} {k : OrderKind} {i : SlotId}

/-! ### The take of an order that passes the checks -/

/-- What the intake hands an order over in: the pointer has moved past its cell (R36). -/
def State.pastCell (s : State) (c : CellId) : State := { s with pointer := c + 1 }

theorem takeCell_passes (hk : s.cellKind c = some k) (hr : intakeRefusal s c = none) :
    takeCell c s = handleKind c k (s.pastCell c) := by
  unfold takeCell
  dsimp only
  rw [intakeRefusal_pointer, hr, show ({ s with pointer := c + 1 } : State).cellKind c = some k from hk]
  rfl

/-- A take of an order that passes the checks is one event, in which the order is handled by its kind. -/
theorem exec_take_passes (ht : s.Takes c k) : exec (takeCommand (some k)) s =
    .next (event (fun _ => handleKind c k (s.pastCell c)) s) := by
  rw [exec_takeCommand, liveEvent, event, unlessHeld_live _ _ ht.held, ← ht.kind, takeKind_next ht.next,
    takeCell_passes ht.kind ht.passes]
  rfl

theorem handleKind_slotQueued (hslot : s.cellSlot c = some i) (hk : k.orderClass = .slotQueued) (s' : State)
    (hs' : s' = s.pastCell c) : handleKind c k s' = queueSlotOrder c k i s' := by
  subst hs'
  unfold handleKind
  rw [show (s.pastCell c).cellSlot c = some i from hslot]
  cases k <;> first | rfl | simp [OrderKind.orderClass] at hk

/-- A take of a slot-queued order begins with the order at the tail of its slot's list (R40). -/
theorem exec_take_queued (ht : s.TakesFor c k i) (hk : k.orderClass = .slotQueued) :
    exec (takeCommand (some k)) s = .next (event (fun _ => queueSlotOrder c k i (s.pastCell c)) s) := by
  rw [exec_take_passes ht.toTakes, handleKind_slotQueued ht.slot hk _ rfl]

/-! ### Which cell is taken (R36) -/

theorem mem_cellsFrom (p c : CellId) : c ∈ cellsFrom p := by
  simp only [cellsFrom, List.mem_map, List.mem_finRange, true_and]
  exact ⟨c - p, by simp⟩

theorem cellsFrom_length (p : CellId) : (cellsFrom p).length = 32 := by
  simp [cellsFrom]

theorem cellsFrom_getElem (p : CellId) (n : Nat) (h : n < (cellsFrom p).length) :
    (cellsFrom p)[n] = p + Fin.ofNat 32 n := by
  rw [cellsFrom_length] at h
  simp only [cellsFrom, List.getElem_map, List.getElem_finRange]
  congr 1
  exact Fin.ext (Nat.mod_eq_of_lt h).symm

/-- The cell the intake takes: posted, with no posted cell between the pointer and it. -/
theorem intakeNext_eq_some : s.intakeNext = some c ↔ s.port.run = true ∧ s.cell c = .posted
    ∧ ∀ n : Nat, n < (c - s.pointer : CellId).val → s.cell (s.pointer + Fin.ofNat 32 n) ≠ .posted := by
  unfold State.intakeNext State.postedCells
  cases hrun : s.port.run
  · simp
  · simp only [if_true, true_and, List.head?_filter, List.find?_eq_some_iff_getElem, decide_eq_true_eq,
      Bool.not_eq_true', decide_eq_false_iff_not, cellsFrom_length]
    refine and_congr_right fun _ => ⟨?_, fun h => ?_⟩
    · rintro ⟨n, hn, rfl, hbefore⟩ m hm
      rw [cellsFrom_getElem] at hm
      have hlt : m < n := by
        simpa [Nat.mod_eq_of_lt hn] using hm
      have := hbefore m hlt
      rwa [cellsFrom_getElem] at this
    · refine ⟨(c - s.pointer : CellId).val, Fin.isLt _, ?_, fun m hm => ?_⟩
      · rw [cellsFrom_getElem]
        simp
      · rw [cellsFrom_getElem]
        exact h m hm

theorem intakeNext_eq_none : s.intakeNext = none ↔ s.port.run = false ∨ ∀ c, s.cell c ≠ .posted := by
  unfold State.intakeNext State.postedCells
  cases hrun : s.port.run
  · simp
  · simp [mem_cellsFrom]

/-- With no cell to take a take command does nothing (log 2). -/
theorem exec_take_none (hr : s.Ready) (k : Option OrderKind) (hnone : s.intakeNext = none) :
    exec (takeCommand k) s = .next s := by
  rw [exec_takeCommand, liveEvent]
  refine congrArg Host.Outcome.next (event_nothing s _ ?_ hr)
  unfold unlessHeld takeKind
  rw [hnone, ite_self]

/-- A take moves the pointer to the cell after the one taken (R36). -/
theorem exec_take_pointer (h : Inv s) (hl : s.Live) (hn : s.intakeNext = some c) :
    ∃ t, exec (takeCommand (s.cellKind c)) s = .next t ∧ t.pointer = c + 1 := by
  refine ⟨_, exec_takeCommand .., ?_⟩
  have kept : Kept { s.fixed with pointer := c + 1 } (unlessHeld (takeKind (s.cellKind c)) s) := by
    rw [unlessHeld_live _ _ hl.held, takeKind_next hn]
    exact (Kept.refl h).takeCell
  obtain ⟨-, -, -, -, -, -, pointer, -, -⟩ := kept.event
  exact pointer

/-- A posted cell that is not taken comes nearer to the pointer (R36). -/
theorem pointer_nearer {c d : CellId} (hc : s.cell c = .posted) (hd : s.intakeNext = some d) (hne : d ≠ c) :
    (c - (d + 1) : CellId).val < (c - s.pointer : CellId).val := by
  obtain ⟨-, -, hfirst⟩ := intakeNext_eq_some.mp hd
  have hle : (d - s.pointer : CellId).val ≤ (c - s.pointer : CellId).val := by
    by_contra hlt
    refine hfirst (c - s.pointer : CellId).val (by omega) ?_
    simpa using hc
  have hval : d.val ≠ c.val := fun h => hne (Fin.ext h)
  simp only [Fin.sub_def, Fin.add_def] at hle ⊢
  have h1 : (1 : CellId).val = 1 := rfl
  omega

/-- The pointer is 0 after a warm restart (R36, R194). -/
theorem exec_restart_pointer (h : Inv s) (hl : s.Live) : ∃ t, exec .restart s = .next t ∧ t.pointer = 0 := by
  refine ⟨event (warmRestart .restartBit) s, ?_, ?_⟩
  · have hact : writeWord 0x4000 4 0xF s = warmRestart .restartBit s := by
      rw [writeWord_control hl.held, writeControl, mergeWord_all]
      rfl
    refine congrArg Host.Outcome.next ?_
    unfold event
    rw [hact]
  · obtain ⟨-, -, -, -, -, -, pointer, -, -⟩ := (kept_warmRestart (c := .restartBit) h).event
    exact pointer

/-- Settles O17. -/
theorem intakeTakesFirstPosted : Obligations.IntakeTakesFirstPosted :=
  ⟨fun _ _ => intakeNext_eq_some, fun _ => intakeNext_eq_none, fun _ _ => exec_take_pointer,
    fun _ k hl => exec_take_none hl.toReady k, fun _ _ _ => pointer_nearer, rfl,
    fun _ => exec_restart_pointer⟩

/-! ### The checks in their order (R38) -/

theorem slotOfByte_eq_none {b : Byte} : slotOfByte b = none ↔ b = 0 ∨ 16 < b.toNat := by
  have hzero : b = 0 ↔ b.toNat = 0 := by
    rw [← BitVec.toNat_inj]
    rfl
  simp only [slotOfByte, hzero]
  split_ifs <;> simp <;> omega

theorem slotOfByte_eq_some {b : Byte} (h : b.toNat = i.val + 1) : slotOfByte b = some i := by
  have hi := i.isLt
  rw [slotOfByte, dif_pos (by omega)]
  exact congrArg some (Fin.ext (by simp [h]))

/-- A shelf-queued order names no slot, has its parameters in range and finds room (R38). -/
theorem intakeRefusal_shelf (hk : s.cellKind c = some k) (hclass : k.orderClass = .shelfQueued) :
    intakeRefusal s c = if s.rd8 c 0x05 ≠ 0 then some .badSlot
      else if s.paramsInRange c k = false then some .badParam
      else if 4 ≤ s.alloc.shelf.length then some .listFull else none := by
  unfold intakeRefusal State.slotSuits
  rw [hk]
  simp only [hclass]
  by_cases h0 : s.rd8 c 0x05 = 0
  · have hslot : s.cellSlot c = none := slotOfByte_eq_none.mpr (.inl h0)
    rw [hslot]
    simp only [h0, decide_true, Bool.not_true, Bool.false_eq_true, if_false, ne_eq, not_true]
    cases s.paramsInRange c k
    · rfl
    · rfl
  · rw [if_pos h0, if_pos (by simpa using h0)]

/-- An order of a slot names one of the sixteen (R38 step 2). -/
theorem intakeRefusal_badSlot (hk : s.cellKind c = some k) (hclass : k.orderClass ≠ .shelfQueued)
    (hslot : s.cellSlot c = none) : intakeRefusal s c = some .badSlot := by
  have hsuits : s.slotSuits c k = false := by
    unfold State.slotSuits
    rw [hslot]
    cases hc : k.orderClass <;> simp_all
  unfold intakeRefusal
  rw [hk]
  simp only [hsuits, Bool.not_false, if_true]

/-- The checks of an order that names slot `i`, after the kind and the slot (R38 steps 3 to 7). -/
theorem intakeRefusal_slot (hk : s.cellKind c = some k) (hclass : k.orderClass ≠ .shelfQueued)
    (hslot : s.cellSlot c = some i) : intakeRefusal s c =
      if s.paramsInRange c k = false then some .badParam else slotRefusal s c k i := by
  have hsuits : s.slotSuits c k = true := by
    unfold State.slotSuits
    rw [hslot]
    cases hc : k.orderClass <;> simp_all
  unfold intakeRefusal
  rw [hk]
  simp only [hsuits, hslot]
  cases s.paramsInRange c k <;> simp

theorem slotRefusal_queued (hclass : k.orderClass = .slotQueued) : slotRefusal s c k i =
    if (s.slot i).state = .vacant then some .slotEmpty
    else if 4 ≤ (s.slot i).orders.length then some .listFull else none := by
  unfold slotRefusal
  rw [hclass]
  rfl

theorem slotRefusal_immediate (hclass : k.orderClass = .immediate) : slotRefusal s c k i =
    if s.cellCondition c ≠ 0 ∧ s.cellCondition c ≠ (s.slot i).gen then some .stale
    else if k.allows (s.slot i).state = false then some .wrongState else none := by
  unfold slotRefusal
  rw [hclass]
  simp [conditionMatches]

/-- Settles O18. -/
theorem intakeChecksInOrder : Obligations.IntakeChecksInOrder := by
  refine ⟨fun s c => ⟨intakeRefusal_of_no_kind, fun k hk => ⟨fun hclass => ?_, fun hclass => ⟨fun hbad => ?_,
    fun i hi => ?_⟩⟩⟩, fun s c => ?_, fun st => ?_⟩
  · have checks := intakeRefusal_shelf hk hclass
    refine ⟨fun h => ?_, fun h0 h => ?_, fun h0 h => ?_⟩
    · rw [checks, if_pos h]
    · rw [checks, if_neg (not_not.mpr h0), if_pos h]
    · rw [checks, if_neg (not_not.mpr h0), h, if_neg Bool.noConfusion]
  · exact intakeRefusal_badSlot hk hclass (slotOfByte_eq_none.mpr hbad)
  · have checks := intakeRefusal_slot hk hclass (slotOfByte_eq_some hi)
    refine ⟨fun h => ?_, fun h hqueued => ?_, fun h himmediate => ?_⟩
    · rw [checks, if_pos h]
    · rw [checks, h, if_neg Bool.noConfusion, slotRefusal_queued hqueued]
    · rw [checks, h, if_neg Bool.noConfusion, slotRefusal_immediate himmediate]
  · have byte : ∀ b : Byte, b.toNat < 256 := fun b => b.isLt
    have admitReason := byte (s.rd8 c 0x10)
    simp only [State.paramsInRange, Settings.inRange, Bool.and_eq_true, inRange_iff, decide_eq_true_eq]
    simp only [State.settingsParam, State.admitUrgency, State.admitWaitLimit, State.admitBootLimit,
      State.retireReason, State.readFirst, State.readCountParam, State.budgetCapacity, State.budgetReserve]
    refine ⟨by omega, by omega, by omega, by omega, by omega, by omega, by simp⟩
  · cases st <;> decide

/-! ### The result fields of a cell (R35, R46) -/

theorem byteAt_replicate_zero (n k : Nat) : byteAt (List.replicate n 0) k = 0 := by
  simp only [byteAt, List.getD_eq_getElem?_getD, List.getElem?_replicate]
  split <;> rfl

/-- The unused bytes of the result are written 0 (R203). -/
theorem CellResult.bytes_unused (s : State) (r : CellResult) {k : Nat} (h14 : 14 ≤ k) (hk : k < 36) :
    byteAt (r.bytes s) k = 0 := by
  unfold CellResult.bytes
  dsimp only
  rw [byteAt_append_left (by simp [le16, le32]; omega), byteAt_append_right (by simpa [le16, le32] using h14)]
  exact byteAt_replicate_zero ..

theorem byteAt_take {n k : Nat} (h : k < n) (bs : List Byte) : byteAt (bs.take n) k = byteAt bs k := by
  simp [byteAt, List.getD_eq_getElem?_getD, h]

/-- The data of the result, zero beyond it (R203). -/
theorem CellResult.bytes_data (s : State) (r : CellResult) {k : Nat} (hk : k < 64) :
    byteAt (r.bytes s) (36 + k) = byteAt r.data k := by
  unfold CellResult.bytes
  dsimp only
  rw [byteAt_append_right (by simp [le16, le32])]
  have hlen : ∀ l : List Byte, l.length = 36 → 36 + k - l.length = k := fun l h => by omega
  rw [hlen _ (by simp [le16, le32])]
  rw [byteAt_take hk]
  rcases Nat.lt_or_ge k r.data.length with h | h
  · exact byteAt_append_left h _
  · rw [byteAt_append_right h, byteAt_replicate_zero]
    simp [byteAt, List.getD_eq_getElem?_getD, List.getElem?_eq_none h]

/-- Settles O20. -/
theorem cellResultsWritten : Obligations.CellResultsWritten := by
  intro c st r s hm t
  refine ⟨writeResult_cell_self .., writeResult_code _ _ _ hm, writeResult_fault _ _ _ hm,
    fun i hi => ⟨?_, ?_⟩, fun hnone => ⟨?_, ?_⟩, writeResult_summary _ _ _ hm, writeResult_taken _ _ _ hm,
    writeResult_finished _ _ _ hm, fun k hk => ?_, fun k h14 hk => ?_, writeResult_attention ..,
    writeResult_otherCells _ _ _ hm, rfl, rfl, rfl, rfl, rfl, rfl, rfl⟩
  · rw [writeResult_state _ _ _ hm, hi]
    rfl
  · rw [writeResult_gen _ _ _ hm, hi]
    rfl
  · rw [writeResult_state _ _ _ hm, hnone]
    rfl
  · rw [writeResult_gen _ _ _ hm, hnone]
    rfl
  · rw [show 0x40 + k = 0x1C + (36 + k) by omega]
    exact (writeResult_rd8 c st r hm (by omega)).trans (r.bytes_data s hk)
  · obtain ⟨n, rfl⟩ := Nat.exists_eq_add_of_le (show 0x1C ≤ k by omega)
    exact (writeResult_rd8 c st r hm (by omega)).trans (r.bytes_unused s (by omega) (by omega))

end Sys2Proof.Machine

/-! The loop of an event (logs 3, 6, 10): when a piece of follow-up work does nothing, what an event leaves
whose follow-up work does nothing, and how an event goes on after a piece of work that acts. -/

namespace Sys2Proof.Machine

variable {s : State} {i : SlotId}

/-! ### Work that does nothing -/

/-- A piece of follow-up work finds nothing to do. -/
def Job.Idle (s : State) : Job → Prop
  | .start i => (s.slot i).orders = [] ∨ (s.slot i).state.settled = false ∨ (s.slot i).active = true
  | .handle i => s.handleActs i = false
  | .examine => s.alloc.queue = []
  | .serve => s.alloc.shelf = []
  | .powerGood i => (s.pwr i).rampLimit = none
  | .switchOpened i => (s.slot i).state ≠ .poweringOff

/-- A late test of a slot finds no join and no leave done. -/
def LateIdle (s : State) (i : SlotId) : Prop :=
  ¬ ((s.slot i).state = .joining ∧ s.joinDone i = true)
    ∧ ¬ ((s.slot i).state = .leaving ∧ s.leaveDone i = true)

theorem startTest_idle (h : Job.Idle s (.start i)) : startTest i s = s := by
  unfold startTest
  split
  · rfl
  · next e es he =>
    rw [if_neg]
    rcases h with h | h | h
    · simp [h] at he
    · simp [h]
    · simp [h]

/-- Such work leaves the state as it is. -/
theorem doJob_idle {j : Job} (h : j.Idle s) : doJob j s = s := by
  cases j with
  | start i => exact startTest_idle h
  | handle i => exact if_neg (by simp [show s.handleActs i = false from h])
  | examine =>
    unfold doJob examine
    rw [show s.alloc.queue = [] from h]
  | serve =>
    unfold doJob serveShelf
    rw [show s.alloc.shelf = [] from h]
  | powerGood i => exact if_neg (by simp [show (s.pwr i).rampLimit = none from h])
  | switchOpened i => exact if_neg h

theorem portTest_idle (h : LateIdle s i) : portTest i s = s := by
  unfold portTest
  rw [if_neg h.1, if_neg h.2]

/-- What else the event has to do, and by whom it was brought, is not looked at. -/
theorem Job.Idle.resume {j : Job} (h : j.Idle s) (ws : List Work) (ts : List LateTest) (l : List SlotId)
    (b : Option Word16) :
    j.Idle { s with work := ws, late := ts, changed := l, broughtBy := b } := by
  cases j <;> exact h

theorem LateIdle.resume (h : LateIdle s i) (ws : List Work) (ts : List LateTest) (l : List SlotId)
    (b : Option Word16) :
    LateIdle { s with work := ws, late := ts, changed := l, broughtBy := b } i := h

/-! ### The loop -/

/-- The records that an event has changed, once a step that changes none has been noted. -/
def noted (s : State) : List SlotId :=
  allSlots.filter fun i => decide (i ∈ s.changed) || decide (s.recordView i ≠ s.recordView i)

theorem mem_noted : i ∈ noted s ↔ i ∈ s.changed := by
  have h : i ∈ allSlots := by revert i; decide
  simp [noted, h]

/-- Work that does nothing is taken off the list. -/
theorem doWork_idle {w : Work} (h : w.job.Idle s) (ws : List Work) :
    doWork w ws s = { s with work := ws, changed := noted s, broughtBy := w.broughtBy } := by
  have hjob := doJob_idle (h.resume [] s.late s.changed w.broughtBy)
  unfold doWork
  dsimp only
  rw [hjob]
  rfl

/-- A late test that does nothing is taken off the list. -/
theorem doLate_idle {t : LateTest} (h : LateIdle s t.slot) (ts : List LateTest) :
    doLate t ts s = { s with late := ts, changed := noted s, broughtBy := t.broughtBy } := by
  have htest := portTest_idle (h.resume s.work ts s.changed t.broughtBy)
  unfold doLate
  rw [htest]
  rfl

/-- Work and late tests that do nothing leave of the state of an event all but what is still to be done. -/
theorem drain_quiet : ∀ (n : Nat) (s : State), s.work.length + s.late.length ≤ n →
    (∀ w ∈ s.work, w.job.Idle s) → (∀ t ∈ s.late, LateIdle s t.slot) →
    ∃ l b, (∀ i, i ∈ l ↔ i ∈ s.changed) ∧
      drain n s = { s with work := [], late := [], changed := l, broughtBy := b }
  | 0, s, hn, _, _ => by
    have hwork : s.work = [] := List.length_eq_zero_iff.mp (by omega)
    have hlate : s.late = [] := List.length_eq_zero_iff.mp (by omega)
    refine ⟨s.changed, s.broughtBy, fun _ => .rfl, ?_⟩
    rw [drain, ← hwork, ← hlate]
  | n + 1, s, hn, hjobs, htests => by
    match hwork : s.work, hlate : s.late with
    | w :: ws, ts =>
      rw [drain_step _ _ w ws hwork, doWork_idle (hjobs w (by simp [hwork]))]
      obtain ⟨l, b, hl, hd⟩ := drain_quiet n
        { s with work := ws, changed := noted s, broughtBy := w.broughtBy }
        (by simp only [hwork, List.length_cons] at hn ⊢; omega)
        (fun v hv => (hjobs v (by simp [hwork, show v ∈ ws from hv])).resume ws s.late (noted s) w.broughtBy)
        (fun t ht => (htests t ht).resume ws s.late (noted s) w.broughtBy)
      exact ⟨l, b, fun i => (hl i).trans mem_noted, hd⟩
    | [], t :: ts =>
      rw [drain_late _ _ t ts hwork hlate, doLate_idle (htests t (by simp [hlate]))]
      obtain ⟨l, b, hl, hd⟩ := drain_quiet n
        { s with late := ts, changed := noted s, broughtBy := t.broughtBy }
        (by simp only [hlate, List.length_cons] at hn ⊢; omega)
        (fun v hv => (hjobs v hv).resume s.work ts (noted s) t.broughtBy)
        (fun u hu => (htests u (by simp [hlate, show u ∈ ts from hu])).resume s.work ts (noted s) t.broughtBy)
      exact ⟨l, b, fun i => (hl i).trans mem_noted, hd⟩
    | [], [] =>
      refine ⟨s.changed, s.broughtBy, fun _ => .rfl, ?_⟩
      rw [drain_idle _ _ hwork hlate, ← hwork, ← hlate]

/-- The state in which a piece of follow-up work finds what the event has made: the list of work is empty
and what it does is brought by `b`. -/
def State.resume (u : State) (b : Option Word16) (l : List SlotId) : State :=
  { u with work := [], changed := l, broughtBy := b }

/-- A piece of work at the front is done, and what it brings comes before the rest. -/
theorem drain_cons {w : Work} {ws : List Work} {n : Nat} (hn : 0 < n) (hw : s.work = w :: ws) :
    ∃ l, drain n s =
      let v := doJob w.job (s.resume w.broughtBy s.changed)
      drain (n - 1) { v with work := v.work ++ ws, changed := l } := by
  obtain ⟨m, rfl⟩ := Nat.exists_eq_add_of_lt hn
  refine ⟨(doWork w ws s).changed, ?_⟩
  rw [Nat.zero_add, drain_step _ _ w ws hw]
  rfl

/-! ### The end of an event -/

/-- What an event leaves that has made `u` and has no more to do: the records `l` are written. -/
def State.ended (u : State) (l : List SlotId) (b : Option Word16) : State :=
  closeEvent { u with work := [], late := [], changed := l, broughtBy := b }

section
variable (u : State) (l : List SlotId) (b : Option Word16)

/-- The end of an event leaves all but the update counts, the shelf revision and the event's own work. -/
@[simp] theorem ended_frame :
    (u.ended l b).pending = u.pending ∧ (u.ended l b).time = u.time ∧ (u.ended l b).held = u.held ∧
    (u.ended l b).resetLine = u.resetLine ∧ (u.ended l b).straps = u.straps ∧
    (u.ended l b).pins = u.pins ∧ (u.ended l b).feedALow = u.feedALow ∧
    (u.ended l b).feedBLow = u.feedBLow ∧ (u.ended l b).debounceFrom = u.debounceFrom ∧
    (u.ended l b).port = u.port ∧ (u.ended l b).cells = u.cells ∧ (u.ended l b).mem = u.mem ∧
    (u.ended l b).pointer = u.pointer ∧ (u.ended l b).alloc = u.alloc ∧ (u.ended l b).power = u.power ∧
    (u.ended l b).settings = u.settings ∧ (u.ended l b).history = u.history ∧
    (u.ended l b).ports = u.ports ∧ (u.ended l b).engines = u.engines ∧
    (u.ended l b).journal = u.journal ∧ (u.ended l b).work = [] ∧ (u.ended l b).late = [] ∧
    (u.ended l b).shelfDirty = false ∧ (u.ended l b).changed = [] ∧ (u.ended l b).broughtBy = none := by
  simp [State.ended]

@[simp] theorem ended_reads :
    (∀ j, (u.ended l b).slot j = (u.slot j).written (decide (j ∈ l))) ∧
    (∀ j, (u.ended l b).pwr j = u.pwr j) ∧ (∀ j, (u.ended l b).engine j = u.engine j) ∧
    (∀ j, (u.ended l b).linkUp j = u.linkUp j) ∧ (∀ q, (u.ended l b).portOf q = u.portOf q) ∧
    (∀ k, (u.ended l b).cell k = u.cell k) ∧ (∀ j, (u.ended l b).pinsOf j = u.pinsOf j) :=
  ⟨fun j => closeEvent_slot _ j, fun j => closeEvent_pwr _ j, fun j => closeEvent_engine _ j,
    fun j => closeEvent_linkUp _ j, fun q => closeEvent_portOf _ q, fun k => closeEvent_cell _ k,
    fun j => closeEvent_pinsOf _ j⟩

@[simp] theorem ended_rd8 (c : CellId) (k : Nat) : (u.ended l b).rd8 c k = u.rd8 c k := by
  simp [State.rd8]

@[simp] theorem ended_rd16 (c : CellId) (k : Nat) : (u.ended l b).rd16 c k = u.rd16 c k := by
  simp [State.rd16]

@[simp] theorem ended_rd32 (c : CellId) (k : Nat) : (u.ended l b).rd32 c k = u.rd32 c k := by
  simp [State.rd32]

end

/-- A record write is of the update count alone. -/
theorem Slot.written_like (b : Bool) (x : Slot) : (x.written b).Like x := by
  unfold Slot.written
  split <;> rfl

/-- The work of an event stands in `s`, whose follow-up work does nothing: the event is at its end. -/
theorem closeEvent_drain_quiet {n : Nat} (hn : s.work.length + s.late.length ≤ n)
    (hjobs : ∀ w ∈ s.work, w.job.Idle s) (htests : ∀ t ∈ s.late, LateIdle s t.slot) :
    ∃ l b, (∀ i, i ∈ l ↔ i ∈ s.changed) ∧ closeEvent (drain n s) = s.ended l b := by
  obtain ⟨l, b, hl, hd⟩ := drain_quiet n s hn hjobs htests
  exact ⟨l, b, hl, congrArg closeEvent hd⟩

/-- An event whose follow-up work does nothing is its act and the record writes of what the act changed. -/
theorem event_quiet {u : State} (hr : s.Ready) (hn : u.work.length + u.late.length ≤ Config.workBound)
    (hjobs : ∀ w ∈ u.work, w.job.Idle u) (htests : ∀ t ∈ u.late, LateIdle u t.slot) :
    ∃ l b, (∀ i, i ∈ l ↔ u.recordView i ≠ s.recordView i) ∧ event (fun _ => u) s = u.ended l b := by
  have idle : ∀ w ∈ u.work, w.job.Idle (noteRecords s u) := fun w hw =>
    (hjobs w hw).resume u.work u.late (noteRecords s u).changed u.broughtBy
  obtain ⟨l, b, hl, hd⟩ := closeEvent_drain_quiet (s := noteRecords s u) hn idle htests
  refine ⟨l, b, fun i => (hl i).trans ?_, hd⟩
  rw [mem_changed_noteRecords, hr.changed]
  simp

/-! ### An order that waits (R13, R40) -/

/-- In no settled state, or with an order active, a slot starts nothing (R13). -/
theorem startTest_waits (h : (s.slot i).state.settled = false ∨ (s.slot i).active = true) :
    startTest i s = s := by
  unfold startTest
  split
  · rfl
  · rw [if_neg (by rcases h with h | h <;> simp [h])]

@[simp] theorem pastCell_slot (s : State) (c : CellId) (j : SlotId) : (s.pastCell c).slot j = s.slot j := rfl

theorem queueSlotOrder_slot_self (c : CellId) (k : OrderKind) (i : SlotId) (s : State) :
    (queueSlotOrder c k i s).slot i =
      { s.slot i with orders := (s.slot i).orders ++ [⟨c, k, s.time⟩] } := by
  simp [queueSlotOrder]

theorem queueSlotOrder_slot_ne {j : SlotId} (c : CellId) (k : OrderKind) (s : State) (h : j ≠ i) :
    (queueSlotOrder c k i s).slot j = s.slot j := by
  simp [queueSlotOrder, h]

/-- An order that joins its slot's list shows in the record: one more waits, or on an empty list with its
order active the active cell is this order's. -/
theorem Slot.append_shows (x : Slot) (e : OrderEntry) :
    ({ x with orders := x.orders ++ [e] } : Slot).waiting.length ≠ x.waiting.length
      ∨ ({ x with orders := x.orders ++ [e] } : Slot).activeCell ≠ x.activeCell := by
  unfold Slot.waiting Slot.activeCell
  cases x.active
  · exact .inl (by simp)
  · cases x.orders
    · exact .inr (by simp)
    · exact .inl (by simp)

/-- A record that the act changed is written once (R2, log 6). -/
theorem event_writes_record {act : State → State} {f : Fixed} (hk : Kept f (act s))
    (hv : (act s).recordView i ≠ s.recordView i) : ((event act s).slot i).upd = f.upd i + 1 := by
  have hd := Kept.drain Config.workBound (hk.noteRecords (old := s))
  have hchanged : i ∈ (drain Config.workBound (noteRecords s (act s))).changed := by
    by_contra hn
    exact (drain_unchanged i _ _ hn).1 ((mem_changed_noteRecords s (act s) i).2 (.inr hv))
  unfold event
  rw [closeEvent_slot, Slot.written_upd, decide_eq_true hchanged, if_pos rfl, ← hd.fixed]
  rfl

/-- A record write changes an update count at most. -/
theorem closeRecord_eq (s : State) (i : SlotId) :
    closeRecord s i = { s with slots := (closeRecord s i).slots } := by
  unfold closeRecord
  split <;> rfl

/-- An event that did not write the shelf record ends with the slots' record writes alone. -/
theorem closeEvent_eq (h : s.shelfDirty = false) : closeEvent s =
    { s with slots := (closeEvent s).slots, changed := [], broughtBy := none } := by
  have records : ∀ (l : List SlotId) (s : State),
      l.foldl closeRecord s = { s with slots := (l.foldl closeRecord s).slots } := by
    intro l
    induction l with
    | nil => exact fun _ => rfl
    | cons i l ih =>
      intro s
      rw [List.foldl_cons, ih, closeRecord_eq]
  have clean : (allSlots.foldl closeRecord s).shelfDirty = false := by
    rw [records]
    exact h
  have shelf : closeShelf (allSlots.foldl closeRecord s) = allSlots.foldl closeRecord s := by
    rw [closeShelf, if_neg (by simp [clean])]
  unfold closeEvent
  rw [shelf, records]

/-- The order that joins its slot's list changes the slot's record (R40). -/
theorem queueSlotOrder_view_self (c : CellId) (k : OrderKind) (i : SlotId) (s : State) :
    (queueSlotOrder c k i (s.pastCell c)).recordView i ≠ s.recordView i := by
  have hslot : (queueSlotOrder c k i (s.pastCell c)).slot i =
      { s.slot i with orders := (s.slot i).orders ++ [⟨c, k, s.time⟩] } := queueSlotOrder_slot_self ..
  intro h
  have hwaiting : ((queueSlotOrder c k i (s.pastCell c)).slot i).waiting.length
      = (s.slot i).waiting.length := congrArg RecordView.waiting h
  have hactive : ((queueSlotOrder c k i (s.pastCell c)).slot i).activeCell = (s.slot i).activeCell :=
    congrArg RecordView.activeCell h
  rw [hslot] at hwaiting hactive
  rcases Slot.append_shows (s.slot i) ⟨c, k, s.time⟩ with hne | hne
  · exact hne hwaiting
  · exact hne hactive

theorem queueSlotOrder_view_ne {j : SlotId} (h : j ≠ i) (c : CellId) (k : OrderKind) (s : State) :
    (queueSlotOrder c k i (s.pastCell c)).recordView j = s.recordView j := by
  unfold State.recordView
  rw [queueSlotOrder_slot_ne _ _ _ h]
  rfl

/-- An event that does not write the shelf record writes slots' records alone at its end. -/
theorem ended_eq (u : State) (l : List SlotId) (b : Option Word16) (h : u.shelfDirty = false) :
    u.ended l b = { u with
      slots := (u.ended l b).slots, work := [], late := [], changed := [], broughtBy := none } :=
  closeEvent_eq (s := { u with work := [], late := [], changed := l, broughtBy := b }) h

/-- An order that joins its slot's list changes the pointer, the cell and its slot alone. -/
theorem queueSlotOrder_rest (hr : s.Ready) (c : CellId) (k : OrderKind) (i : SlotId) (slots : Vector Slot 16) :
    ({ queueSlotOrder c k i (s.pastCell c) with
        slots := slots, work := [], late := [], changed := [], broughtBy := none } : State) =
      { s with pointer := c + 1, cells := (s.setCell c .taken).cells, slots := slots } := by
  obtain ⟨work, late, -, changed, broughtBy⟩ := hr
  cases s
  subst work late changed broughtBy
  rfl

theorem queueSlotOrder_work (c : CellId) (k : OrderKind) (i : SlotId) (s : State) :
    (queueSlotOrder c k i s).work = s.work ++ [⟨.start i, s.broughtBy⟩] := rfl

/-- Settles O21: the start test that follows does nothing. -/
theorem queuedOrderWaits : Obligations.QueuedOrderWaits := by
  intro s c k i ht hk hwaits
  have hr : s.Ready := ht.toReady
  obtain ⟨hwork, hlate, hshelf, -, -⟩ := ht.toReady
  have hself := queueSlotOrder_slot_self c k i (s.pastCell c)
  have hidle : Job.Idle (queueSlotOrder c k i (s.pastCell c)) (.start i) := by
    refine .inr ?_
    rw [hself]
    exact hwaits
  have hjobs : (queueSlotOrder c k i (s.pastCell c)).work = [⟨.start i, s.broughtBy⟩] := by
    rw [queueSlotOrder_work, show (s.pastCell c).work = [] from hwork]
    rfl
  obtain ⟨l, b, hl, he⟩ := event_quiet (u := queueSlotOrder c k i (s.pastCell c)) hr
    (by rw [hjobs, show (queueSlotOrder c k i (s.pastCell c)).late = [] from hlate]; show 1 ≤ 4096; omega)
    (by rw [hjobs]; simpa using hidle)
    (by rw [show (queueSlotOrder c k i (s.pastCell c)).late = [] from hlate]; simp)
  refine ⟨_, (exec_take_queued ht hk).trans (congrArg _ he), ?_, fun j hj => ?_, ?_⟩
  · have hwritten : i ∈ l := (hl i).mpr (queueSlotOrder_view_self c k i s)
    rw [(ended_reads _ l b).1, decide_eq_true hwritten, hself]
    rfl
  · have hstands : j ∉ l := fun hmem => (hl j).mp hmem (queueSlotOrder_view_ne hj c k s)
    rw [(ended_reads _ l b).1, decide_eq_false hstands, queueSlotOrder_slot_ne _ _ _ hj]
    rfl
  · have clean : (queueSlotOrder c k i (s.pastCell c)).shelfDirty = false := hshelf
    have rest := queueSlotOrder_rest hr c k i ((queueSlotOrder c k i (s.pastCell c)).ended l b).slots
    exact (ended_eq _ l b clean).trans rest

/-! ### Slot records (R2, 11_formats) -/

/-- An order that joins its slot's list has the record written once (R40). -/
theorem exec_take_queued_upd (h : Inv s) {c : CellId} {k : OrderKind} (ht : s.TakesFor c k i)
    (hk : k.orderClass = .slotQueued) :
    ∃ t, exec (takeCommand (some k)) s = .next t ∧ (t.slot i).upd = (s.slot i).upd + 1 := by
  refine ⟨_, exec_take_queued ht hk, ?_⟩
  have hact : takeCell c s = queueSlotOrder c k i (s.pastCell c) := by
    rw [takeCell_passes ht.kind ht.passes, handleKind_slotQueued ht.slot hk _ rfl]
  have kept : Kept { s.fixed with pointer := c + 1 } (queueSlotOrder c k i (s.pastCell c)) :=
    hact ▸ (Kept.refl h).takeCell
  exact event_writes_record kept (queueSlotOrder_view_self c k i s)

/-- The mirror of a slot's ports in its record (R102). -/
def State.mirrorFields (s : State) (i : SlotId) : List (List Byte) :=
  if isHub i then (slotPorts i).map fun p => [(s.portOf p).state.code]
  else ((slotPorts i).map fun p => [(s.portOf p).state.code, if (s.portOf p).declined then 1 else 0,
    BitVec.ofNat 8 (s.portOf p).attempts]) ++ [List.replicate 8 0]

/-- The fields of a slot's record ahead of the port mirror, in the order of their offsets (11_formats). -/
def State.recordHead (s : State) (i : SlotId) : List (List Byte) :=
  let x := s.slot i
  [le16 x.gen, le16 x.upd, [x.state.code], [x.prev.code], [x.presence.code],
    [if x.handleOpen then 1 else 0], le32 x.entry,
    [(if x.latch then 1 else 0) ||| (if x.hold then 2 else 0)],
    [(if x.policy.handle = .selfRetire then 1 else 0)
      ||| (if x.policy.fault = .notify then 2 else 0) ||| (if x.policy.stampOnHandle then 4 else 0)],
    [x.idStatus.code], [x.idReason.code], [x.ident.format], [x.ident.kind], le16 x.ident.vendor,
    le16 x.ident.draw, [x.ident.inrush], [x.ident.bootHint],
    (List.range 8).map fun k => byteAt x.ident.serial k, le16 (BitVec.ofNat 16 x.claim),
    [waitByte x.waitReason], [BitVec.ofNat 8 x.queuePos], le32 (s.pwr i).goodTime,
    le32 (s.pwr i).offTime, [faultByte x.fault], [(s.engine i).link.code], [agentByte x.lastAgent],
    [x.lastCause], le32 x.faultTime]

/-- The fields of a slot's record behind the port mirror. -/
def State.recordTail (s : State) (i : SlotId) : List (List Byte) :=
  let x := s.slot i
  [[BitVec.ofNat 8 x.nextRow.val], [x.nextSeq], [stampByte x.lastStamp], [BitVec.ofNat 8 x.admissions],
    le16 (BitVec.ofNat 16 x.minutes), [x.activeCell.elim 0xFF fun c => BitVec.ofNat 8 c.val],
    [BitVec.ofNat 8 x.waiting.length], List.replicate 50 0, le16 x.gen, le16 x.upd]

/-- The eight bytes of a blade's serial number, zero beyond those read. -/
theorem serialBytes_eq (bs : List Byte) :
    (bs ++ zeros 8).take 8 = (List.range 8).map fun k => byteAt bs k := by
  apply List.ext_getElem
  · simp [zeros]
  · intro k hk _
    rcases Nat.lt_or_ge k bs.length with h | h
    · simp [h, byteAt, List.getD_eq_getElem?_getD]
    · rw [List.getElem_take, List.getElem_append_right h, List.getElem_map, List.getElem_range]
      simp only [zeros, List.getElem_replicate, byteAt, List.getD_eq_getElem?_getD,
        List.getElem?_eq_none h, Option.getD_none]

theorem flatten_map_singleton {α β : Type} (f : α → β) (l : List α) :
    (l.map fun x => [f x]).flatten = l.map f := by
  induction l with
  | nil => rfl
  | cons x l ih => rw [List.map_cons, List.flatten_cons, ih]; rfl

theorem mirrorBytes_eq (s : State) (i : SlotId) :
    mirrorBytes (isHub i) ((slotPorts i).map (s.mirrorPort (isHub i))) = (s.mirrorFields i).flatten := by
  unfold mirrorBytes State.mirrorFields State.mirrorPort
  cases isHub i
  · simp [List.flatMap_def, flagByte, zeros, Function.comp_def]
  · simp [Function.comp_def]
    exact (flatten_map_singleton ..).symm

theorem flagByte_shift (b : Bool) : flagByte b <<< 1 = if b then 2 else 0 := by
  cases b <;> rfl

theorem recordBytes_eq (s : State) (i : SlotId) : recordBytes (isHub i) (s.recordView i) (s.slot i).upd =
    (s.recordHead i).flatten ++ ((s.mirrorFields i).flatten ++ (s.recordTail i).flatten) := by
  unfold recordBytes State.recordHead State.recordTail State.recordView
  dsimp only
  rw [mirrorBytes_eq, serialBytes_eq]
  simp only [List.flatten_cons, List.flatten_nil, List.append_nil, List.append_assoc, List.cons_append,
    List.nil_append, flagByte_shift]
  cases (s.slot i).activeCell <;> rfl

theorem mirrorFields_length (s : State) (i : SlotId) : (s.mirrorFields i).flatten.length = 14 := by
  unfold State.mirrorFields
  by_cases hub : isHub i = true
  · rw [if_pos hub, flatten_map_singleton, List.length_map, slotPorts, dif_neg (by simpa [isHub] using hub)]
    rfl
  · rw [if_neg hub, slotPorts, dif_pos (by simpa [isHub] using hub)]
    rfl

theorem recordHead_length (s : State) (i : SlotId) : (s.recordHead i).flatten.length = 0x34 := by
  simp only [State.recordHead, List.flatten_cons, List.flatten_nil, List.length_append, le16_length,
    le32_length, List.length_cons, List.length_nil, List.length_map, List.length_range]

theorem recordTail_length (s : State) (i : SlotId) : (s.recordTail i).flatten.length = 0x3E := by
  simp only [State.recordTail, List.flatten_cons, List.flatten_nil, List.length_append, le16_length,
    List.length_cons, List.length_nil, List.length_replicate]

/-- Where the parts of a slot's record stand. -/
theorem shows_record (s : State) (i : SlotId) :
    let base := 0x1400 + 128 * i.val
    (∀ f ∈ placed 0 (s.recordHead i), s.Shows (base + f.1) f.2)
    ∧ (∀ f ∈ placed 0x34 (s.mirrorFields i), s.Shows (base + f.1) f.2)
    ∧ ∀ f ∈ placed 0x42 (s.recordTail i), s.Shows (base + f.1) f.2 := by
  intro base
  have whole : s.Shows base ((s.recordHead i).flatten
      ++ ((s.mirrorFields i).flatten ++ (s.recordTail i).flatten)) := by
    intro k hk
    rw [List.length_append, List.length_append, recordHead_length, mirrorFields_length,
      recordTail_length] at hk
    rw [areaByte_record s i hk, recordBytes_eq]
  rw [shows_append, shows_append, recordHead_length, mirrorFields_length] at whole
  obtain ⟨head, mirror, tail⟩ := whole
  exact ⟨shows_placed (a := 0) head, shows_placed mirror, shows_placed tail⟩

theorem recordHead_placed (s : State) (i : SlotId) : placed 0 (s.recordHead i) =
    [0x00, 0x02, 0x04, 0x05, 0x06, 0x07, 0x08, 0x0C, 0x0D, 0x0E, 0x0F, 0x10, 0x11, 0x12, 0x14, 0x16, 0x17,
      0x18, 0x20, 0x22, 0x23, 0x24, 0x28, 0x2C, 0x2D, 0x2E, 0x2F, 0x30].zip (s.recordHead i) := by
  simp only [State.recordHead, placed, le16_length, le32_length, List.length_map, List.length_range,
    List.length_cons, List.length_nil, Nat.reduceAdd, List.zip_cons_cons, List.zip_nil_right]

theorem recordTail_placed (s : State) (i : SlotId) : placed 0x42 (s.recordTail i) =
    [0x42, 0x43, 0x44, 0x45, 0x46, 0x48, 0x49, 0x4A, 0x7C, 0x7E].zip (s.recordTail i) := by
  simp only [State.recordTail, placed, le16_length, List.length_cons, List.length_nil,
    List.length_replicate, Nat.reduceAdd, List.zip_cons_cons, List.zip_nil_right]

/-- Entries of one length, each with its offset. -/
theorem placed_map {α : Type} (g : α → List Byte) (z : Nat) (hz : ∀ p, (g p).length = z) :
    ∀ (ps : List α) (a : Nat), placed a (ps.map g) = ps.mapIdx fun k p => (a + z * k, g p)
  | [], _ => rfl
  | p :: ps, a => by
    rw [List.map_cons, placed, placed_map g z hz ps, List.mapIdx_cons, hz]
    refine congrArg₂ _ rfl (congrArg (fun f => ps.mapIdx f) ?_)
    funext k p
    rw [Nat.mul_add, Nat.mul_one, Nat.add_assoc, Nat.add_comm z]

/-- Where the port mirror of a hub's record stands. -/
theorem mirrorFields_hub {i : SlotId} (h : isHub i = true) (s : State) : placed 0x34 (s.mirrorFields i) =
    (slotPorts i).mapIdx fun k p => (0x34 + k, [(s.portOf p).state.code]) := by
  rw [State.mirrorFields, if_pos h, placed_map _ 1 fun _ => rfl]
  simp only [Nat.one_mul]

/-- Where the port mirror of a node's record stands. -/
theorem mirrorFields_node {i : SlotId} (h : isHub i = false) (s : State) : placed 0x34 (s.mirrorFields i) =
    ((slotPorts i).mapIdx fun k p => (0x34 + 3 * k, [(s.portOf p).state.code,
      if (s.portOf p).declined then 1 else 0, BitVec.ofNat 8 (s.portOf p).attempts]))
      ++ [(0x3A, List.replicate 8 0)] := by
  have hnode : i.val < 14 := by simpa [isHub] using h
  rw [State.mirrorFields, if_neg (by simp [h]), slotPorts, dif_pos hnode]
  rfl

/-- Settles O7. -/
theorem recordWrittenOncePerEvent : Obligations.RecordWrittenOncePerEvent := by
  refine ⟨fun c s h hc hone => ?_, fun s c k i h ht hk => exec_take_queued_upd h ht hk, fun s i => ?_⟩
  · obtain ⟨t, ht⟩ := exec_completes c hc h
    exact ⟨t, ht.next, (ht.one hone).records⟩
  · intro x mirror
    obtain ⟨head, ports, tail⟩ := shows_record s i
    rw [recordHead_placed] at head
    rw [recordTail_placed] at tail
    have hmirror : ∀ f ∈ mirror, s.Shows (0x1400 + 128 * i.val + f.1) f.2 := by
      cases hub : isHub i
      · rw [mirrorFields_node hub, List.forall_mem_append] at ports
        simp only [mirror, hub, Bool.false_eq_true, if_false]
        exact List.forall_mem_cons.mpr ⟨ports.2 _ (List.mem_singleton_self _), ports.1⟩
      · rw [mirrorFields_hub hub] at ports
        simp only [mirror, hub, if_true]
        exact ports
    simp only [List.forall_mem_append]
    refine ⟨?_, hmirror⟩
    simp only [State.recordHead, State.recordTail, List.zip_cons_cons, List.zip_nil_right,
      List.forall_mem_cons] at head tail ⊢
    obtain ⟨h1, h2, h3, h4, h5, h6, h7, h8, h9, h10, h11, h12, h13, h14, h15, h16, h17, h18, h19, h20, h21,
      h22, h23, h24, h25, h26, h27, h28, -⟩ := head
    obtain ⟨t1, t2, t3, t4, t5, t6, t7, t8, t9, t10, -⟩ := tail
    refine ⟨h1, h2, h3, h4, h5, h6, h7, h8, h9, h10, h11, h12, h13, h14, h15, h16, h17, h18, h19, h20, h21,
      h22, h23, h24, h25, h26, h27, h28, t1, t2, t3, t4, t5, ?_, t7, t8, t9, t10,
      fun _ hx => absurd hx List.not_mem_nil⟩
    convert t6 using 2
    cases x.activeCell <;> rfl

end Sys2Proof.Machine

/-! What the handing of a notice does to the journal (R168 to R170) and how an entry reads (11_formats). -/

namespace Sys2Proof.Machine

variable {s t : State}

/-! ### What a notice touches -/

/-- `t` differs from `s` at most in the journal, the ATTENTION bits, the count of messages and the shelf
revision. -/
def NoticeOnly (s t : State) : Prop :=
  ∃ j a k r, t = { s with
    journal := j, port := { s.port with attention := a, messages := k }, shelfRevision := r }

theorem NoticeOnly.refl (s : State) : NoticeOnly s s := ⟨s.journal, s.port.attention, s.port.messages, _, rfl⟩

theorem NoticeOnly.trans {u : State} (h : NoticeOnly s t) (h' : NoticeOnly t u) : NoticeOnly s u := by
  obtain ⟨j, a, k, r, rfl⟩ := h
  obtain ⟨j', a', k', r', rfl⟩ := h'
  exact ⟨j', a', k', r', rfl⟩

theorem noticeOnly_journal (s : State) (j : Journal) (r : Word16) :
    NoticeOnly s { s with journal := j, shelfRevision := r } :=
  ⟨j, s.port.attention, s.port.messages, r, rfl⟩

theorem noticeOnly_latch (b : Attention) (s : State) : NoticeOnly s (s.latch b) := by
  unfold State.latch State.updatePort
  dsimp only
  split
  · exact ⟨s.journal, s.port.attention ||| b.mask, s.port.messages + 1, s.shelfRevision, rfl⟩
  · exact ⟨s.journal, s.port.attention ||| b.mask, s.port.messages, s.shelfRevision, rfl⟩

theorem noticeOnly_writeNotice (n : Notice) (s : State) : NoticeOnly s (writeNotice n s) :=
  (noticeOnly_journal s _ s.shelfRevision).trans (noticeOnly_latch .journal _)

theorem noticeOnly_foldNotice (n : Notice) (s : State) : NoticeOnly s (foldNotice n s) := by
  unfold foldNotice
  dsimp only
  split
  · exact (noticeOnly_journal s _ _).trans (noticeOnly_latch .journalFull _)
  · exact noticeOnly_journal s _ _

theorem noticeOnly_roomTest (s : State) : NoticeOnly s (roomTest s) := by
  unfold roomTest
  split
  · exact (noticeOnly_writeNotice _ s).trans (noticeOnly_journal _ _ _)
  · exact .refl s

theorem noticeOnly_takeNotice (n : Notice) (s : State) : NoticeOnly s (takeNotice n s) := by
  unfold takeNotice
  split
  · exact noticeOnly_writeNotice n s
  · exact noticeOnly_foldNotice n s

theorem noticeOnly_handNotice (n : Notice) (s : State) : NoticeOnly s (handNotice n s) :=
  (noticeOnly_roomTest s).trans (noticeOnly_takeNotice n _)

/-! ### What is written -/

theorem latch_attention (b : Attention) (s : State) :
    (s.latch b).port.attention = s.port.attention ||| b.mask := by
  unfold State.latch State.updatePort
  dsimp only
  split <;> rfl

theorem writeNotice_journal (n : Notice) (s : State) : (writeNotice n s).journal = { s.journal with
    entries := s.journal.entries.set (entryOf s.journal.writeCount) (some n)
    writeCount := s.journal.writeCount + 1 } := rfl

theorem writeNotice_attention (n : Notice) (s : State) :
    (writeNotice n s).port.attention = s.port.attention ||| Attention.journal.mask :=
  latch_attention ..

theorem foldNotice_journal (n : Notice) (s : State) : (foldNotice n s).journal = { s.journal with
    gapMask := s.journal.gapMask ||| n.mark, gapPending := true } := by
  unfold foldNotice
  dsimp only
  split <;> rfl

theorem foldNotice_attention (n : Notice) (s : State) : (foldNotice n s).port.attention =
    if s.journal.full then s.port.attention ||| Attention.journalFull.mask else s.port.attention := by
  unfold foldNotice
  dsimp only
  split
  · exact latch_attention ..
  · rfl

/-- The room test writes the GAP notice and clears the gap, with one write of the shelf record (R170). -/
theorem roomTest_writes (h : s.journal.gapPending = true ∧ s.port.run = true ∧ s.journal.full = false) :
    (roomTest s).journal = { s.journal with
        entries := s.journal.entries.set (entryOf s.journal.writeCount) (some (gapNotice s))
        writeCount := s.journal.writeCount + 1, gapMask := 0, gapPending := false }
    ∧ (roomTest s).port.attention = s.port.attention ||| Attention.journal.mask
    ∧ (roomTest s).shelfRevision = s.shelfRevision + 1 := by
  obtain ⟨hgap, hrun, hroom⟩ := h
  rw [roomTest, if_pos (by simp [hgap, hrun, hroom])]
  exact ⟨rfl, writeNotice_attention _ s, rfl⟩

theorem roomTest_nothing (h : ¬ (s.journal.gapPending = true ∧ s.port.run = true ∧ s.journal.full = false)) :
    roomTest s = s := by
  rw [roomTest, if_neg (by simpa [and_assoc] using h)]

/-- With RUN set, room in the journal and no gap pending a notice is written (R168). -/
theorem takeNotice_writes (n : Notice)
    (h : s.port.run = true ∧ s.journal.full = false ∧ s.journal.gapPending = false) :
    takeNotice n s = writeNotice n s := by
  obtain ⟨hrun, hroom, hgap⟩ := h
  rw [takeNotice, if_pos (by simp [hgap, hrun, hroom])]

/-- Otherwise it is folded (R169). -/
theorem takeNotice_folds (n : Notice)
    (h : ¬ (s.port.run = true ∧ s.journal.full = false ∧ s.journal.gapPending = false)) :
    takeNotice n s = foldNotice n s := by
  rw [takeNotice, if_neg (by simpa [and_assoc] using h)]

/-- With room and no gap a notice that is handed is written, and nothing before it. -/
theorem handNotice_writes (n : Notice)
    (h : s.port.run = true ∧ s.journal.full = false ∧ s.journal.gapPending = false) :
    handNotice n s = writeNotice n s := by
  rw [handNotice, roomTest_nothing (by simp [h.2.2]), takeNotice_writes n h]

/-- The notice stands in the entry of its number (R163, R168). -/
theorem handNotice_entry (n : Notice)
    (h : s.port.run = true ∧ s.journal.full = false ∧ s.journal.gapPending = false) :
    (handNotice n s).journal.writeCount = s.journal.writeCount + 1
    ∧ (handNotice n s).journal.entries[(entryOf s.journal.writeCount).val]'(entryOf s.journal.writeCount).isLt
      = some n := by
  rw [handNotice_writes n h]
  refine ⟨rfl, ?_⟩
  simp only [writeNotice_journal]
  exact Vector.getElem_set_self _

/-! What a notice of a slot says (R165, R166). -/

theorem activeTag_congr {i : SlotId} (hactive : (t.slot i).active = (s.slot i).active)
    (horders : (t.slot i).orders = (s.slot i).orders) (hmem : t.mem = s.mem) :
    t.activeTag i = s.activeTag i := by
  have tag : ∀ c, t.cellTag c = s.cellTag c := fun c => by
    simp only [State.cellTag, State.rd16, State.rd8, hmem]
  simp only [State.activeTag, hactive, horders, tag]

theorem slotNotice_congr {i : SlotId} (htime : t.time = s.time) (hgen : (t.slot i).gen = (s.slot i).gen)
    (hstate : (t.slot i).state = (s.slot i).state) (hprev : (t.slot i).prev = (s.slot i).prev)
    (body : NoticeBody) (tag : Option Word16) : slotNotice t i body tag = slotNotice s i body tag := by
  unfold slotNotice
  rw [htime, hgen, hstate, hprev]

/-! ### The entries -/

theorem entryBytes_length (n : Option Notice) : (entryBytes n).length = 32 := by
  rcases n with _ | ⟨body, _, _, _, _, _, _⟩
  · rfl
  · cases body <;> rfl

theorem shows_entry (s : State) (e : Fin 128) :
    s.Shows (0x2000 + 32 * e.val) (entryBytes (s.journal.entries[e.val]'e.isLt)) := by
  intro k hk
  rw [entryBytes_length] at hk
  exact areaByte_entry s e hk

/-- Settles O11. -/
theorem noticeWrittenOrFolded : Obligations.NoticeWrittenOrFolded := by
  refine ⟨fun n s => ⟨roomTest_writes, roomTest_nothing, fun h => ?_, fun h => ?_, noticeOnly_roomTest s,
    noticeOnly_handNotice n s⟩, fun s e n he => ?_⟩
  · rw [handNotice, takeNotice_writes n h]
    exact ⟨writeNotice_journal .., writeNotice_attention ..⟩
  · rw [handNotice, takeNotice_folds n h]
    exact ⟨foldNotice_journal .., foldNotice_attention ..⟩
  · have shows := shows_entry s e
    rw [he] at shows
    convert shows using 1
    obtain ⟨body, slot, time, gen, state, prev, tag⟩ := n
    cases slot <;> rfl

end Sys2Proof.Machine

/-! Events of one link engine, and of the deadlines that change one field (R31, R82, R89, R94, R96, R127 to
R139, R145): no slot's record shows what they change, so the event is the act. -/

namespace Sys2Proof.Machine

variable {s t : State} {i : SlotId}

/-! ### Events that no record shows -/

/-- `t` brings no work that `s` has not, and every slot's record reads as in `s`. -/
structure Unseen (s t : State) : Prop where
  work : t.work = s.work
  late : t.late = s.late
  shelfDirty : t.shelfDirty = s.shelfDirty
  changed : t.changed = s.changed
  broughtBy : t.broughtBy = s.broughtBy
  view : ∀ i, t.recordView i = s.recordView i

theorem event_unseen {act : State → State} (hr : s.Ready) (h : Unseen s (act s)) : event act s = act s :=
  event_act s act hr rfl h.work h.late h.shelfDirty h.changed h.broughtBy h.view

theorem liveEvent_unseen {act : State → State} (hl : s.Live) (h : Unseen s (act s)) :
    liveEvent act s = act s := by
  have live : unlessHeld act s = act s := unlessHeld_live s act hl.held
  rw [liveEvent, event_unseen hl.toReady (by rwa [live]), live]

theorem liveEvent_nothing {act : State → State} (hl : s.Live) (h : act s = s) : liveEvent act s = s :=
  event_nothing s _ ((unlessHeld_live s act hl.held).trans h) hl.toReady

theorem Unseen.refl (s : State) : Unseen s s := ⟨rfl, rfl, rfl, rfl, rfl, fun _ => rfl⟩

theorem Unseen.trans {u : State} (h : Unseen s t) (h' : Unseen t u) : Unseen s u :=
  ⟨h'.work.trans h.work, h'.late.trans h.late, h'.shelfDirty.trans h.shelfDirty,
    h'.changed.trans h.changed, h'.broughtBy.trans h.broughtBy, fun i => (h'.view i).trans (h.view i)⟩

theorem Unrecorded.unseen (h : Unrecorded s t) : Unseen s t :=
  ⟨h.work, h.late, h.shelfDirty, h.changed, h.broughtBy,
    recordView_congr h.slots h.power h.engines h.ports⟩

/-- A record shows of an engine the link state alone (R32). -/
theorem recordView_modEngine {g : Engine → Engine} (h : (g (s.engine i)).link = (s.engine i).link)
    (j : SlotId) : (s.modEngine i g).recordView j = s.recordView j := by
  unfold State.recordView
  by_cases hj : j = i
  · subst hj
    simp only [modEngine_engine_self, h]
    rfl
  · simp only [modEngine_engine_ne _ _ _ _ hj]
    rfl

theorem unseen_modEngine {g : Engine → Engine} (h : (g (s.engine i)).link = (s.engine i).link) :
    Unseen s (s.modEngine i g) := ⟨rfl, rfl, rfl, rfl, rfl, recordView_modEngine h⟩

theorem unseen_modPower {g : Power → Power} (hgood : (g (s.pwr i)).goodTime = (s.pwr i).goodTime)
    (hoff : (g (s.pwr i)).offTime = (s.pwr i).offTime) : Unseen s (s.modPower i g) :=
  ⟨rfl, rfl, rfl, rfl, rfl, recordView_modPower hgood hoff⟩

/-- The phase of an indicator is in no record (R31, R32). -/
theorem unseen_modSlot_blink (b : Option Blink) : Unseen s (s.modSlot i fun x => { x with blink := b }) := by
  refine ⟨rfl, rfl, rfl, rfl, rfl, fun j => ?_⟩
  unfold State.recordView
  by_cases hj : j = i
  · subst hj
    simp only [modSlot_slot_self]
    rfl
  · simp only [modSlot_slot_ne _ _ _ _ hj]
    rfl

/-! ### Changes of one engine -/

theorem modEngine_modEngine (f g : Engine → Engine) (s : State) :
    (s.modEngine i f).modEngine i g = s.modEngine i fun e => g (f e) := by
  simp [State.modEngine, State.engine]

theorem modEngine_congr {f g : Engine → Engine} (h : f (s.engine i) = g (s.engine i)) :
    s.modEngine i f = s.modEngine i g := by
  rw [State.modEngine, h]
  rfl

theorem modEngine_same {f : Engine → Engine} (h : f (s.engine i) = s.engine i) : s.modEngine i f = s := by
  unfold State.modEngine State.engine at *
  rw [h]
  simp

@[simp] theorem serve_link (now : Time) (e : Engine) : (e.serve now).link = e.link := by
  unfold Engine.serve
  split
  · split <;> rfl
  · rfl

/-- A free link sends its first ready message (R128, R129, R132). -/
theorem serve_sends {e : Engine} {now : Time} {q : QueuedMsg} {before behind : List QueuedMsg}
    (hup : e.link = .up) (hfree : e.out = none) (hq : e.queue = before ++ q :: behind)
    (hwait : ∀ b ∈ before, b.ready now = false) (hready : q.ready now = true) :
    e.serve now = { e with
      queue := before ++ behind, nextSeq := e.nextSeq + 1,
      out := some ⟨q.msg, q.placer, e.nextSeq, 1, after now 25, true, false⟩ } := by
  have first : e.queue.find? (QueuedMsg.ready now) = some q := by
    rw [hq, List.find?_append, List.find?_eq_none.mpr (by simpa using hwait), List.find?_cons_of_pos hready]
    rfl
  have rest : e.queue.eraseP (QueuedMsg.ready now) = before ++ behind := by
    rw [hq, List.eraseP_append_right _ (by simpa using hwait), List.eraseP_cons_of_pos hready]
  rw [Engine.serve, if_pos ⟨hup, hfree⟩, first, rest]
  rfl

/-- A link that is not UP, is not free, or has nothing ready sends nothing (R132). -/
theorem serve_nothing {e : Engine} {now : Time}
    (h : e.link ≠ .up ∨ e.out ≠ none ∨ ∀ b ∈ e.queue, b.ready now = false) : e.serve now = e := by
  unfold Engine.serve
  split
  · next hfree =>
    have none : e.queue.find? (QueuedMsg.ready now) = none := by
      rcases h with h | h | h
      · exact absurd hfree.1 h
      · exact absurd hfree.2 h
      · exact List.find?_eq_none.mpr (by simpa using h)
    rw [none]
  · rfl

/-- An engine of which a PROBE is asked (R137, R144). -/
def Engine.probed (now : Time) (b : Placer) (e : Engine) : Engine :=
  if e.link = .up ∧ e.probing = false then
    ({ e with queue := e.queue ++ [⟨.probe, b, none⟩] } : Engine).serve now
  else e

@[simp] theorem probed_link (now : Time) (b : Placer) (e : Engine) : (e.probed now b).link = e.link := by
  unfold Engine.probed
  split <;> simp

theorem askProbe_eq (b : Placer) (s : State) : askProbe i b s = s.modEngine i (Engine.probed s.time b) := by
  unfold askProbe
  split
  · next h =>
    rw [Bool.and_eq_true, Bool.not_eq_true'] at h
    have hup : (s.engine i).link = .up := of_decide_eq_true h.1
    exact modEngine_congr (by rw [Engine.probed, if_pos ⟨hup, h.2⟩, Engine.join, if_pos hup])
  · next h =>
    refine (modEngine_same (if_neg fun hp => h ?_)).symm
    rw [hp.2, State.linkUp, hp.1]
    rfl

theorem unseen_askProbe (b : Placer) (s : State) : Unseen s (askProbe i b s) :=
  askProbe_eq b s ▸ unseen_modEngine (probed_link ..)

theorem unseen_alertTest (s : State) : Unseen s (alertTest i s) := by
  unfold alertTest
  split
  · exact unseen_askProbe ..
  · exact .refl s

/-- Settles O53. -/
theorem engineSends : Obligations.EngineSends := by
  intro s i hl probed
  have sends : liveEvent (serveLink i) s = serveLink i s :=
    liveEvent_unseen hl (unseen_modEngine (serve_link ..))
  refine ⟨congrArg Host.Outcome.next sends,
    fun e hup hfree q before behind hq hwait hready => serve_sends hup hfree hq hwait hready,
    fun e h => serve_nothing h, ?_, ?_, ?_, ?_⟩
  · refine congrArg Host.Outcome.next ((liveEvent_unseen hl ?_).trans ?_)
    · unfold pollExpired
      split
      · exact (unseen_askProbe ..).trans (unseen_modEngine rfl)
      · exact .refl s
    · unfold pollExpired
      split
      · rw [askProbe_eq, modEngine_modEngine]
        refine congrArg (fun d => s.modEngine i fun e => { Engine.probed s.time .engine e with poll := d }) ?_
        generalize (s.slot i).state = st
        cases st <;> rfl
      · rfl
  · have held : (s.modPins i fun x => { x with alert := true }).held = false := hl.held
    have alerted : alertTest i (s.modPins i fun x => { x with alert := true }) =
        (s.modPins i fun x => { x with alert := true }).modEngine i probed := by
      rw [alertTest, modPins_pinsOf_self, if_pos rfl, askProbe_eq]
      rfl
    refine congrArg Host.Outcome.next ?_
    rw [event_unseen (ready_modPins hl.toReady i _), unlessHeld_live _ _ held, alerted]
    rw [unlessHeld_live _ _ held]
    exact unseen_alertTest _
  · have held : (s.modPins i fun x => { x with alert := false }).held = false := hl.held
    refine congrArg Host.Outcome.next (event_nothing _ _ ?_ (ready_modPins hl.toReady i _))
    rw [unlessHeld_live _ _ held, alertTest, modPins_pinsOf_self, if_neg Bool.noConfusion]
  · refine congrArg Host.Outcome.next ((liveEvent_unseen hl ?_).trans ?_)
    · unfold recoveryExpired
      split
      · refine unseen_modEngine ?_
        dsimp only
        split <;> rfl
      · exact .refl s
    · rfl

/-! ### Failed attempts (R127, R128, R135, R136) -/

section
variable {o : Outstanding}

/-- A live request below its third attempt is sent again (R128). -/
theorem failAttempt_again (hlive : o.live = true) (hask : o.msg.isNotification = false)
    (hleft : o.attempt < 3) (s : State) : failAttempt i o s = s.modEngine i fun e => { e with
      out := some { o with attempt := o.attempt + 1, deadline := after s.time 25 } } := by
  rw [failAttempt, if_neg (by simp [hlive, hask]), if_pos (show o.attempt < Config.maxAttempts from hleft)]
  rfl

/-- An overtaken request or a notification ends, and the engine goes on (R135, R136). -/
theorem failAttempt_ends (h : o.live = false ∨ o.msg.isNotification = true) (hprobe : o.msg ≠ .probe)
    (s : State) : failAttempt i o s =
      s.modEngine i fun e => ({ e with out := none } : Engine).serve s.time := by
  rw [failAttempt, if_pos (by rcases h with h | h <;> simp [h]), afterRequest, if_neg hprobe]
  exact modEngine_modEngine ..

theorem frameTaken_none {f : List Byte} (h : (s.engine i).out = none) : frameTaken i f s = s := by
  simp only [frameTaken, h]

theorem frameTaken_fails {f : List Byte} (h : (s.engine i).out = some o)
    (hf : judgeReply o.msg o.seq f = none) : frameTaken i f s = failAttempt i o s := by
  simp only [frameTaken, h, hf]

theorem frameTaken_reply {f : List Byte} {r : Reply} (h : (s.engine i).out = some o)
    (hf : judgeReply o.msg o.seq f = some r) : frameTaken i f s = takeReply i o r s := by
  simp only [frameTaken, h, hf]

theorem replyExpired_none (h : (s.engine i).out = none) : replyExpired i s = s := by
  simp only [replyExpired, h]

theorem replyExpired_some (h : (s.engine i).out = some o) : replyExpired i s =
    if reached s.time o.deadline then failAttempt i o s else s := by
  simp only [replyExpired, h]

/-- The two commands by which an attempt fails fail it. -/
theorem exec_failAttempt {f : List Byte} {c : Instr} (hl : s.Live) (ho : (s.engine i).out = some o)
    (hc : c = .frameArrival i f ∧ judgeReply o.msg o.seq f = none
      ∨ c = .replyDeadlineExpiry i ∧ reached s.time o.deadline = true)
    (hfail : Unseen s (failAttempt i o s)) : exec c s = .next (failAttempt i o s) := by
  obtain ⟨rfl, hf⟩ | ⟨rfl, hd⟩ := hc
  · have act := frameTaken_fails ho hf
    exact congrArg Host.Outcome.next (act ▸ liveEvent_unseen hl (act ▸ hfail))
  · have act : replyExpired i s = failAttempt i o s := by rw [replyExpired_some ho, if_pos hd]
    exact congrArg Host.Outcome.next (act ▸ liveEvent_unseen hl (act ▸ hfail))

end

/-- Settles O49. -/
theorem failedAttempts : Obligations.FailedAttempts := by
  intro s i f hl
  refine ⟨fun hnone => ⟨congrArg Host.Outcome.next (liveEvent_nothing hl (frameTaken_none hnone)),
    congrArg Host.Outcome.next (liveEvent_nothing hl (replyExpired_none hnone))⟩, fun o ho => ⟨fun hd => ?_,
    fun c hc => ⟨fun hlive hask hleft => ?_, fun h hprobe => ?_⟩⟩⟩
  · have stands : replyExpired i s = s := by
      rw [replyExpired_some ho, hd, if_neg Bool.noConfusion]
    exact congrArg Host.Outcome.next (liveEvent_nothing hl stands)
  · have act := failAttempt_again (i := i) hlive hask hleft s
    rw [exec_failAttempt hl ho hc (act ▸ unseen_modEngine rfl), act]
  · have act := failAttempt_ends (i := i) h hprobe s
    rw [exec_failAttempt hl ho hc (act ▸ unseen_modEngine (serve_link ..)), act]

/-! ### Deadlines that change one field -/

/-- An event that changes no record and writes the shelf record adds one to the shelf revision (R183). -/
theorem closeEvent_shelf (hc : s.changed = []) (hd : s.shelfDirty = true) (hb : s.broughtBy = none) :
    closeEvent s = { s with shelfRevision := s.shelfRevision + 1, shelfDirty := false } := by
  have records : allSlots.foldl closeRecord s = s :=
    List.foldlRecOn (motive := (· = s)) _ _ rfl fun t ht j _ => by
      rw [ht, closeRecord, if_neg (by simp [hc])]
  unfold closeEvent closeShelf
  rw [records, if_pos hd]
  cases s
  subst hc hb
  rfl

theorem ageHistory_same_iff (now : Time) (h : List Time) :
    ageHistory now h = h ↔ ∀ e ∈ h, (now - e).toNat < 2147483648 := by
  rw [ageHistory, List.filter_eq_self]
  exact forall₂_congr fun e _ => decide_eq_true_iff

/-- The shelf record is written when an entry of the history has reached its age (R82). -/
theorem event_historyAged (hl : s.Live) (h : ageHistory s.time s.history ≠ s.history) :
    liveEvent historyAged s = { s with
      history := ageHistory s.time s.history, shelfRevision := s.shelfRevision + 1 } := by
  obtain ⟨⟨hwork, hlate, hshelf, hchanged, hbrought⟩, hheld⟩ := hl
  have act : unlessHeld historyAged s = ({ s with history := ageHistory s.time s.history } : State).touchShelf := by
    rw [unlessHeld_live s _ hheld]
    exact if_neg h
  have noted : noteRecords s ({ s with history := ageHistory s.time s.history } : State).touchShelf =
      ({ s with history := ageHistory s.time s.history } : State).touchShelf :=
    noteRecords_same s _ rfl hchanged fun _ => rfl
  rw [liveEvent, event_idle s _ (act ▸ hwork) (act ▸ hlate), act, noted]
  refine Eq.trans (closeEvent_shelf ?_ ?_ ?_) ?_
  · exact hchanged
  · rfl
  · exact hbrought
  cases s
  subst hshelf
  rfl

/-- What a live event does whose act is `u` and brings no work: the records that changed are written. -/
theorem liveEvent_quiet {act : State → State} {u : State} (hl : s.Live) (hact : act s = u)
    (hn : u.work.length + u.late.length ≤ Config.workBound) (hjobs : ∀ w ∈ u.work, w.job.Idle u)
    (htests : ∀ t ∈ u.late, LateIdle u t.slot) :
    ∃ l b, (∀ i, i ∈ l ↔ u.recordView i ≠ s.recordView i) ∧ liveEvent act s = u.ended l b := by
  have live : unlessHeld act s = u := (unlessHeld_live s act hl.held).trans hact
  obtain ⟨l, b, hmem, he⟩ := event_quiet hl.toReady hn hjobs htests
  refine ⟨l, b, hmem, ?_⟩
  rw [← he, liveEvent, event, live]
  rfl

/-- Every slot but `i` is as before when the act leaves it. -/
theorem ended_otherSlots {u : State} (l : List SlotId) (b : Option Word16)
    (h : ∀ j, j ≠ i → u.slot j = s.slot j) : OtherSlots i s (u.ended l b) := by
  intro j hj
  rw [(ended_reads u l b).1, h j hj]
  exact Slot.written_like _ _

theorem ended_power (u : State) (l : List SlotId) (b : Option Word16) : (u.ended l b).power = u.power := by
  simp

/-- A minute is counted and the next one set (R96). -/
theorem minuteExpired_due (h : due s.time (s.pwr i).minute = true) : minuteExpired i s =
    (s.modPower i fun p => { p with minute := some (after s.time 60000) }).modSlot i fun x =>
      { x with minutes := min 65535 (x.minutes + 1) } :=
  if_pos h

/-- Settles O46. -/
theorem simpleDeadlines : Obligations.SimpleDeadlines := by
  intro s i hl
  refine ⟨?_, ?_, ?_, fun h => ?_, fun h => ?_, fun h => ?_, fun h => ?_, fun b h => ?_, fun h => ?_⟩
  · refine congrArg Host.Outcome.next (liveEvent_unseen hl ?_)
    unfold resetHoldExpired
    split
    · exact unseen_modPower rfl rfl
    · exact .refl s
  · refine congrArg Host.Outcome.next (liveEvent_unseen (act := horizonExpired i .on) hl ?_)
    dsimp only [horizonExpired]
    split
    · exact unseen_modPower rfl rfl
    · exact .refl s
  · refine congrArg Host.Outcome.next (liveEvent_unseen (act := horizonExpired i .off) hl ?_)
    dsimp only [horizonExpired]
    split
    · exact unseen_modPower rfl rfl
    · exact .refl s
  · exact congrArg Host.Outcome.next (liveEvent_nothing hl (if_neg (by simp [h])))
  · obtain ⟨hwork, hlate, hshelf, hchanged, hbrought⟩ := hl.toReady
    have act := minuteExpired_due h
    obtain ⟨l, b, -, he⟩ := liveEvent_quiet hl act (by simp [hwork, hlate]) (by simp [hwork]) (by simp [hlate])
    refine ⟨_, congrArg Host.Outcome.next he, ?_, ?_, ?_, ended_otherSlots l b fun j hj => ?_⟩
    · rw [(ended_reads _ l b).1, modSlot_slot_self]
      exact Slot.written_like _ _
    · simp
    · refine (ended_eq _ l b ?_).trans ?_
      · exact hshelf
      rw [ended_power]
      cases s
      subst hwork hlate hchanged hbrought
      rfl
    · simp [hj]
  · exact congrArg Host.Outcome.next (liveEvent_nothing hl (if_pos ((ageHistory_same_iff ..).mpr h)))
  · refine congrArg Host.Outcome.next (event_historyAged hl fun hsame => ?_)
    obtain ⟨e, he, hold⟩ := h
    have young := (ageHistory_same_iff ..).mp hsame e he
    omega
  · have act : blinkExpired i s = if reached s.time b.deadline
        then s.modSlot i fun x => { x with blink := some ⟨!b.lit, after s.time 500⟩ } else s := by
      simp only [blinkExpired, h]
      rfl
    refine congrArg Host.Outcome.next ((liveEvent_unseen hl ?_).trans act)
    rw [act]
    split
    · exact unseen_modSlot_blink _
    · exact .refl s
  · have act : blinkExpired i s = s := by simp only [blinkExpired, h]
    exact congrArg Host.Outcome.next (liveEvent_nothing hl act)

end Sys2Proof.Machine

/-! Debounced inputs: what the tick queues for a raw level that has stood, and what a contact (R3, R5), the
handle (R4, R27) and a feed (R76, R77) change. -/

namespace Sys2Proof.Machine

variable {s : State} {i : SlotId}

/-! ### What the tick queues -/

theorem mem_dueWhen {b : Bool} {c x : Instr} : x ∈ dueWhen b c ↔ b = true ∧ x = c := by
  unfold dueWhen
  split
  · next h => simp [h]
  · next h => simp [h]

/-- A command that the tick queues for one of the groups of inputs and deadlines. -/
theorem mem_dueCommands (h : s.held = false) {x : Instr} : x ∈ dueCommands s ↔
    (ageHistory s.time s.history ≠ s.history ∧ x = .historyEntryAge) ∨ x ∈ dueFeeds s
    ∨ (∃ j, x ∈ dueSlot s j) ∨ (∃ e ∈ s.alloc.queue, due s.time e.deadline = true ∧ .waitDeadlineExpiry e.slot = x)
    ∨ (due s.time s.alloc.reexam = true ∧ x = .reexaminationExpiry) ∨ (∃ p, x ∈ duePort s p)
    ∨ x ∈ dueTakes s := by
  have slots : ∀ j : SlotId, j ∈ allSlots := by decide
  have ports : ∀ p : PortId, p ∈ allPorts := by
    rintro ⟨n, h⟩
    revert n h
    decide
  unfold dueCommands
  rw [if_neg (by simp [h])]
  simp only [List.mem_append, mem_dueWhen, List.mem_flatMap, List.mem_map, List.mem_filter, or_assoc,
    decide_eq_true_iff, and_assoc, slots, ports, true_and]

theorem takeCommand_ne_debounce (k : Option OrderKind) :
    (∀ j c r, takeCommand k ≠ .contactDebounce j c r) ∧ (∀ j r, takeCommand k ≠ .handleDebounce j r)
    ∧ ∀ x r, takeCommand k ≠ .feedDebounce x r := by
  rcases k with _ | k
  · exact ⟨nofun, nofun, nofun⟩
  · cases k <;> exact ⟨nofun, nofun, nofun⟩

theorem mem_dueTakes {x : Instr} (h : x ∈ dueTakes s) : ∃ k, takeCommand k = x := by
  unfold dueTakes at h
  split at h
  · obtain ⟨c, -, hc⟩ := List.mem_map.mp h
    exact ⟨_, hc⟩
  · exact absurd h List.not_mem_nil

theorem mem_duePort {p : PortId} {x : Instr} (h : x ∈ duePort s p) :
    x = .offerDeadlineExpiry p ∨ x = .drainDeadlineExpiry p := by
  obtain ⟨-, rfl⟩ := mem_dueWhen.mp h
  split
  · exact .inl rfl
  · exact .inr rfl

/-- A contact's command is queued for a raw level that differs and has stood (R3, log 18). -/
theorem contactDebounce_mem_due (h : s.held = false) (c : Contact) (b : Bool) :
    .contactDebounce i c ⟨b, true⟩ ∈ dueCommands s ↔
      b = SlotPins.contact c (s.pinsOf i) ∧ b ≠ (match c with
        | .long => (s.slot i).long
        | .short => (s.slot i).short)
      ∧ reached s.time (after (match c with
        | .long => (s.timesOf i).long
        | .short => (s.timesOf i).short) 5) = true := by
  have takes : Instr.contactDebounce i c ⟨b, true⟩ ∉ dueTakes s := fun hm =>
    have ⟨k, hk⟩ := mem_dueTakes hm
    (takeCommand_ne_debounce k).1 _ _ _ hk
  have ports : ¬ ∃ p, Instr.contactDebounce i c ⟨b, true⟩ ∈ duePort s p := fun ⟨p, hp⟩ => by
    rcases mem_duePort hp with h | h <;> cases h
  rw [mem_dueCommands h]
  simp only [takes, ports, or_false, reduceCtorEq, and_false, false_or, exists_false, dueFeeds, dueSlot,
    dueInputs, List.mem_append, mem_dueWhen, Instr.contactDebounce.injEq, RawInput.mk.injEq, and_true,
    Bool.and_eq_true, decide_eq_true_iff]
  cases c
  · simp only [true_and, reduceCtorEq, false_and, and_false, or_false]
    constructor
    · rintro ⟨j, ⟨hne, hdue⟩, rfl, rfl⟩
      exact ⟨rfl, hne, hdue⟩
    · rintro ⟨rfl, hne, hdue⟩
      exact ⟨i, ⟨hne, hdue⟩, rfl, rfl⟩
  · simp only [true_and, reduceCtorEq, false_and, and_false, false_or]
    constructor
    · rintro ⟨j, ⟨hne, hdue⟩, rfl, rfl⟩
      exact ⟨rfl, hne, hdue⟩
    · rintro ⟨rfl, hne, hdue⟩
      exact ⟨i, ⟨hne, hdue⟩, rfl, rfl⟩

/-- The handle's command is queued for a raw level that differs and has stood (R4, log 18). -/
theorem handleDebounce_mem_due (h : s.held = false) (b : Bool) :
    .handleDebounce i ⟨b, true⟩ ∈ dueCommands s ↔
      b = (s.pinsOf i).handleOpen ∧ b ≠ (s.slot i).handleOpen
      ∧ reached s.time (after (s.timesOf i).handle 20) = true := by
  have takes : Instr.handleDebounce i ⟨b, true⟩ ∉ dueTakes s := fun hm =>
    have ⟨k, hk⟩ := mem_dueTakes hm
    (takeCommand_ne_debounce k).2.1 _ _ hk
  have ports : ¬ ∃ p, Instr.handleDebounce i ⟨b, true⟩ ∈ duePort s p := fun ⟨p, hp⟩ => by
    rcases mem_duePort hp with h | h <;> cases h
  rw [mem_dueCommands h]
  simp only [takes, ports, or_false, reduceCtorEq, and_false, false_or, exists_false, dueFeeds, dueSlot,
    dueInputs, List.mem_append, mem_dueWhen, Instr.handleDebounce.injEq, RawInput.mk.injEq, and_true,
    Bool.and_eq_true, decide_eq_true_iff]
  constructor
  · rintro ⟨j, ⟨hne, hdue⟩, rfl, rfl⟩
    exact ⟨rfl, hne, hdue⟩
  · rintro ⟨rfl, hne, hdue⟩
    exact ⟨i, ⟨hne, hdue⟩, rfl, rfl⟩

/-- A feed's command is queued for a measurement that differs and has stood (R76, log 18). -/
theorem feedDebounce_mem_due (h : s.held = false) (b : Bool) :
    (.feedDebounce .a ⟨b, true⟩ ∈ dueCommands s ↔ b = s.feedALow ∧ b ≠ s.alloc.feedALost
      ∧ reached s.time (after s.debounceFrom.feedA 10) = true)
    ∧ (.feedDebounce .b ⟨b, true⟩ ∈ dueCommands s ↔ b = s.feedBLow ∧ b ≠ s.alloc.feedBLost
      ∧ reached s.time (after s.debounceFrom.feedB 10) = true) := by
  have takes : ∀ x, Instr.feedDebounce x ⟨b, true⟩ ∉ dueTakes s := fun x hm =>
    have ⟨k, hk⟩ := mem_dueTakes hm
    (takeCommand_ne_debounce k).2.2 _ _ hk
  have ports : ∀ x, ¬ ∃ p, Instr.feedDebounce x ⟨b, true⟩ ∈ duePort s p := fun x ⟨p, hp⟩ => by
    rcases mem_duePort hp with h | h <;> cases h
  rw [mem_dueCommands h, mem_dueCommands h]
  simp only [takes, ports, or_false, reduceCtorEq, and_false, false_or, exists_false, dueFeeds, dueSlot,
    dueInputs, List.mem_append, mem_dueWhen, Instr.feedDebounce.injEq, RawInput.mk.injEq, and_true,
    Bool.and_eq_true, decide_eq_true_iff, true_and, false_and]
  constructor
  · constructor
    · rintro ⟨⟨hne, hdue⟩, rfl⟩
      exact ⟨rfl, hne, hdue⟩
    · rintro ⟨rfl, hne, hdue⟩
      exact ⟨⟨hne, hdue⟩, rfl⟩
  · constructor
    · rintro ⟨⟨hne, hdue⟩, rfl⟩
      exact ⟨rfl, hne, hdue⟩
    · rintro ⟨rfl, hne, hdue⟩
      exact ⟨⟨hne, hdue⟩, rfl⟩

/-- What a step on an empty queue adds to it, with the RESET line released. -/
theorem step_queues (hp : s.pending = []) (hh : s.held = false) (hr : s.resetLine = none) :
    ∃ t, step s = .next t ∧ t.pending = dueCommands { s with time := s.time + 1 } := by
  refine ⟨_, step_idle hp, ?_⟩
  have released : ({ s with
      time := s.time + 1
      held := s.held || due (s.time + 1) (s.resetLine.map fun since => after since 1) } : State) =
      { s with time := s.time + 1 } := by
    rw [hr]
    cases s
    subst hh
    rfl
  rw [tick_eq]
  dsimp only
  rw [released, hp, List.nil_append]

/-! ### Contacts (R3, R5) -/

theorem live_modPins (hl : s.Live) (g : SlotPins → SlotPins) : (s.modPins i g).Live :=
  ⟨ready_modPins hl.toReady i g, hl.held⟩

theorem live_measureFeed (hl : s.Live) (x : Feed) (b : Bool) : (s.measureFeed x b).Live := by
  refine ⟨ready_measureFeed hl.toReady x b, ?_⟩
  cases x <;> exact hl.held

theorem Slot.presence_congr {x y : Slot} (hlong : x.long = y.long) (hshort : x.short = y.short) :
    x.presence = y.presence := by
  unfold Slot.presence
  rw [hlong, hshort]

/-- A slot with a contact's debounced level taken. -/
abbrev State.contacted (s : State) (i : SlotId) (c : Contact) (made : Bool) : State :=
  (s.modPins i (SlotPins.setContact c made)).modSlot i (Slot.setContact c made)

theorem setContact_state (c : Contact) (made : Bool) (x : Slot) : (x.setContact c made).state = x.state := by
  cases c <;> rfl

theorem setContact_gen (c : Contact) (made : Bool) (x : Slot) : (x.setContact c made).gen = x.gen := by
  cases c <;> rfl

/-- A presence arrival in VACANT is the move to SEATING with the settle deadline (R5). -/
theorem arrival_vacant (h : (s.slot i).state = .vacant) :
    arrival i s = (changeStateOwn i .seating .seated s).modSlot i fun x =>
      { x with settle := some (after s.time 200) } := if_pos h

theorem contactTaken_arrives {c : Contact} {made : Bool}
    (hnew : ((s.slot i).setContact c made).presence = .both) (hold : (s.slot i).presence ≠ .both) :
    contactTaken i c made s = arrival i (s.modSlot i (Slot.setContact c made)) := by
  unfold contactTaken presenceChange
  dsimp only
  rw [modSlot_slot_self, if_pos ⟨hnew, hold⟩]

/-- A change that is no arrival and no loss changes the debounced level alone (R3). -/
theorem contactTaken_stays {c : Contact} {made : Bool}
    (harrival : ((s.slot i).setContact c made).presence = .both →
      (s.slot i).presence = .both ∨ (s.slot i).state ≠ .vacant)
    (hloss : (s.slot i).presence = .both →
      ((s.slot i).setContact c made).presence = .both ∨ (s.slot i).state = .vacant) :
    contactTaken i c made s = s.modSlot i (Slot.setContact c made) := by
  unfold contactTaken presenceChange
  dsimp only
  rw [modSlot_slot_self, setContact_state]
  split
  · next h =>
    have hstate := (harrival h.1).resolve_left h.2
    rw [arrival, if_neg (by rwa [modSlot_slot_self, setContact_state])]
  · rw [if_neg fun h => h.2.2 ((hloss h.1).resolve_left h.2.1)]

theorem exec_contact_held (c : Contact) (made : Bool) : exec (.contactDebounce i c ⟨made, true⟩) s =
    .next (liveEvent (contactTaken i c made) (s.modPins i (SlotPins.setContact c made))) := rfl

theorem rawContact_times (c : Contact) (made : Bool) (s : State) :
    let same := SlotPins.contact c (s.pinsOf i) = made
    (rawContact i c made s).timesOf i =
      (if same then s.timesOf i else InputTimes.setContact c s.time (s.timesOf i))
    ∧ (∀ j, j ≠ i → (rawContact i c made s).timesOf j = s.timesOf j)
    ∧ (rawContact i c made s).debounceFrom.feedA = s.debounceFrom.feedA
    ∧ (rawContact i c made s).debounceFrom.feedB = s.debounceFrom.feedB := by
  intro same
  unfold rawContact
  by_cases h : SlotPins.contact c (s.pinsOf i) = made
  · rw [if_pos h]
    exact ⟨(if_pos h).symm, fun _ _ => rfl, rfl, rfl⟩
  · rw [if_neg h]
    refine ⟨?_, fun j hj => ?_, rfl, rfl⟩
    · rw [modTimes_timesOf_self, if_neg h]
      rfl
    · rw [modTimes_timesOf_ne _ _ _ _ hj]
      rfl

/-- Settles O34. -/
theorem contactChanges : Obligations.ContactChanges := by
  refine ⟨fun s i c made hl => ?_, fun s i c made => ?_, fun s i b hp hh hr => ?_⟩
  · intro x
    have hl' : (s.modPins i (SlotPins.setContact c made)).Live := live_modPins hl _
    obtain ⟨hwork, hlate, -, -, -⟩ := hl.toReady
    refine ⟨fun hnew hold hvacant => ?_, fun harrival hloss => ?_⟩
    · have hstate : ((s.contacted i c made).slot i).state = .vacant := by
        rw [modSlot_slot_self, setContact_state]
        exact hvacant
      have act := (contactTaken_arrives (s := s.modPins i (SlotPins.setContact c made)) hnew hold).trans
        (arrival_vacant hstate)
      obtain ⟨l, b, -, he⟩ := liveEvent_quiet hl' act (by simp [hwork, hlate]) (by simp [hwork])
        (by simp [hlate])
      refine ⟨_, congrArg Host.Outcome.next he, ?_, ?_, ?_, ?_, ?_, ?_, ?_, ended_otherSlots l b fun j hj => by simp [hj],
        ⟨?_, ?_⟩, ?_, ?_, ?_, fun j hj => by simp [hj]⟩
      · simp [Slot.enter]
      · simp [Slot.enter, setContact_state, hvacant]
      · simp [Slot.enter]
      · simp [Slot.enter, setContact_gen]
      · refine Eq.trans (Slot.presence_congr ?_ ?_) hnew
        · simp [Slot.enter]
          rfl
        · simp [Slot.enter]
          rfl
      all_goals simp
    · have act := contactTaken_stays (s := s.modPins i (SlotPins.setContact c made)) harrival hloss
      obtain ⟨l, b, -, he⟩ := liveEvent_quiet hl' act (by simp [hwork, hlate]) (by simp [hwork])
        (by simp [hlate])
      refine ⟨_, congrArg Host.Outcome.next he, ?_, ?_, ended_otherSlots l b fun j hj => by simp [hj],
        ⟨?_, ?_⟩, ?_, ?_, ?_, ?_, ?_⟩
      · rw [(ended_reads _ l b).1, modSlot_slot_self]
        exact Slot.written_like _ _
      all_goals simp
  · exact ⟨_, rfl, rawContact_eq i c made s, rawContact_times c made s⟩
  · obtain ⟨t, ht, hpending⟩ := step_queues hp hh hr
    refine ⟨t, ht, ?_⟩
    rw [hpending]
    exact ⟨contactDebounce_mem_due (s := { s with time := s.time + 1 }) hh .long b,
      contactDebounce_mem_due (s := { s with time := s.time + 1 }) hh .short b⟩

/-! ### The handle (R4, R27) -/

/-- A handle request acts or not by its slot, the other hub's state and the ports (R28, R123). -/
theorem handleActs_congr {t : State} (hi : t.slot i = s.slot i)
    (hother : (t.slot (otherHub i)).state = (s.slot (otherHub i)).state) (hports : t.ports = s.ports) :
    t.handleActs i = s.handleActs i := by
  have kind : t.activeKind i = s.activeKind i := by simp only [State.activeKind, hi]
  have guard : t.guardRefuses i = s.guardRefuses i := by
    simp only [State.guardRefuses, hother, portOf_congr hports]
  simp only [State.handleActs, hi, kind, guard]

/-- A slot whose handle's debounced level is taken, its request latched or not. -/
def State.handled (s : State) (i : SlotId) (isOpen latched : Bool) : State :=
  (s.modPins i fun p => { p with handleOpen := isOpen }).modSlot i fun x =>
    { x with handleOpen := isOpen, latch := latched }

theorem modSlot_modSlot (f g : Slot → Slot) (s : State) :
    (s.modSlot i f).modSlot i g = s.modSlot i fun x => g (f x) := by
  simp [State.modSlot, State.slot]

theorem handled_slot_self (isOpen latched : Bool) : (s.handled i isOpen latched).slot i =
    { s.slot i with handleOpen := isOpen, latch := latched } := by
  rw [State.handled, modSlot_slot_self]
  rfl

theorem handled_slot_ne {j : SlotId} (hj : j ≠ i) (isOpen latched : Bool) :
    (s.handled i isOpen latched).slot j = s.slot j := by
  rw [State.handled, modSlot_slot_ne _ _ _ _ hj]
  rfl

/-- In VACANT and SEATING, and for the level already held, the handle field alone changes (R5, R27). -/
theorem handleTaken_silent {isOpen : Bool} (h : (s.slot i).state = .vacant ∨ (s.slot i).state = .seating
    ∨ (s.slot i).handleOpen = isOpen) :
    handleTaken i isOpen (s.modPins i fun p => { p with handleOpen := isOpen }) =
      s.handled i isOpen (s.slot i).latch := by
  have stays : (s.slot i).handleOpen = isOpen ∨ (s.slot i).state = .vacant ∨ (s.slot i).state = .seating :=
    (or_assoc.mpr h).symm
  have slot : s.handled i isOpen (s.slot i).latch =
      (s.modPins i fun p => { p with handleOpen := isOpen }).modSlot i fun x =>
        { x with handleOpen := isOpen } := rfl
  rw [slot]
  exact if_pos stays

/-- Else the request is latched or cleared, with a notice, and a request that is latched is tested (R27). -/
theorem handleTaken_speaks {isOpen : Bool} (h : ¬ ((s.slot i).state = .vacant ∨ (s.slot i).state = .seating
    ∨ (s.slot i).handleOpen = isOpen)) :
    let u := s.handled i isOpen isOpen
    let detail := if isOpen then .opened else if (s.slot i).latch then .retracted else .closed
    handleTaken i isOpen (s.modPins i fun p => { p with handleOpen := isOpen }) =
      (handNotice (slotNotice u i (.handle detail) (u.activeTag i)) u).raise
        (if isOpen then [.handle i] else []) := by
  intro u detail
  have speaks : ¬ ((s.slot i).handleOpen = isOpen ∨ (s.slot i).state = .vacant ∨ (s.slot i).state = .seating) :=
    fun hn => h (or_assoc.mp hn.symm)
  refine (if_neg speaks).trans ?_
  cases isOpen
  · rw [if_neg Bool.noConfusion, handleClosed, modSlot_modSlot, modSlot_slot_self]
    exact (raise_nil _).symm
  · rw [if_pos rfl, handleOpened, modSlot_modSlot]
    rfl

theorem exec_handle_held (isOpen : Bool) : exec (.handleDebounce i ⟨isOpen, true⟩) s =
    .next (liveEvent (handleTaken i isOpen) (s.modPins i fun p => { p with handleOpen := isOpen })) := rfl

theorem rawHandle_times (isOpen : Bool) (s : State) :
    (rawHandle i isOpen s).timesOf i = { s.timesOf i with
      handle := if (s.pinsOf i).handleOpen = isOpen then (s.timesOf i).handle else s.time }
    ∧ (∀ j, j ≠ i → (rawHandle i isOpen s).timesOf j = s.timesOf j)
    ∧ (rawHandle i isOpen s).debounceFrom.feedA = s.debounceFrom.feedA
    ∧ (rawHandle i isOpen s).debounceFrom.feedB = s.debounceFrom.feedB := by
  unfold rawHandle
  by_cases h : (s.pinsOf i).handleOpen = isOpen
  · rw [if_pos h, if_pos h]
    exact ⟨rfl, fun _ _ => rfl, rfl, rfl⟩
  · rw [if_neg h, if_neg h]
    refine ⟨?_, fun j hj => ?_, rfl, rfl⟩
    · rw [modTimes_timesOf_self]
      rfl
    · rw [modTimes_timesOf_ne _ _ _ _ hj]
      rfl

section
variable (s) (isOpen latched : Bool)

/-- The handle's level and the request change nothing but the slot and the raw level. -/
@[simp] theorem handled_frame :
    (s.handled i isOpen latched).pins = (s.modPins i fun p => { p with handleOpen := isOpen }).pins
    ∧ (s.handled i isOpen latched).time = s.time ∧ (s.handled i isOpen latched).cells = s.cells
    ∧ (s.handled i isOpen latched).mem = s.mem ∧ (s.handled i isOpen latched).alloc = s.alloc
    ∧ (s.handled i isOpen latched).power = s.power ∧ (s.handled i isOpen latched).ports = s.ports
    ∧ (s.handled i isOpen latched).engines = s.engines ∧ (s.handled i isOpen latched).journal = s.journal
    ∧ (s.handled i isOpen latched).port = s.port ∧ (s.handled i isOpen latched).work = s.work
    ∧ (s.handled i isOpen latched).late = s.late :=
  ⟨rfl, rfl, rfl, rfl, rfl, rfl, rfl, rfl, rfl, rfl, rfl, rfl⟩

/-- The notice of the handle shows the slot as it was before. -/
theorem handled_notice (body : NoticeBody) :
    slotNotice (s.handled i isOpen latched) i body ((s.handled i isOpen latched).activeTag i) =
      slotNotice s i body (s.activeTag i) := by
  have slot := handled_slot_self (s := s) (i := i) isOpen latched
  have tag : (s.handled i isOpen latched).activeTag i = s.activeTag i :=
    activeTag_congr (s := s) (by rw [slot]) (by rw [slot]) rfl
  rw [tag]
  refine slotNotice_congr ?_ ?_ ?_ ?_ _ _
  · rfl
  all_goals rw [slot]

end

/-- Settles O36. -/
theorem handleChanges : Obligations.HandleChanges := by
  refine ⟨?_, fun s i isOpen => ?_, fun s i b hp hh hr => ?_⟩
  · intro s i isOpen hl silent x hquiet
    have hl' : (s.modPins i fun p => { p with handleOpen := isOpen }).Live := live_modPins hl _
    obtain ⟨hwork, hlate, -, -, -⟩ := hl.toReady
    by_cases hs : silent
    · obtain ⟨l, b, -, he⟩ := liveEvent_quiet hl' (handleTaken_silent hs) (by simp [hwork, hlate])
        (by simp [hwork]) (by simp [hlate])
      have hx : (s.handled i isOpen (s.slot i).latch).slot i = x := by
        simp only [handled_slot_self, x, if_pos hs]
      refine ⟨_, congrArg Host.Outcome.next he, ?_, ?_, fun _ => ?_, fun h => absurd hs h,
        ended_otherSlots l b fun j hj => handled_slot_ne hj .., ⟨?_, ?_⟩, ?_, ?_, ?_, ?_⟩
      · rw [(ended_reads _ l b).1, hx]
        exact Slot.written_like _ _
      all_goals simp
    · let n := slotNotice s i (.handle (if isOpen then .opened else if (s.slot i).latch then .retracted
        else .closed)) (s.activeTag i)
      have act : handleTaken i isOpen (s.modPins i fun p => { p with handleOpen := isOpen }) =
          (handNotice n (s.handled i isOpen isOpen)).raise (if isOpen then [.handle i] else []) :=
        (handleTaken_speaks hs).trans (by rw [handled_notice])
      have hx : (s.handled i isOpen isOpen).slot i = x := by
        simp only [handled_slot_self, x, if_neg hs]
      have idle : Job.Idle ((handNotice n (s.handled i isOpen isOpen)).raise
          (if isOpen then [.handle i] else [])) (.handle i) := by
        refine (handleActs_congr ?_ ?_ ?_).trans (hquiet.resolve_left hs)
        · simp [hx]
        · by_cases ho : otherHub i = i
          · simp [ho, hx]
          · simp [handled_slot_ne ho, ho]
        · simp
      obtain ⟨l, b, -, he⟩ := liveEvent_quiet hl' act
        (by cases isOpen <;> simp [hwork, hlate, Config.workBound])
        (by
          cases isOpen
          · simp [hwork]
          · simpa [hwork] using idle)
        (by simp [hlate])
      refine ⟨_, congrArg Host.Outcome.next he, ?_, ?_, fun h => absurd h hs, fun _ hrun hroom hgap => ?_,
        ended_otherSlots l b fun j hj => ?_, ⟨?_, ?_⟩, ?_, ?_, ?_, ?_⟩
      · rw [(ended_reads _ l b).1, raise_slot, (handNotice_reads ..).1, hx]
        exact Slot.written_like _ _
      · simp
      · have written := handNotice_entry (s := s.handled i isOpen isOpen) n ⟨hrun, hroom, hgap⟩
        have journal : (State.ended ((handNotice n (s.handled i isOpen isOpen)).raise
            (if isOpen then [.handle i] else [])) l b).journal =
            (handNotice n (s.handled i isOpen isOpen)).journal := by simp
        rw [journal]
        exact written
      · simp [handled_slot_ne hj]
      all_goals simp
  · exact ⟨_, rfl, rawHandle_eq i isOpen s, rawHandle_times isOpen s⟩
  · obtain ⟨t, ht, hpending⟩ := step_queues hp hh hr
    refine ⟨t, ht, ?_⟩
    rw [hpending]
    exact handleDebounce_mem_due (s := { s with time := s.time + 1 }) hh b

/-! ### Feeds (R76, R77) -/

theorem slots_ext {t : State} (h : ∀ j, t.slot j = s.slot j) : t.slots = s.slots :=
  Vector.ext fun k hk => h ⟨k, hk⟩

/-- An event that changes no record leaves every slot as its act made it. -/
theorem ended_slots (u : State) {l : List SlotId} (b : Option Word16) (h : ∀ j, j ∉ l) :
    (u.ended l b).slots = u.slots :=
  slots_ext fun j => by
    rw [(ended_reads u l b).1, decide_eq_false (h j)]
    rfl

theorem ended_shelfRevision (u : State) (l : List SlotId) (b : Option Word16) :
    (u.ended l b).shelfRevision = if u.shelfDirty then u.shelfRevision + 1 else u.shelfRevision :=
  closeEvent_shelfRevision _

@[simp] theorem measureFeed_frame (x : Feed) (low : Bool) :
    (s.measureFeed x low).time = s.time ∧ (s.measureFeed x low).port = s.port
    ∧ (s.measureFeed x low).cells = s.cells ∧ (s.measureFeed x low).mem = s.mem
    ∧ (s.measureFeed x low).slots = s.slots ∧ (s.measureFeed x low).alloc = s.alloc
    ∧ (s.measureFeed x low).power = s.power ∧ (s.measureFeed x low).settings = s.settings
    ∧ (s.measureFeed x low).history = s.history ∧ (s.measureFeed x low).ports = s.ports
    ∧ (s.measureFeed x low).engines = s.engines ∧ (s.measureFeed x low).journal = s.journal
    ∧ (s.measureFeed x low).shelfRevision = s.shelfRevision ∧ (s.measureFeed x low).work = s.work
    ∧ (s.measureFeed x low).late = s.late := by
  cases x <;> exact ⟨rfl, rfl, rfl, rfl, rfl, rfl, rfl, rfl, rfl, rfl, rfl, rfl, rfl, rfl, rfl⟩

theorem setFeed_queue (x : Feed) (lost : Bool) (a : Allocator) : (a.setFeed x lost).queue = a.queue := by
  cases x <;> rfl

/-- The part after a feed's change has been noted, before the examination that a return to GOOD brings. -/
def State.feedSet (s : State) (x : Feed) (lost : Bool) : State :=
  (handNotice ⟨.feed x lost, none, s.time, 0, none, none, none⟩
    (s.modAlloc (Allocator.setFeed x lost)).touchShelf).latch .feed

theorem feedTaken_changes {x : Feed} {lost : Bool} (h : s.alloc.feedLost x ≠ lost) :
    feedTaken x lost s = (s.feedSet x lost).raise (if lost then [] else [.examine]) := by
  unfold feedTaken
  rw [if_neg h]
  cases lost
  · rfl
  · exact (raise_nil _).symm

theorem feedSet_frame (x : Feed) (lost : Bool) :
    (s.feedSet x lost).alloc = s.alloc.setFeed x lost ∧ (s.feedSet x lost).slots = s.slots
    ∧ (s.feedSet x lost).cells = s.cells ∧ (s.feedSet x lost).mem = s.mem
    ∧ (s.feedSet x lost).power = s.power ∧ (s.feedSet x lost).ports = s.ports
    ∧ (s.feedSet x lost).engines = s.engines ∧ (s.feedSet x lost).settings = s.settings
    ∧ (s.feedSet x lost).history = s.history ∧ (s.feedSet x lost).work = s.work
    ∧ (s.feedSet x lost).late = s.late ∧ (s.feedSet x lost).shelfDirty = true := by
  simp [State.feedSet]

/-- Settles O44. -/
theorem feedChanges : Obligations.FeedChanges := by
  refine ⟨fun s x lost hinv hl => ⟨fun h => ?_, fun h hq => ?_⟩, fun s b => ⟨?_, ?_⟩, fun s b hp hh hr => ?_⟩
  · refine congrArg Host.Outcome.next (liveEvent_nothing (live_measureFeed hl x lost) (if_pos ?_))
    cases x <;> exact h
  · let s1 := s.measureFeed x lost
    have hl1 : s1.Live := live_measureFeed hl x lost
    have act : feedTaken x lost s1 = (s1.feedSet x lost).raise (if lost then [] else [.examine]) :=
      feedTaken_changes (by cases x <;> exact h)
    have set := feedSet_frame (s := s1) x lost
    obtain ⟨hwork, hlate, -, -, -⟩ := hl1.toReady
    have idle : lost = false →
        Job.Idle ((s1.feedSet x lost).raise (if lost then [] else [.examine])) .examine := fun hgood => by
      show (s1.feedSet x lost).alloc.queue = []
      rw [set.1, setFeed_queue]
      cases x <;> exact hq.resolve_left (by simp [hgood])
    obtain ⟨l, b, hmem, he⟩ := liveEvent_quiet hl1 act
      (by cases lost <;> simp [set, hwork, hlate, Config.workBound])
      (by
        cases lost
        · simpa [set, hwork] using idle rfl
        · simp [set, hwork])
      (by simp [set, hlate])
    have unseen : ∀ j, j ∉ l := fun j hj => (hmem j).mp hj
      (recordView_congr (by simp [set]) (by simp [set]) (by simp [set]) (by simp [set]) j)
    refine ⟨_, congrArg Host.Outcome.next he, ?_, ?_, fun hrun hroom hgap => ?_, ?_, ⟨?_, ?_⟩, ?_, ?_, ?_,
      ?_, ?_⟩
    · simp [set, s1]
    · have bit : ∀ a : BitVec 6, (a ||| Attention.feed.mask) &&& Attention.feed.mask = Attention.feed.mask := by
        decide
      have latched : (s1.feedSet x lost).port.attention = _ := latch_attention ..
      simp only [ended_frame, raise_port, latched, bit]
    · have room : (s1.modAlloc (Allocator.setFeed x lost)).touchShelf.port.run = true
          ∧ (s1.modAlloc (Allocator.setFeed x lost)).touchShelf.journal.full = false
          ∧ (s1.modAlloc (Allocator.setFeed x lost)).touchShelf.journal.gapPending = false := by
        simp [s1, hrun, hroom, hgap]
      have journal : (State.ended ((s1.feedSet x lost).raise (if lost then [] else [.examine])) l b).journal =
          (handNotice ⟨.feed x lost, none, s1.time, 0, none, none, none⟩
            (s1.modAlloc (Allocator.setFeed x lost)).touchShelf).journal := by
        simp [State.feedSet]
      have revision : (s1.feedSet x lost).shelfRevision = s.shelfRevision := by
        rw [State.feedSet, latch_shelfRevision, handNotice_writes _ room]
        cases x <;> rfl
      obtain ⟨count, entry⟩ := handNotice_entry ⟨.feed x lost, none, s1.time, 0, none, none, none⟩ room
      rw [journal, ended_shelfRevision]
      refine ⟨by simpa [s1] using count, by simpa [s1] using entry, ?_⟩
      simp [set, revision]
    · rw [ended_slots _ _ unseen]
      simp [set, s1]
    all_goals simp [set, s1]
  · refine congrArg Host.Outcome.next ?_
    by_cases h : s.feedALow = b
    · simp [rawFeed, ← h]
    · simp [rawFeed, State.measureFeed, h]
  · refine congrArg Host.Outcome.next ?_
    by_cases h : s.feedBLow = b
    · simp [rawFeed, ← h]
    · simp [rawFeed, State.measureFeed, h]
  · obtain ⟨t, ht, hpending⟩ := step_queues hp hh hr
    refine ⟨t, ht, ?_⟩
    rw [hpending]
    exact feedDebounce_mem_due (s := { s with time := s.time + 1 }) hh b

end Sys2Proof.Machine

/-! The cells an event writes: what a finish shows in its cell and leaves of the others (R35, R46, R47), and
the immediate orders that change a flag, the policy or the waiting orders of a slot (R54 to R56). -/

namespace Sys2Proof.Machine

variable {s t u : State} {i : SlotId} {c d : CellId}

/-! ### Cells -/

theorem CellsKept.refl (s : State) : CellsKept s s := ⟨rfl, rfl⟩

theorem CellsKept.otherCells (h : CellsKept s t) (c : CellId) : OtherCells c s t :=
  ⟨fun _ _ => cell_congr h.1 _, fun _ _ => by rw [h.2]⟩

theorem OtherCells.trans (h : OtherCells c s t) (h' : OtherCells c t u) : OtherCells c s u :=
  ⟨fun d hd => (h'.1 d hd).trans (h.1 d hd), fun a ha => (h'.2 a ha).trans (h.2 a ha)⟩

/-- A cell that is not written keeps its state and its bytes. -/
theorem OtherCells.keeps (h : OtherCells c s t) (hd : d ≠ c) :
    t.cell d = s.cell d ∧ ∀ k, k < 128 → t.rd8 d k = s.rd8 d k := by
  refine ⟨h.1 d hd, fun k hk => h.2 _ ?_⟩
  have hval : d.val ≠ c.val := fun e => hd (Fin.ext e)
  simp only [cellOffset]
  omega

/-- The cell that is written keeps its fields before the results (R35). -/
theorem OtherCells.keeps_order (h : OtherCells c s t) {k : Nat} (hk : k < 0x1C) : t.rd8 c k = s.rd8 c k :=
  h.2 _ (.inl (by omega))

theorem rd16_congr {k : Nat} (h0 : t.rd8 d k = s.rd8 d k) (h1 : t.rd8 d (k + 1) = s.rd8 d (k + 1)) :
    t.rd16 d k = s.rd16 d k := by
  rw [State.rd16, State.rd16, h0, h1]

/-- What stands in a cell whose order has finished: its outcome, its fault, and its slot's state and
generation (R35, R46). -/
structure State.Finished (s : State) (c : CellId) (code fault state : Byte) (gen : Word16) : Prop where
  cell : s.cell c = .finished
  code : s.rd8 c 0x1C = code
  fault : s.rd8 c 0x1D = fault
  state : s.rd8 c 0x1E = state
  gen : s.rd16 c 0x28 = gen

section
variable {code fault state : Byte} {gen : Word16}

theorem State.Finished.of_kept (h : s.Finished c code fault state gen) (hcells : CellsKept s t) :
    t.Finished c code fault state gen := by
  have bytes : ∀ k, t.rd8 c k = s.rd8 c k := fun k => by rw [State.rd8, State.rd8, hcells.2]
  exact ⟨(cell_congr hcells.1 c).trans h.cell, (bytes _).trans h.code, (bytes _).trans h.fault,
    (bytes _).trans h.state, (rd16_congr (bytes _) (bytes _)).trans h.gen⟩

/-- Another cell's finish leaves what stands in a finished cell. -/
theorem State.Finished.of_other (h : s.Finished c code fault state gen) (hother : OtherCells d s t)
    (hne : c ≠ d) : t.Finished c code fault state gen := by
  obtain ⟨cell, bytes⟩ := hother.keeps hne
  exact ⟨cell.trans h.cell, (bytes _ (by omega)).trans h.code, (bytes _ (by omega)).trans h.fault,
    (bytes _ (by omega)).trans h.state, (rd16_congr (bytes _ (by omega)) (bytes _ (by omega))).trans h.gen⟩

end

/-- A finish shows its outcome, fault, and slot in its own cell (R46). -/
theorem finishCell_finished (hm : Memory.wf s.mem = true) (c : CellId) (i : SlotId) (o : OrderOutcome)
    (taken : Time) (fault : Option FaultCause) (data : List Byte) :
    (finishCell c i o taken fault data s).Finished c o.code (faultByte fault) (s.slot i).state.code
      (s.slot i).gen :=
  ⟨writeResult_cell_self .., writeResult_code _ _ _ hm, writeResult_fault _ _ _ hm,
    writeResult_state _ _ _ hm, writeResult_gen _ _ _ hm⟩

theorem finishCell_otherCells (hm : Memory.wf s.mem = true) (c : CellId) (i : SlotId) (o : OrderOutcome)
    (taken : Time) (fault : Option FaultCause) (data : List Byte) :
    OtherCells c s (finishCell c i o taken fault data s) :=
  writeResult_otherCells _ _ _ hm

theorem ended_cellsKept (u : State) (l : List SlotId) (b : Option Word16) : CellsKept u (u.ended l b) := by
  simp [CellsKept]

/-! ### The immediate orders on a slot -/

/-- An immediate order that brings no work finishes in an event that is its act. -/
theorem exec_take_quiet {k : OrderKind} {act : State} (ht : s.Takes c k)
    (hact : handleKind c k (s.pastCell c) = act) (hn : act.work.length + act.late.length ≤ Config.workBound)
    (hjobs : ∀ w ∈ act.work, w.job.Idle act) (htests : ∀ t ∈ act.late, LateIdle act t.slot) :
    ∃ l b, (∀ i, i ∈ l ↔ act.recordView i ≠ s.recordView i)
      ∧ exec (takeCommand (some k)) s = .next (act.ended l b) := by
  have hr : s.Ready := ht.toReady
  obtain ⟨l, b, hmem, he⟩ := event_quiet hr hn hjobs htests
  refine ⟨l, b, hmem, ?_⟩
  rw [exec_take_passes ht, hact, he]

/-- The state in which an immediate order of cell `c` acts. -/
def State.acting (s : State) (c : CellId) : State := (s.pastCell c).onBehalf c

theorem acting_modSlot (f : Slot → Slot) : (s.acting c).modSlot i f = (s.modSlot i f).acting c := rfl

theorem handleTest_idle (h : s.handleActs i = false) : handleTest i s = s :=
  if_neg (by simp [h])

/-- The outcome of HOLD, UNHOLD or SET-POLICY that make `x` of a slot (R55, R56). -/
def flagOutcome (k : OrderKind) (old x : Slot) : OrderOutcome :=
  if k ≠ .setPolicy ∧ x = old then .nothing else .done

theorem Slot.hold_eq_iff (x : Slot) (b : Bool) : { x with hold := b } = x ↔ x.hold = b := by
  refine ⟨fun h => (congrArg Slot.hold h).symm, fun h => ?_⟩
  cases x
  subst h
  rfl

theorem modSlot_same {f : Slot → Slot} (h : f (s.slot i) = s.slot i) : s.modSlot i f = s := by
  unfold State.modSlot State.slot at *
  rw [h]
  simp

/-- HOLD, UNHOLD and SET-POLICY, when no handle request then acts, change their part of the slot and finish
(R55, R56). -/
theorem handleKind_flag {k : OrderKind} {x : Slot} (hslot : s.cellSlot c = some i)
    (hx : k = .hold ∧ x = { s.slot i with hold := true }
      ∨ k = .unhold ∧ x = { s.slot i with hold := false }
      ∨ k = .setPolicy ∧ x = { s.slot i with policy := s.policyParam c })
    (hidle : (s.modSlot i fun _ => x).handleActs i = false) :
    handleKind c k (s.pastCell c) =
      finishCell c i (flagOutcome k (s.slot i) x) s.time none [] ((s.modSlot i fun _ => x).acting c) := by
  have hslot' : (s.pastCell c).cellSlot c = some i := hslot
  have idle := handleTest_idle (s := (s.modSlot i fun _ => x).acting c) hidle
  unfold handleKind
  rw [hslot']
  obtain ⟨rfl, rfl⟩ | ⟨rfl, rfl⟩ | ⟨rfl, rfl⟩ := hx
  · have code : flagOutcome .hold (s.slot i) { s.slot i with hold := true } =
        if (s.slot i).hold then .nothing else .done := by
      simp [flagOutcome, Slot.hold_eq_iff]
    rw [code]
    rfl
  · show actUnhold c i (s.acting c) = _
    have code : flagOutcome .unhold (s.slot i) { s.slot i with hold := false } =
        if (s.slot i).hold then .done else .nothing := by
      simp only [flagOutcome, Slot.hold_eq_iff]
      cases (s.slot i).hold <;> rfl
    rw [code]
    unfold actUnhold
    rw [show ((s.acting c).slot i).hold = (s.slot i).hold from rfl]
    cases hhold : (s.slot i).hold
    · have same : (s.modSlot i fun _ => { s.slot i with hold := false }) = s :=
        modSlot_same ((Slot.hold_eq_iff _ _).mpr hhold)
      rw [same]
      rfl
    · have stays : handleTest i ((s.acting c).modSlot i fun x => { x with hold := false }) =
          (s.modSlot i fun _ => { s.slot i with hold := false }).acting c := idle
      rw [if_pos rfl, if_pos rfl, stays]
      rfl
  · have code : flagOutcome .setPolicy (s.slot i) { s.slot i with policy := s.policyParam c } = .done := by
      simp [flagOutcome]
    rw [code]
    have stays : handleTest i ((s.acting c).modSlot i fun x => { x with policy := (s.acting c).policyParam c }) =
        (s.modSlot i fun _ => { s.slot i with policy := s.policyParam c }).acting c := idle
    show actSetPolicy c i (s.acting c) = _
    rw [actSetPolicy, stays]
    rfl

/-- Settles O31. -/
theorem holdAndPolicy : Obligations.HoldAndPolicy := by
  intro s c k i hinv ht x hx hidle
  obtain ⟨hwork, hlate, -, -, -⟩ := ht.toReady
  have act := handleKind_flag ht.slot hx hidle
  obtain ⟨l, b, -, he⟩ := exec_take_quiet ht.toTakes act (by simp [State.acting, State.pastCell, hwork, hlate])
    (by simp [State.acting, State.pastCell, hwork]) (by simp [State.acting, State.pastCell, hlate])
  have hself : ((s.modSlot i fun _ => x).acting c).slot i = x :=
    modSlot_slot_self s i fun _ => x
  have hgen : x.state = (s.slot i).state ∧ x.gen = (s.slot i).gen := by
    obtain ⟨-, rfl⟩ | ⟨-, rfl⟩ | ⟨-, rfl⟩ := hx <;> exact ⟨rfl, rfl⟩
  have done := (finishCell_finished (s := (s.modSlot i fun _ => x).acting c) hinv.mem c i
    (flagOutcome k (s.slot i) x) s.time none []).of_kept (ended_cellsKept _ l b)
  have others := (finishCell_otherCells (s := (s.modSlot i fun _ => x).acting c) hinv.mem c i
    (flagOutcome k (s.slot i) x) s.time none []).trans ((ended_cellsKept _ l b).otherCells c)
  refine ⟨_, he, done.cell, done.code.trans ?_, ?_, done.state.trans ?_, done.gen.trans ?_,
    ended_otherSlots l b fun j hj => ?_, others, ?_, ?_, ?_, ?_, ?_, ?_⟩
  · exact apply_ite OrderOutcome.code ..
  · rw [(ended_reads _ l b).1, (finishCell_reads ..).1, hself]
    exact Slot.written_like _ _
  · rw [hself, hgen.1]
  · rw [hself, hgen.2]
  · rw [(finishCell_reads ..).1]
    exact modSlot_slot_ne s i j (fun _ => x) hj
  all_goals simp [State.acting, State.pastCell]

end Sys2Proof.Machine

/-! Orders that leave a list several at a time (R47), and the withdrawal of a waiting admission: CANCEL (R54),
the wait deadline (R70) and the jobs that these bring. -/

namespace Sys2Proof.Machine

variable {s t u : State} {i : SlotId} {c d : CellId}

/-! ### The jobs an event brings -/

/-- The follow-up work of an event, without who brought it. -/
def State.jobs (s : State) : List Job := s.work.map Work.job

@[simp] theorem raise_jobs (js : List Job) (s : State) : (s.raise js).jobs = s.jobs ++ js := by
  simp [State.jobs, Function.comp_def]

theorem jobs_congr (h : t.work = s.work) : t.jobs = s.jobs := by rw [State.jobs, h, State.jobs]

theorem jobs_nil (h : s.work = []) : s.jobs = [] := by rw [State.jobs, h, List.map_nil]

theorem work_idle {js : List Job} (hjobs : u.jobs = js) (hidle : ∀ j ∈ js, j.Idle u) :
    ∀ w ∈ u.work, w.job.Idle u := fun _ hw =>
  hidle _ (hjobs ▸ List.mem_map_of_mem hw)

/-- A live event whose act is `u` and whose jobs do nothing. -/
theorem liveEvent_jobs {act : State → State} {js : List Job} (hl : s.Live) (hact : act s = u)
    (hjobs : u.jobs = js) (hlate : u.late = []) (hn : js.length ≤ Config.workBound)
    (hidle : ∀ j ∈ js, j.Idle u) :
    ∃ l b, (∀ i, i ∈ l ↔ u.recordView i ≠ s.recordView i) ∧ liveEvent act s = u.ended l b :=
  liveEvent_quiet hl hact (by rw [hlate, ← List.length_map (f := Work.job)]; exact (congrArg _ hjobs).trans_le hn)
    (work_idle hjobs hidle) (by simp [hlate])

/-- An immediate order that finishes in an event whose jobs do nothing. -/
theorem exec_take_jobs {k : OrderKind} {js : List Job} (ht : s.Takes c k)
    (hact : handleKind c k (s.pastCell c) = u) (hjobs : u.jobs = js) (hlate : u.late = [])
    (hn : js.length ≤ Config.workBound) (hidle : ∀ j ∈ js, j.Idle u) :
    ∃ l b, (∀ i, i ∈ l ↔ u.recordView i ≠ s.recordView i)
      ∧ exec (takeCommand (some k)) s = .next (u.ended l b) :=
  exec_take_quiet ht hact
    (by rw [hlate, ← List.length_map (f := Work.job)]; exact (congrArg _ hjobs).trans_le hn)
    (work_idle hjobs hidle) (by simp [hlate])

/-- A handle request acts in AWAIT-POWER and IN-SERVICE alone (R28). -/
theorem handleActs_elsewhere (hwait : (s.slot i).state ≠ .awaitPower)
    (hservice : (s.slot i).state ≠ .inService) : s.handleActs i = false := by
  simp [State.handleActs, hwait, hservice]

/-- A request that is not latched does not act (R28). -/
theorem handleActs_unlatched (h : (s.slot i).latch = false) : s.handleActs i = false := by
  simp [State.handleActs, h]

/-! ### Several cells -/

/-- A cell is as it was, its state and its bytes. -/
def CellStands (d : CellId) (s t : State) : Prop :=
  t.cell d = s.cell d ∧ ∀ k, k < 128 → t.rd8 d k = s.rd8 d k

theorem CellStands.refl (d : CellId) (s : State) : CellStands d s s := ⟨rfl, fun _ _ => rfl⟩

theorem CellStands.trans (h : CellStands d s t) (h' : CellStands d t u) : CellStands d s u :=
  ⟨h'.1.trans h.1, fun k hk => (h'.2 k hk).trans (h.2 k hk)⟩

theorem OtherCells.stands (h : OtherCells c s t) (hne : d ≠ c) : CellStands d s t := h.keeps hne

theorem CellsKept.stands (h : CellsKept s t) (d : CellId) : CellStands d s t :=
  ⟨cell_congr h.1 d, fun _ _ => by rw [State.rd8, State.rd8, h.2]⟩

theorem CellsKept.trans (h : CellsKept s t) (h' : CellsKept t u) : CellsKept s u :=
  ⟨h'.1.trans h.1, h'.2.trans h.2⟩

section
variable {code fault state : Byte} {gen : Word16}

theorem State.Finished.of_stands (h : s.Finished c code fault state gen) (hs : CellStands c s t) :
    t.Finished c code fault state gen := by
  obtain ⟨cell, bytes⟩ := hs
  exact ⟨cell.trans h.cell, (bytes _ (by omega)).trans h.code, (bytes _ (by omega)).trans h.fault,
    (bytes _ (by omega)).trans h.state, (rd16_congr (bytes _ (by omega)) (bytes _ (by omega))).trans h.gen⟩

end

theorem finishCell_wf (hm : Memory.wf s.mem = true) (c : CellId) (i : SlotId) (o : OrderOutcome)
    (taken : Time) (fault : Option FaultCause) (data : List Byte) :
    Memory.wf (finishCell c i o taken fault data s).mem = true := by
  rw [finishCell, writeResult_mem]
  exact Memory.wf_writeList _ _ _ hm

theorem finishEntries_wf (o : OrderOutcome) : ∀ (l : List OrderEntry) {s : State}, Memory.wf s.mem = true →
    Memory.wf (finishEntries i o l s).mem = true
  | [], _, hm => hm
  | _ :: l, _, hm => finishEntries_wf o l (finishCell_wf hm ..)

/-- A cell of none of the orders stands (R47). -/
theorem finishEntries_stands (o : OrderOutcome) : ∀ (l : List OrderEntry) {s : State},
    Memory.wf s.mem = true → (∀ e ∈ l, e.cell ≠ d) → CellStands d s (finishEntries i o l s)
  | [], _, _, _ => .refl d _
  | e :: l, _, hm, hne =>
    ((finishCell_otherCells hm ..).stands (hne e List.mem_cons_self).symm).trans
      (finishEntries_stands o l (finishCell_wf hm ..) fun e he => hne e (List.mem_cons_of_mem _ he))

/-- A finished cell stays as finished when further orders finish alike, its own order again or another. -/
theorem finishEntries_keeps (o : OrderOutcome) : ∀ (l : List OrderEntry) {s : State},
    Memory.wf s.mem = true → s.Finished d o.code 0 (s.slot i).state.code (s.slot i).gen →
    (finishEntries i o l s).Finished d o.code 0 (s.slot i).state.code (s.slot i).gen
  | [], _, _, h => h
  | e :: l, s, hm, h => by
    have slot : (finishCell e.cell i o e.taken none [] s).slot i = s.slot i := (finishCell_reads ..).1 i
    have next : (finishCell e.cell i o e.taken none [] s).Finished d o.code 0 (s.slot i).state.code
        (s.slot i).gen := by
      by_cases hd : d = e.cell
      · exact hd ▸ finishCell_finished hm ..
      · exact h.of_stands ((finishCell_otherCells hm ..).stands hd)
    rw [← slot] at next ⊢
    exact finishEntries_keeps o l (finishCell_wf hm ..) next

/-- Each order's cell shows its finish (R46, R47). -/
theorem finishEntries_finished (o : OrderOutcome) : ∀ (l : List OrderEntry) {s : State},
    Memory.wf s.mem = true → ∀ e ∈ l,
    (finishEntries i o l s).Finished e.cell o.code 0 (s.slot i).state.code (s.slot i).gen
  | [], _, _, _, he => absurd he List.not_mem_nil
  | x :: l, s, hm, e, he => by
    have slot : (finishCell x.cell i o x.taken none [] s).slot i = s.slot i := (finishCell_reads ..).1 i
    have head : (finishCell x.cell i o x.taken none [] s).Finished x.cell o.code 0 (s.slot i).state.code
        (s.slot i).gen := finishCell_finished hm ..
    obtain rfl | hrest := List.mem_cons.mp he
    · rw [← slot] at head ⊢
      exact finishEntries_keeps o l (finishCell_wf hm ..) head
    · rw [← slot]
      exact finishEntries_finished o l (finishCell_wf hm ..) e hrest

theorem finishWaiting_slot_self (o : OrderOutcome) (s : State) : (finishWaiting i o s).slot i =
    { s.slot i with orders := if (s.slot i).active then (s.slot i).orders.take 1 else [] } := by
  rw [finishWaiting, modSlot_slot_self, (finishEntries_reads ..).1]

theorem finishWaiting_slot_ne {j : SlotId} (hj : j ≠ i) (o : OrderOutcome) (s : State) :
    (finishWaiting i o s).slot j = s.slot j := by
  rw [finishWaiting, modSlot_slot_ne _ _ _ _ hj, (finishEntries_reads ..).1]

theorem finishAll_slot_self (o : OrderOutcome) (s : State) : (finishAll i o s).slot i =
    { s.slot i with orders := [], active := false, read := none } := by
  rw [finishAll, modSlot_slot_self, (finishEntries_reads ..).1]

theorem finishAll_slot_ne {j : SlotId} (hj : j ≠ i) (o : OrderOutcome) (s : State) :
    (finishAll i o s).slot j = s.slot j := by
  rw [finishAll, modSlot_slot_ne _ _ _ _ hj, (finishEntries_reads ..).1]

/-! ### The active order -/

theorem finishActive_head {e : OrderEntry} {es : List OrderEntry} (ha : (s.slot i).active = true)
    (ho : (s.slot i).orders = e :: es) (o : OrderOutcome) (x : Option FaultCause) (l : List Byte) :
    finishActive i o x l s = finishCell e.cell i o e.taken x l (s.modSlot i Slot.dropHead) := by
  simp only [finishActive, ha, ho]

theorem finishActive_none (ha : (s.slot i).active = false) (o : OrderOutcome) (x : Option FaultCause)
    (l : List Byte) : finishActive i o x l s = s := by
  simp only [finishActive, ha]

theorem activeKind_head {e : OrderEntry} {es : List OrderEntry} (ha : (s.slot i).active = true)
    (ho : (s.slot i).orders = e :: es) : s.activeKind i = some e.kind := by
  simp only [State.activeKind, ha, ho]

/-- The active order's cell shows its finish, and the other cells stand (R46). -/
theorem finishActive_cells (hm : Memory.wf s.mem = true) {e : OrderEntry} {es : List OrderEntry}
    (ha : (s.slot i).active = true) (ho : (s.slot i).orders = e :: es) (o : OrderOutcome)
    (x : Option FaultCause) (l : List Byte) :
    (finishActive i o x l s).Finished e.cell o.code (faultByte x) (s.slot i).state.code (s.slot i).gen
    ∧ OtherCells e.cell s (finishActive i o x l s) := by
  have hm' : Memory.wf (s.modSlot i Slot.dropHead).mem = true := hm
  have done := finishCell_finished hm' e.cell i o e.taken x l
  rw [modSlot_slot_self] at done
  rw [finishActive_head ha ho]
  exact ⟨done, finishCell_otherCells hm' ..⟩

theorem finishActive_wf (hm : Memory.wf s.mem = true) (o : OrderOutcome) (x : Option FaultCause)
    (l : List Byte) : Memory.wf (finishActive i o x l s).mem = true := by
  unfold finishActive
  split
  · exact finishCell_wf (s := s.modSlot i Slot.dropHead) hm ..
  · exact hm
  · exact hm

/-! ### The queue entry -/

/-- With no entry of another slot the queue is left empty, and then the head is examined (R71). -/
theorem removeEntry_alone (h : ∀ e ∈ s.alloc.queue, e.slot = i) : removeEntry i s =
    if s.alloc.queue = [] then s
    else ((s.modAlloc fun a => { a with queue := [], reexam := none }).touchShelf).raise [.examine] := by
  unfold removeEntry State.isQueued
  match hq : s.alloc.queue with
  | [] => rfl
  | e :: q =>
    have own : ∀ f ∈ e :: q, f.slot = i := hq ▸ h
    have empty : (e :: q).filter (fun f => !decide (f.slot = i)) = [] :=
      List.filter_eq_nil_iff.mpr fun f hf => by simp [own f hf]
    rw [empty, if_neg (List.cons_ne_nil _ _)]
    exact if_pos (by simp [own e])

theorem State.QuietBut.own (h : s.QuietBut i) : ∀ e ∈ s.alloc.queue, e.slot = i := by
  rcases h.queue with hq | ⟨-, hq⟩
  · simp [hq]
  · exact hq

/-- What the removal of the only slot's entry leaves and brings. -/
theorem removeEntry_alone_frame (h : ∀ e ∈ s.alloc.queue, e.slot = i) :
    (∀ j, (removeEntry i s).slot j = s.slot j) ∧ (removeEntry i s).alloc.queue = []
    ∧ (s.alloc.queue ≠ [] → (removeEntry i s).alloc.reexam = none)
    ∧ (removeEntry i s).jobs = s.jobs ++ (if s.alloc.queue = [] then [] else [.examine]) := by
  rw [removeEntry_alone h]
  split
  · next hq => exact ⟨fun _ => rfl, hq, fun hne => absurd hq hne, (List.append_nil _).symm⟩
  · exact ⟨fun _ => rfl, rfl, fun _ => rfl, raise_jobs ..⟩

/-- The state in which a slot has left the queue and is PARKED. -/
def State.unqueued (s : State) (i : SlotId) (why : StateDetail) (tag : Option Word16) : State :=
  changeState i .parked why tag (removeEntry i s)

section
variable (why : StateDetail) (tag : Option Word16)

theorem unqueued_slot_self (h : ∀ e ∈ s.alloc.queue, e.slot = i) :
    (s.unqueued i why tag).slot i = (s.slot i).enter s.time .parked := by
  rw [State.unqueued, changeState_slot_self, (removeEntry_alone_frame h).1]
  simp

theorem unqueued_slot_ne (h : ∀ e ∈ s.alloc.queue, e.slot = i) {j : SlotId} (hj : j ≠ i) :
    (s.unqueued i why tag).slot j = s.slot j := by
  rw [State.unqueued, changeState_slot_ne _ _ _ _ _ hj, (removeEntry_alone_frame h).1]

theorem unqueued_frame : (s.unqueued i why tag).time = s.time ∧ (s.unqueued i why tag).cells = s.cells
    ∧ (s.unqueued i why tag).mem = s.mem ∧ (s.unqueued i why tag).power = s.power
    ∧ (s.unqueued i why tag).ports = s.ports ∧ (s.unqueued i why tag).settings = s.settings
    ∧ (s.unqueued i why tag).history = s.history ∧ (s.unqueued i why tag).late = s.late := by
  simp [State.unqueued]

theorem unqueued_queue (h : ∀ e ∈ s.alloc.queue, e.slot = i) :
    (s.unqueued i why tag).alloc.queue = []
    ∧ (s.alloc.queue ≠ [] → (s.unqueued i why tag).alloc.reexam = none)
    ∧ (s.unqueued i why tag).jobs = s.jobs ++ (if s.alloc.queue = [] then [] else [.examine]) := by
  obtain ⟨-, queue, reexam, jobs⟩ := removeEntry_alone_frame h
  refine ⟨?_, fun hne => ?_, ?_⟩
  · simpa [State.unqueued] using queue
  · simpa [State.unqueued] using reexam hne
  · exact (jobs_congr (by simp [State.unqueued])).trans jobs

end

theorem waitExpired_due (hdue : ∃ q ∈ s.alloc.queue, due s.time q.deadline = true)
    (h : ∀ e ∈ s.alloc.queue, e.slot = i) : waitExpired i s =
    testNext i (finishActive i .powerTimeout none [] (s.unqueued i .waitLimit ((removeEntry i s).activeTag i))) := by
  obtain ⟨q, hq, hd⟩ := hdue
  exact if_pos (List.any_eq_true.mpr ⟨q, hq, by simp [h q hq, hd]⟩)

theorem waitExpired_none (h : ∀ q ∈ s.alloc.queue, q.slot = i → due s.time q.deadline = false) :
    waitExpired i s = s := by
  refine if_neg fun hany => ?_
  obtain ⟨q, hq, hboth⟩ := List.any_eq_true.mp hany
  rw [Bool.and_eq_true, decide_eq_true_iff] at hboth
  exact Bool.noConfusion ((h q hq hboth.1).symm.trans hboth.2)

/-- A slot with one order, active, after the move of its withdrawn admission and the finish of the order. -/
theorem unqueued_finished_slot {e : OrderEntry} (why : StateDetail) (tag : Option Word16) (o : OrderOutcome)
    (h : ∀ e ∈ s.alloc.queue, e.slot = i) (ho : (s.slot i).orders = [e]) (ha : (s.slot i).active = true) :
    (finishActive i o none [] (s.unqueued i why tag)).slot i =
      { (s.slot i).enter s.time .parked with orders := [], active := false, read := none } := by
  have self := unqueued_slot_self why tag h
  rw [finishActive_slot_self, self]
  simp only [Slot.finished, Slot.enter, ha, ho, Slot.dropHead, List.tail_cons]

/-- Settles O42. -/
theorem waitDeadlineParks : Obligations.WaitDeadlineParks := by
  intro s i hinv hl
  refine ⟨fun e hq hstate ho ha hdue => ?_, fun h => ?_⟩
  · obtain ⟨hwork, hlate, -, -, -⟩ := hl.toReady
    have own := hq.own
    have queued : s.alloc.queue ≠ [] := fun hnil => by simp [hnil] at hdue
    have act := waitExpired_due hdue own
    generalize (removeEntry i s).activeTag i = tag at act
    let v := s.unqueued i .waitLimit tag
    have hself : v.slot i = (s.slot i).enter s.time .parked := unqueued_slot_self _ _ own
    have frame := unqueued_frame (s := s) (i := i) .waitLimit tag
    obtain ⟨queue, reexam, jobs⟩ := unqueued_queue .waitLimit tag own
    have slot := unqueued_finished_slot (s := s) .waitLimit tag .powerTimeout own ho ha
    obtain ⟨l, b, -, he⟩ := liveEvent_jobs (js := [.examine, .start i, .handle i]) hl act
      ((raise_jobs ..).trans (by
        rw [jobs_congr (t := finishActive i .powerTimeout none [] v) (s := v) (by simp), jobs,
          jobs_nil hwork, if_neg queued]
        rfl))
      (by simp [testNext, frame, hlate]) (by simp [Config.workBound]) (by
        intro j hj
        simp only [List.mem_cons, List.not_mem_nil, or_false] at hj
        obtain rfl | rfl | rfl := hj
        · simpa [Job.Idle, testNext] using queue
        · exact .inl (by rw [testNext, raise_slot, slot])
        · refine handleActs_elsewhere ?_ ?_
          all_goals rw [testNext, raise_slot, slot]; exact nofun)
    obtain ⟨done, others⟩ := finishActive_cells (s := v) (by rw [frame.2.2.1]; exact hinv.mem)
      (by rw [hself]; exact ha) (by rw [hself]; exact ho) .powerTimeout none []
    have kept := ended_cellsKept (testNext i (finishActive i .powerTimeout none [] v)) l b
    have raised : CellsKept (finishActive i .powerTimeout none [] v)
      (testNext i (finishActive i .powerTimeout none [] v)) := ⟨rfl, rfl⟩
    have finished := done.of_kept (raised.trans kept)
    have moved : CellsKept s v := ⟨frame.2.1, frame.2.2.1⟩
    have others := (moved.otherCells e.cell).trans (others.trans ((raised.trans kept).otherCells e.cell))
    refine ⟨_, congrArg Host.Outcome.next he, ?_, ?_, ?_, ?_, ?_, ?_, ?_, ?_, finished.cell, finished.code,
      ended_otherSlots l b fun j hj => ?_, others, ?_, ?_, fun j hj => ?_⟩
    · simp [testNext, slot, Slot.enter]
    · simp [testNext, slot, Slot.enter, hstate]
    · simp [testNext, slot, Slot.enter]
    · simp [testNext, slot, Slot.enter, hstate]
    · simp [testNext, slot, Slot.enter, hstate]
    · simp [testNext, slot]
    · simpa [testNext] using queue
    · simpa [testNext] using reexam queued
    · rw [testNext, raise_slot, finishActive_slot_ne _ _ _ _ _ hj, unqueued_slot_ne _ _ own hj]
    · simp [testNext, frame]
    · simp [testNext, frame]
    · simp [testNext, State.unqueued, hj]
  · exact congrArg Host.Outcome.next (liveEvent_nothing hl (waitExpired_none h))

/-! ### CANCEL (R54) -/

theorem activeKind_some {k : OrderKind} (h : s.activeKind i = some k) :
    ∃ e es, (s.slot i).active = true ∧ (s.slot i).orders = e :: es ∧ e.kind = k := by
  unfold State.activeKind at h
  split at h
  · next e es ha ho => exact ⟨e, es, ha, ho, Option.some.inj h⟩
  · cases h
  · cases h

/-- A CANCEL that finishes an admission in AWAIT-POWER and every waiting order: what it leaves of the slot and
the cells (R54). -/
theorem cancelAdmit_leaves (hm : Memory.wf s.mem = true) (h : ∀ e ∈ s.alloc.queue, e.slot = i)
    (hk : s.activeKind i = some .admitBlade) :
    (cancelAdmit c i s).slot i =
        { (s.slot i).enter s.time .parked with orders := [], active := false, read := none }
    ∧ (∀ j, j ≠ i → (cancelAdmit c i s).slot j = s.slot j)
    ∧ (∀ e ∈ (s.slot i).orders, (cancelAdmit c i s).Finished e.cell OrderOutcome.cancelled.code 0
      SlotState.parked.code (nextGeneration (s.slot i).gen))
    ∧ Memory.wf (cancelAdmit c i s).mem = true := by
  obtain ⟨e, es, ha, ho, -⟩ := activeKind_some hk
  let v := s.unqueued i .order (some (s.cellTag c))
  have hself : v.slot i = (s.slot i).enter s.time .parked := unqueued_slot_self _ _ h
  have frame := unqueued_frame (s := s) (i := i) .order (some (s.cellTag c))
  have hmv : Memory.wf v.mem = true := by rw [frame.2.2.1]; exact hm
  have va : (v.slot i).active = true := by rw [hself]; exact ha
  have vo : (v.slot i).orders = e :: es := by rw [hself]; exact ho
  let w := finishActive i .cancelled none [] v
  have wself : w.slot i =
      { (s.slot i).enter s.time .parked with orders := es, active := false, read := none } := by
    have own := finishActive_slot_self v i .cancelled none []
    rw [hself] at own
    refine own.trans ?_
    simp only [Slot.finished, Slot.enter, ha, ho, Slot.dropHead, List.tail_cons]
  have wwait : (w.slot i).waiting = es := by rw [wself]; rfl
  have hmw : Memory.wf w.mem = true := finishActive_wf hmv ..
  obtain ⟨active, -⟩ := finishActive_cells hmv va vo .cancelled none []
  have eq : cancelAdmit c i s = finishWaiting i .cancelled w := rfl
  have cells : CellsKept (finishEntries i .cancelled es w) (finishWaiting i .cancelled w) := by
    rw [finishWaiting, wwait]
    exact ⟨rfl, rfl⟩
  rw [eq]
  refine ⟨?_, fun j hj => ?_, fun x hx => ?_, ?_⟩
  · rw [finishWaiting_slot_self, wself]
    rfl
  · rw [finishWaiting_slot_ne hj, finishActive_slot_ne _ _ _ _ _ hj, unqueued_slot_ne _ _ h hj]
  · have state : (w.slot i).state = .parked ∧ (w.slot i).gen = nextGeneration (s.slot i).gen := by
      rw [wself]
      exact ⟨rfl, rfl⟩
    have done : (finishEntries i .cancelled es w).Finished x.cell OrderOutcome.cancelled.code 0
        (w.slot i).state.code (w.slot i).gen := by
      obtain rfl | hrest := List.mem_cons.mp (ho ▸ hx)
      · refine finishEntries_keeps .cancelled es hmw ?_
        rw [hself] at active
        rw [state.1, state.2]
        exact active
      · exact finishEntries_finished .cancelled es hmw x hrest
    rw [state.1, state.2] at done
    exact done.of_kept cells
  · rw [cells.2]
    exact finishEntries_wf _ _ hmw

/-- What a CANCEL leaves that finishes the waiting orders alone (R54). -/
theorem finishWaiting_leaves (hm : Memory.wf s.mem = true) (o : OrderOutcome) :
    (∀ e ∈ (s.slot i).waiting,
      (finishWaiting i o s).Finished e.cell o.code 0 (s.slot i).state.code (s.slot i).gen)
    ∧ Memory.wf (finishWaiting i o s).mem = true :=
  ⟨fun e he => (finishEntries_finished o _ hm e he).of_kept ⟨rfl, rfl⟩, finishEntries_wf o _ hm⟩

theorem handleKind_cancel (hslot : s.cellSlot c = some i) :
    handleKind c .cancel (s.pastCell c) = actCancel c i (s.acting c) := by
  unfold handleKind
  rw [show (s.pastCell c).cellSlot c = some i from hslot]
  rfl

theorem waiting_mem_orders {e : OrderEntry} {x : Slot} (h : e ∈ x.waiting) : e ∈ x.orders := by
  unfold Slot.waiting at h
  split at h
  · exact List.mem_of_mem_tail h
  · exact h

/-- Settles O30. -/
theorem cancelWithdraws : Obligations.CancelWithdraws := by
  intro s c i hinv hq ht hcells cancels
  obtain ⟨hwork, hlate, -, -, -⟩ := ht.toReady
  have hm : Memory.wf (s.acting c).mem = true := hinv.mem
  by_cases hc : cancels
  · obtain ⟨slot, others, cells, hmv⟩ := cancelAdmit_leaves (s := s.acting c) (c := c) hm hq.own hc.2
    let v := cancelAdmit c i (s.acting c)
    have act : handleKind c .cancel (s.pastCell c) = finishOwn c i .done v :=
      (handleKind_cancel ht.slot).trans (if_pos hc)
    obtain ⟨queue, -, jobs⟩ := unqueued_queue (s := s.acting c) .order (some (s.cellTag c)) hq.own
    have vqueue : v.alloc.queue = [] := by
      refine Eq.trans ?_ queue
      simp [v, cancelAdmit, State.unqueued]
    have vjobs : v.jobs = if s.alloc.queue = [] then [] else [.examine] := by
      have steps : v.jobs = _ := (jobs_congr (by simp [v, cancelAdmit, State.unqueued])).trans jobs
      rw [steps, jobs_nil (show (s.acting c).work = [] from hwork)]
      rfl
    obtain ⟨l, b, -, he⟩ := exec_take_jobs (js := v.jobs) ht.toTakes act (jobs_congr (by simp [finishOwn]))
      (by simp [finishOwn, v, cancelAdmit, State.acting, State.pastCell, hlate])
      (by rw [vjobs]; split <;> simp [Config.workBound]) (by
        intro j hj
        rw [vjobs] at hj
        split at hj
        · exact absurd hj List.not_mem_nil
        · obtain rfl := List.mem_singleton.mp hj
          simpa [Job.Idle, finishOwn] using vqueue)
    have own := (finishCell_finished hmv c i .done v.time none []).of_kept (ended_cellsKept _ l b)
    have stands : ∀ d, d ≠ c → CellStands d v ((finishOwn c i .done v).ended l b) := fun d hd =>
      ((finishCell_otherCells hmv ..).stands hd).trans ((ended_cellsKept _ l b).stands d)
    have done : ∀ e ∈ (s.slot i).orders, _ := fun e he =>
      (cells e he).of_stands (stands e.cell (hcells e he))
    have self : (finishOwn c i .done v).slot i = v.slot i := (finishCell_reads ..).1 i
    refine ⟨_, he, own.cell, own.code.trans (if_neg fun h => h.1 hc).symm,
      fun e he => ⟨(done e (waiting_mem_orders he)).cell, (done e (waiting_mem_orders he)).code⟩,
      fun _ => ⟨fun e he => ⟨(done e he).cell, (done e he).code⟩, ?_, ?_, ?_, ?_, ?_⟩,
      fun h => absurd hc h, ended_otherSlots l b fun j hj => ?_, ?_, ?_, ?_⟩
    · simp [self, v, slot, Slot.enter]
    · simp [self, v, slot, Slot.enter]
      rfl
    · simp [self, v, slot]
    · simp [self, v, slot]
    · simpa [finishOwn] using vqueue
    · exact ((finishCell_reads ..).1 j).trans (others j hj)
    all_goals simp [finishOwn, v, cancelAdmit, State.acting, State.pastCell]
  · obtain ⟨cells, hmv⟩ := finishWaiting_leaves (s := s.acting c) (i := i) hm .cancelled
    let v := finishWaiting i .cancelled (s.acting c)
    let o : OrderOutcome := if (s.slot i).waiting.isEmpty then .nothing else .done
    have act : handleKind c .cancel (s.pastCell c) = finishOwn c i o v :=
      (handleKind_cancel ht.slot).trans (if_neg hc)
    have work : (finishOwn c i o v).work = [] := by
      simpa [finishOwn, v, State.acting, State.pastCell] using hwork
    obtain ⟨l, b, -, he⟩ := exec_take_jobs (js := []) ht.toTakes act (jobs_nil work)
      (by simp [finishOwn, v, State.acting, State.pastCell, hlate]) (Nat.zero_le _)
      (fun _ h => absurd h List.not_mem_nil)
    have own := (finishCell_finished hmv c i o v.time none []).of_kept (ended_cellsKept _ l b)
    have stands : ∀ d, d ≠ c → CellStands d v ((finishOwn c i o v).ended l b) := fun d hd =>
      ((finishCell_otherCells hmv ..).stands hd).trans ((ended_cellsKept _ l b).stands d)
    have done : ∀ e ∈ (s.slot i).waiting, _ := fun e he =>
      (cells e he).of_stands (stands e.cell (hcells e (waiting_mem_orders he)))
    refine ⟨_, he, own.cell, own.code.trans ?_, fun e he => ⟨(done e he).cell, (done e he).code⟩,
      fun h => absurd h hc, fun _ => ⟨?_, ?_, ?_, ?_⟩, ended_otherSlots l b fun j hj => ?_, ?_, ?_, ?_⟩
    · rw [apply_ite OrderOutcome.code]
      simp [hc]
    · rw [(ended_reads _ l b).1, show (finishOwn c i o v).slot i = _ from (finishCell_reads ..).1 i,
        show v.slot i = _ from finishWaiting_slot_self ..]
      exact Slot.written_like _ _
    · simp [finishOwn, v, State.acting, State.pastCell]
    · simp [finishOwn, v, State.acting, State.pastCell]
    · simp [finishOwn, v, State.acting, State.pastCell]
    · exact ((finishCell_reads ..).1 j).trans (finishWaiting_slot_ne hj ..)
    all_goals simp [finishOwn, v, State.acting, State.pastCell]

end Sys2Proof.Machine

/-! The survey's beginning (R5, R6, R151) and the events that start a slot-queued order in an idle slot (R13,
R44, R45, R50 to R52). -/

namespace Sys2Proof.Machine

variable {s t u : State} {i : SlotId} {c d : CellId}

/-! ### Ports of a slot -/

theorem mem_allNodes (n : NodeId) : n ∈ allNodes := by revert n; decide

/-- The ports of a slot are those at whose node or hub end it stands (R99). -/
theorem mem_slotPorts {p : PortId} : p ∈ slotPorts i ↔ nodeSlot p = i ∨ hubSlot p = i := by
  obtain ⟨n, h⟩ := p
  revert i n h
  decide +kernel

/-- A port with a slot that is neither JOINING nor IN-SERVICE is not offered (R104). -/
theorem offerHolds_elsewhere {p : PortId} (hp : p ∈ slotPorts i) (h : (s.slot i).state.offering = false) :
    s.offerHolds p = false := by
  unfold State.offerHolds State.bothOffering
  rcases mem_slotPorts.mp hp with rfl | rfl <;> simp [h]

theorem offerTest_none {p : PortId} (h : s.offerHolds p = false) : offerTest p s = s :=
  if_neg (by simp [h])

/-- No port is offered where the offer condition holds for none (R105). -/
theorem offerTests_none : ∀ {ps : List PortId}, (∀ p ∈ ps, s.offerHolds p = false) → offerTests ps s = s
  | [], _ => rfl
  | p :: ps, h => by
    unfold offerTests
    rw [List.foldl_cons, offerTest_none (h p List.mem_cons_self)]
    exact offerTests_none fun q hq => h q (List.mem_cons_of_mem _ hq)

theorem offerTests_elsewhere (h : (s.slot i).state.offering = false) : offerTests (slotPorts i) s = s :=
  offerTests_none fun _ hp => offerHolds_elsewhere hp h

/-! ### Carried messages -/

/-- A message that is carried stays when another joins the queue. -/
theorem Engine.Carries.join {e : Engine} {m : Msg} (h : e.Carries m) (m' : Msg) (b : Placer) (t : Option Time) :
    (e.join m' b t).Carries m := by
  unfold Engine.join
  split
  · obtain ⟨q, hq, hm⟩ | ⟨o, ho⟩ := h
    · exact .inl ⟨q, List.mem_append_left _ hq, hm⟩
    · exact .inr ⟨o, ho⟩
  · exact h

theorem Engine.Carries.probed {e : Engine} {m : Msg} (h : e.Carries m) (now : Time) (b : Placer) :
    (e.probed now b).Carries m := by
  unfold Engine.probed
  split
  · next hup =>
    have joined := h.join .probe b none
    rw [Engine.join, if_pos hup.1] at joined
    exact joined.serve now
  · exact h

theorem carries_askProbe {m : Msg} (h : (s.engine i).Carries m) (b : Placer) :
    ((askProbe i b s).engine i).Carries m := by
  rw [askProbe_eq, modEngine_engine_self]
  exact h.probed ..

theorem carries_alertTest {m : Msg} (h : (s.engine i).Carries m) : ((alertTest i s).engine i).Carries m := by
  unfold alertTest
  split
  · exact carries_askProbe h _
  · exact h

/-! ### The operations of one engine -/

@[simp] theorem join_link (m : Msg) (b : Placer) (n : Option Time) (e : Engine) :
    (e.join m b n).link = e.link := by
  unfold Engine.join
  split <;> rfl

/-- A port message is placed in an engine (R134). -/
def Engine.ported (now : Time) (m : Msg) (e : Engine) : Engine :=
  if e.queued m.undoes then { e with queue := e.queue.filter fun q => !m.undoes q.msg }
  else ((e.endMessages (Msg.notificationFor m.far)).join m .coordinator none).serve now

@[simp] theorem ported_link (now : Time) (m : Msg) (e : Engine) : (e.ported now m).link = e.link := by
  unfold Engine.ported
  split
  · rfl
  · simp [Engine.endMessages]

theorem placePort_eq (m : Msg) (s : State) : placePort i m s = s.modEngine i (Engine.ported s.time m) := by
  unfold placePort
  split
  · next h => exact modEngine_congr (if_pos h).symm
  · next h =>
    refine (modEngine_modEngine ..).trans (modEngine_congr ?_)
    exact (if_neg h).symm

/-- An own request is placed in an engine (R132, R144). -/
def Engine.owned (now : Time) (m : Msg) (e : Engine) : Engine :=
  if e.link = .up then (e.join m .sequencer none).serve now else e

@[simp] theorem owned_link (now : Time) (m : Msg) (e : Engine) : (e.owned now m).link = e.link := by
  unfold Engine.owned
  split <;> simp

theorem placeOwn_eq (m : Msg) (s : State) : placeOwn i m s = s.modEngine i (Engine.owned s.time m) := by
  unfold placeOwn
  split
  · next h => exact modEngine_congr (if_pos (of_decide_eq_true h)).symm
  · next h => exact (modEngine_same (if_neg fun hup => h (decide_eq_true hup))).symm

/-- A change of an engine that leaves its link state leaves every link state. -/
theorem modEngine_linkUp {g : Engine → Engine} (h : (g (s.engine i)).link = (s.engine i).link) (j : SlotId) :
    (s.modEngine i g).linkUp j = s.linkUp j := by
  unfold State.linkUp
  by_cases hj : j = i
  · subst hj
    rw [modEngine_engine_self, h]
  · rw [modEngine_engine_ne _ _ _ _ hj]

@[simp] theorem askProbe_linkUp (b : Placer) (s : State) (j : SlotId) :
    (askProbe i b s).linkUp j = s.linkUp j :=
  askProbe_eq b s ▸ modEngine_linkUp (probed_link ..) j

@[simp] theorem placeOwn_linkUp (m : Msg) (s : State) (j : SlotId) : (placeOwn i m s).linkUp j = s.linkUp j :=
  placeOwn_eq m s ▸ modEngine_linkUp (owned_link ..) j

@[simp] theorem placePort_linkUp (m : Msg) (s : State) (j : SlotId) :
    (placePort i m s).linkUp j = s.linkUp j :=
  placePort_eq m s ▸ modEngine_linkUp (ported_link ..) j

@[simp] theorem endMessages_linkUp (p : Msg → Bool) (s : State) (j : SlotId) :
    (endMessages i p s).linkUp j = s.linkUp j := modEngine_linkUp rfl j

@[simp] theorem endOwn_linkUp (s : State) (j : SlotId) : (endOwn i s).linkUp j = s.linkUp j :=
  endMessages_linkUp ..

@[simp] theorem alertTest_linkUp (s : State) (j : SlotId) : (alertTest i s).linkUp j = s.linkUp j := by
  unfold alertTest
  split <;> simp

@[simp] theorem serveLink_linkUp (s : State) (j : SlotId) : (serveLink i s).linkUp j = s.linkUp j :=
  modEngine_linkUp (serve_link ..) j

section
variable {j : SlotId} (h : j ≠ i)
include h

@[simp] theorem askProbe_engine_ne (b : Placer) (s : State) : (askProbe i b s).engine j = s.engine j :=
  askProbe_eq b s ▸ modEngine_engine_ne _ _ _ _ h

@[simp] theorem placeOwn_engine_ne (m : Msg) (s : State) : (placeOwn i m s).engine j = s.engine j :=
  placeOwn_eq m s ▸ modEngine_engine_ne _ _ _ _ h

@[simp] theorem placePort_engine_ne (m : Msg) (s : State) : (placePort i m s).engine j = s.engine j :=
  placePort_eq m s ▸ modEngine_engine_ne _ _ _ _ h

@[simp] theorem endMessages_engine_ne (p : Msg → Bool) (s : State) :
    (endMessages i p s).engine j = s.engine j := modEngine_engine_ne _ _ _ _ h

@[simp] theorem endOwn_engine_ne (s : State) : (endOwn i s).engine j = s.engine j :=
  modEngine_engine_ne _ _ _ _ h

@[simp] theorem serveLink_engine_ne (s : State) : (serveLink i s).engine j = s.engine j :=
  modEngine_engine_ne _ _ _ _ h

@[simp] theorem putBack_engine_ne (ms : Nat) (s : State) : (putBack i ms s).engine j = s.engine j :=
  modEngine_engine_ne _ _ _ _ h

@[simp] theorem alertTest_engine_ne (s : State) : (alertTest i s).engine j = s.engine j := by
  unfold alertTest
  split
  · exact askProbe_engine_ne h ..
  · rfl

end

/-! ### The beginning of a survey -/

/-- The slot of a survey that begins (R6, R151). -/
def Slot.surveyed (x : Slot) : Slot :=
  { x with idStatus := .none, idReason := .none, ident := Identity.zero, survey := some ⟨.page0, none, []⟩ }

/-- Entry to SURVEYING as far as the ALERT test, no port being offered (R6, R142). -/
theorem enterSurveying_eq (h : (s.slot i).state.offering = false) :
    let v := surveyBegin i ((s.modSlot i Slot.clearIdentity).modEngine i Engine.enterSurveying)
    enterSurveying i s = if s.linkUp i then v else alertTest i v := by
  intro v
  have none : offerTests (slotPorts i) ((s.modSlot i Slot.clearIdentity).modEngine i Engine.enterSurveying) =
      (s.modSlot i Slot.clearIdentity).modEngine i Engine.enterSurveying :=
    offerTests_elsewhere (by rw [modEngine_slot, modSlot_slot_self]; exact h)
  unfold enterSurveying
  dsimp only
  rw [none]

theorem surveyBegin_leaves (hup : s.linkUp i = true) :
    (surveyBegin i s).slot i = { s.slot i with survey := some ⟨.page0, none, []⟩ }
    ∧ (surveyBegin i s).linkUp i = true ∧ ((surveyBegin i s).engine i).Carries (.identPage 0) := by
  refine ⟨by simp [surveyBegin], ?_, carries_placeOwn (by simpa using hup) _⟩
  simpa [surveyBegin] using hup

/-- What entry to SURVEYING leaves (R6, R151). -/
theorem enterSurveying_leaves (h : (s.slot i).state.offering = false) :
    (enterSurveying i s).slot i = (s.slot i).surveyed
    ∧ (enterSurveying i s).linkUp i = true
    ∧ ((enterSurveying i s).engine i).Carries (.identPage 0) := by
  let v := (s.modSlot i Slot.clearIdentity).modEngine i Engine.enterSurveying
  have up : v.linkUp i = true := by simp [v, State.linkUp, Engine.enterSurveying]
  obtain ⟨slot, link, carries⟩ := surveyBegin_leaves up
  have self : (surveyBegin i v).slot i = (s.slot i).surveyed := by
    rw [slot]
    simp [v, Slot.surveyed, Slot.clearIdentity]
  rw [enterSurveying_eq h]
  split
  · exact ⟨self, link, carries⟩
  · exact ⟨by simpa using self, by simpa using link, carries_alertTest carries⟩

theorem enterSurveying_frame (h : (s.slot i).state.offering = false) :
    (∀ j, j ≠ i → (enterSurveying i s).slot j = s.slot j)
    ∧ (∀ j, j ≠ i → (enterSurveying i s).engine j = s.engine j)
    ∧ (enterSurveying i s).time = s.time ∧ (enterSurveying i s).cells = s.cells
    ∧ (enterSurveying i s).mem = s.mem ∧ (enterSurveying i s).alloc = s.alloc
    ∧ (enterSurveying i s).power = s.power ∧ (enterSurveying i s).ports = s.ports
    ∧ (enterSurveying i s).work = s.work ∧ (enterSurveying i s).late = s.late := by
  rw [enterSurveying_eq h]
  split
  · refine ⟨fun j hj => ?_, fun j hj => ?_, ?_⟩
    all_goals simp_all [surveyBegin]
  · refine ⟨fun j hj => ?_, fun j hj => ?_, ?_⟩
    all_goals simp_all [surveyBegin]

/-- Settles O38. -/
theorem settleExpiryBeginsSurvey : Obligations.SettleExpiryBeginsSurvey := by
  intro s i hinv hl
  refine ⟨fun hstate hdue => ?_, fun h => ?_⟩
  · obtain ⟨hwork, hlate, -, -, -⟩ := hl.toReady
    have act : settleExpired i s = enterSurveying i (changeStateOwn i .surveying .settled s) :=
      if_pos ⟨hstate, hdue⟩
    have self : (changeStateOwn i .surveying .settled s).slot i = (s.slot i).enter s.time .surveying :=
      changeStateOwn_slot_self ..
    have shut : ((changeStateOwn i .surveying .settled s).slot i).state.offering = false := by
      rw [self]
      rfl
    obtain ⟨slot, link, carries⟩ := enterSurveying_leaves shut
    rw [self] at slot
    obtain ⟨slots, engines, -, cells, mem, alloc, power, ports, work, late⟩ := enterSurveying_frame shut
    obtain ⟨l, b, -, he⟩ := liveEvent_jobs (js := []) hl act
      (jobs_nil (work.trans (by simpa using hwork))) (late.trans (by simpa using hlate)) (Nat.zero_le _)
      (fun _ h => absurd h List.not_mem_nil)
    refine ⟨_, congrArg Host.Outcome.next he, ?_, ?_, ?_, ?_, ?_, ?_, ?_, ?_, ?_, ?_,
      ended_otherSlots l b fun j hj => ?_, ⟨?_, ?_⟩, ?_, ?_, ?_, fun j hj => ?_⟩
    · simp [slot, Slot.surveyed, Slot.enter]
    · simp [slot, Slot.surveyed, Slot.enter, hstate]
    · simp [slot, Slot.surveyed, Slot.enter]
    · simp [slot, Slot.surveyed, Slot.enter]
    · simp [slot, Slot.surveyed, Slot.enter]
    · simp [slot, Slot.surveyed]
    · simp [slot, Slot.surveyed]
    · simp [slot, Slot.surveyed]
    · simpa using link
    · simpa using carries
    · rw [slots j hj, changeStateOwn_slot_ne _ _ _ _ hj]
    · simp [cells]
    · simp [mem]
    · simp [alloc]
    · simp [power]
    · simp [ports]
    · simp [engines j hj, hj]
  · refine congrArg Host.Outcome.next (liveEvent_nothing hl (if_neg fun hn => ?_))
    rcases h with h | h
    · exact h hn.1
    · exact Bool.noConfusion (h.symm.trans hn.2)

/-! ### The start of an order in an idle slot -/

/-- What still follows from a state of an event does nothing, and `n` pieces of work are enough for it. -/
structure State.AtEnd (v : State) (n : Nat) : Prop where
  room : v.work.length + v.late.length ≤ n
  jobs : ∀ w ∈ v.work, w.job.Idle v
  tests : ∀ t ∈ v.late, LateIdle v t.slot

theorem State.AtEnd.of_jobs {v : State} {js : List Job} {n : Nat} (hjobs : v.jobs = js) (hlate : v.late = [])
    (hn : js.length ≤ n) (hidle : ∀ j ∈ js, j.Idle v) : v.AtEnd n where
  room := by
    rw [hlate, ← List.length_map (f := Work.job)]
    exact (congrArg _ hjobs).trans_le hn
  jobs := work_idle hjobs hidle
  tests := by simp [hlate]

/-- An event that stands at its end writes its records. -/
theorem State.AtEnd.ends {v : State} {n : Nat} (h : v.AtEnd n) (l : List SlotId) :
    ∃ l' b, closeEvent (drain n { v with changed := l }) = v.ended l' b := by
  obtain ⟨l', b, -, he⟩ := closeEvent_drain_quiet (s := { v with changed := l }) h.room
    (fun w hw => (h.jobs w hw).resume v.work v.late l v.broughtBy)
    (fun t ht => (h.tests t ht).resume v.work v.late l v.broughtBy)
  exact ⟨l', b, he⟩

/-- A slot whose first order has been put on its list, when its start is tested. -/
def State.headed (s : State) (c : CellId) (k : OrderKind) (i : SlotId) (l : List SlotId) : State :=
  (queueSlotOrder c k i (s.pastCell c)).resume none l

/-- A slot whose first order has started (R13). -/
def State.started (s : State) (c : CellId) (k : OrderKind) (i : SlotId) (l : List SlotId) : State :=
  ((s.headed c k i l).onBehalf c).modSlot i fun x => { x with active := true }

section
variable (s : State) (c : CellId) (k : OrderKind) (i : SlotId) (l : List SlotId)

theorem headed_slot_self : (s.headed c k i l).slot i =
    { s.slot i with orders := (s.slot i).orders ++ [⟨c, k, s.time⟩] } := queueSlotOrder_slot_self ..

theorem headed_slot_ne {j : SlotId} (hj : j ≠ i) : (s.headed c k i l).slot j = s.slot j :=
  queueSlotOrder_slot_ne _ _ _ hj

theorem started_slot_self (h : (s.slot i).orders = []) : (s.started c k i l).slot i =
    { s.slot i with orders := [⟨c, k, s.time⟩], active := true } := by
  rw [State.started, modSlot_slot_self, onBehalf_slot, headed_slot_self, h]
  rfl

theorem started_slot_ne {j : SlotId} (hj : j ≠ i) : (s.started c k i l).slot j = s.slot j := by
  rw [State.started, modSlot_slot_ne _ _ _ _ hj, onBehalf_slot, headed_slot_ne s c k i l hj]

@[simp] theorem headed_frame :
    (s.headed c k i l).time = s.time ∧ (s.headed c k i l).straps = s.straps
    ∧ (s.headed c k i l).pins = s.pins ∧ (s.headed c k i l).port = s.port
    ∧ (s.headed c k i l).mem = s.mem ∧ (s.headed c k i l).alloc = s.alloc
    ∧ (s.headed c k i l).power = s.power ∧ (s.headed c k i l).settings = s.settings
    ∧ (s.headed c k i l).history = s.history ∧ (s.headed c k i l).ports = s.ports
    ∧ (s.headed c k i l).engines = s.engines ∧ (s.headed c k i l).journal = s.journal
    ∧ (s.headed c k i l).work = [] ∧ (s.headed c k i l).late = s.late
    ∧ (s.headed c k i l).cells = s.cells.set c .taken := by
  simp [State.headed, State.resume, queueSlotOrder, State.pastCell, State.setCell]

@[simp] theorem started_frame :
    (s.started c k i l).time = s.time ∧ (s.started c k i l).straps = s.straps
    ∧ (s.started c k i l).pins = s.pins ∧ (s.started c k i l).port = s.port
    ∧ (s.started c k i l).mem = s.mem ∧ (s.started c k i l).alloc = s.alloc
    ∧ (s.started c k i l).power = s.power ∧ (s.started c k i l).settings = s.settings
    ∧ (s.started c k i l).history = s.history ∧ (s.started c k i l).ports = s.ports
    ∧ (s.started c k i l).engines = s.engines ∧ (s.started c k i l).journal = s.journal
    ∧ (s.started c k i l).work = [] ∧ (s.started c k i l).late = s.late
    ∧ (s.started c k i l).cells = s.cells.set c .taken := by
  simp [State.started]

@[simp] theorem headed_reads :
    (∀ q, (s.headed c k i l).portOf q = s.portOf q) ∧ (∀ d n, (s.headed c k i l).rd8 d n = s.rd8 d n) :=
  ⟨portOf_congr (by simp), fun _ _ => by simp [State.rd8]⟩

@[simp] theorem started_reads :
    (∀ j, (s.started c k i l).pwr j = s.pwr j) ∧ (∀ j, (s.started c k i l).engine j = s.engine j)
    ∧ (∀ j, (s.started c k i l).linkUp j = s.linkUp j) ∧ (∀ q, (s.started c k i l).portOf q = s.portOf q)
    ∧ (∀ j, (s.started c k i l).pinsOf j = s.pinsOf j) ∧ (∀ d n, (s.started c k i l).rd8 d n = s.rd8 d n)
    ∧ (∀ d n, (s.started c k i l).rd16 d n = s.rd16 d n) :=
  ⟨pwr_congr (by simp), engine_congr (by simp), linkUp_congr (by simp), portOf_congr (by simp),
    pinsOf_congr (by simp), fun _ _ => by simp [State.rd8], fun _ _ => by simp [State.rd16, State.rd8]⟩

theorem started_state (j : SlotId) : ((s.started c k i l).slot j).state = (s.slot j).state := by
  by_cases hj : j = i
  · subst hj
    rw [State.started, modSlot_slot_self, onBehalf_slot, headed_slot_self]
  · rw [started_slot_ne s c k i l hj]

theorem headed_state (j : SlotId) : ((s.headed c k i l).slot j).state = (s.slot j).state := by
  by_cases hj : j = i
  · subst hj
    rw [headed_slot_self]
  · rw [headed_slot_ne s c k i l hj]

end

/-- Cell and bytes of an order that has started: the cell is TAKEN, the bytes stand (R33, R40). -/
theorem started_cells (k : OrderKind) (l : List SlotId) : (s.started c k i l).cell c = .taken
    ∧ ∀ d, d ≠ c → (s.started c k i l).cell d = s.cell d := by
  refine ⟨?_, fun d hd => ?_⟩
  · exact (cell_congr (t := s.started c k i l) (s := s.setCell c .taken) (by simp [State.setCell]) c).trans
      (setCell_cell_self ..)
  · exact (cell_congr (t := s.started c k i l) (s := s.setCell c .taken) (by simp [State.setCell]) d).trans
      (setCell_cell_ne s c d .taken hd)

/-- The start checks of an order read the slot's record, the cell, the other hub and the ports (R44). -/
theorem startRefusal_headed (k : OrderKind) (l : List SlotId) (e : OrderEntry) :
    startRefusal i e (s.headed c k i l) = startRefusal i e s := by
  have guard : (s.headed c k i l).guardRefuses i = s.guardRefuses i := by
    simp only [State.guardRefuses, headed_state, headed_reads]
  simp only [startRefusal, startCheck, guard, headed_slot_self, State.cellCondition, State.cellForce,
    State.rd16, headed_reads]
  rfl

/-- In a settled idle slot the start of an order is tested (R13). -/
theorem startTest_headed {k : OrderKind} (hset : (s.slot i).state.settled = true) (hidle : (s.slot i).Idle)
    (l : List SlotId) : startTest i (s.headed c k i l) =
      match startRefusal i ⟨c, k, s.time⟩ s with
      | some code => refuseHead i ⟨c, k, s.time⟩ code (s.headed c k i l)
      | none => startAct i ⟨c, k, s.time⟩ (s.started c k i l) := by
  have self := headed_slot_self s c k i l
  rw [hidle.orders, List.nil_append] at self
  have orders : ((s.headed c k i l).slot i).orders = [⟨c, k, s.time⟩] := by rw [self]
  have settled : (((s.headed c k i l).slot i).state.settled && !((s.headed c k i l).slot i).active) = true := by
    rw [self, hset, hidle.active]
    rfl
  unfold startTest
  rw [orders]
  dsimp only
  rw [if_pos settled, startRefusal_headed]
  rfl

/-- The event that takes an order of an idle slot goes on from its start. -/
theorem exec_take_start {k : OrderKind} (ht : s.TakesFor c k i) (hk : k.orderClass = .slotQueued) :
    ∃ l l', exec (takeCommand (some k)) s =
      .next (closeEvent (drain 4095 { startTest i (s.headed c k i l) with changed := l' })) := by
  obtain ⟨hwork, -, -, -, hbrought⟩ := ht.toReady
  have work : (noteRecords s (queueSlotOrder c k i (s.pastCell c))).work = [⟨.start i, none⟩] := by
    refine (queueSlotOrder_work ..).trans ?_
    rw [show (s.pastCell c).work = [] from hwork, show (s.pastCell c).broughtBy = none from hbrought]
    rfl
  obtain ⟨l, hd⟩ := drain_cons (n := Config.workBound) (by simp [Config.workBound]) work
  refine ⟨(noteRecords s (queueSlotOrder c k i (s.pastCell c))).changed, l, (exec_take_queued ht hk).trans
    (congrArg Host.Outcome.next (congrArg closeEvent (hd.trans ?_)))⟩
  dsimp only
  rw [List.append_nil]
  rfl

/-- The event of an order that starts in an idle slot, when nothing follows its start. -/
theorem exec_take_starts {k : OrderKind} (ht : s.TakesFor c k i) (hk : k.orderClass = .slotQueued)
    (hset : (s.slot i).state.settled = true) (hidle : (s.slot i).Idle)
    (hpass : startRefusal i ⟨c, k, s.time⟩ s = none)
    (hend : ∀ l, (startAct i ⟨c, k, s.time⟩ (s.started c k i l)).AtEnd 4095) :
    ∃ l l' b, exec (takeCommand (some k)) s =
      .next ((startAct i ⟨c, k, s.time⟩ (s.started c k i l)).ended l' b) := by
  obtain ⟨l, l', he⟩ := exec_take_start ht hk
  obtain ⟨l'', b, hclose⟩ := (hend l).ends l'
  refine ⟨l, l'', b, he.trans (congrArg Host.Outcome.next ?_)⟩
  rw [startTest_headed hset hidle, hpass]
  exact hclose

/-! ### SURVEY and CLEAR-FAULT -/

/-- A condition that matches and a state the kind acts in leave the kind's own checks (R44). -/
theorem startRefusal_checks {e : OrderEntry} (hcond : conditionMatches (s.cellCondition e.cell) (s.slot i).gen = true)
    (hallows : e.kind.allows (s.slot i).state = true) : startRefusal i e s = startCheck i e s := by
  rw [startRefusal, hcond, hallows]
  rfl

/-- Settles O26. -/
theorem surveyStarts : Obligations.SurveyStarts := by
  intro s c i hinv hq ht hstate hidle hcond
  have hlate := ht.late
  have self := fun l => started_slot_self s c .survey i l hidle.orders
  have pass : startRefusal i ⟨c, .survey, s.time⟩ s = none :=
    startRefusal_checks (e := ⟨c, .survey, s.time⟩) hcond (by rw [hstate]; rfl)
  have shut : ∀ l, ((changeState i .surveying .order (some ((s.started c .survey i l).cellTag c))
      (s.started c .survey i l)).slot i).state.offering = false := fun l => by
    rw [changeState_slot_self]
    rfl
  obtain ⟨l, l', b, he⟩ := exec_take_starts ht rfl (by rw [hstate]; rfl) hidle
    pass fun l => by
    obtain ⟨-, -, -, -, -, -, -, -, work, late⟩ := enterSurveying_frame (shut l)
    exact .of_jobs (js := []) (jobs_nil (work.trans (by simp))) (late.trans (by simpa using hlate))
      (Nat.zero_le _) (fun _ h => absurd h List.not_mem_nil)
  obtain ⟨slot, link, carries⟩ := enterSurveying_leaves (shut l)
  obtain ⟨slots, engines, -, cells, mem, alloc, power, ports, -, -⟩ := enterSurveying_frame (shut l)
  obtain ⟨taken, others⟩ := started_cells (s := s) (c := c) (i := i) .survey l
  rw [changeState_slot_self, self] at slot
  have cell : ∀ d, ((startAct i ⟨c, .survey, s.time⟩ (s.started c .survey i l)).ended l' b).cell d =
      (s.started c .survey i l).cell d := fun d => by
    rw [(ended_reads _ l' b).2.2.2.2.2.1]
    exact cell_congr (cells.trans (by simp)) d
  refine ⟨_, he, ?_, ?_, ?_, ?_, ?_, ?_, ?_, ?_, ?_, ?_, ?_, ?_, ?_, ?_, fun d hd => ?_, ?_, ?_, ?_,
    ended_otherSlots l' b fun j hj => ?_, fun j hj => ?_⟩
  · simp [startAct, startSurvey, slot, Slot.surveyed, Slot.enter]
  · simp [startAct, startSurvey, slot, Slot.surveyed, Slot.enter, hstate]
  · simp [startAct, startSurvey, slot, Slot.surveyed, Slot.enter]
  · simp [startAct, startSurvey, slot, Slot.surveyed, Slot.enter]
  · simp [startAct, startSurvey, slot, Slot.surveyed]
  · simp [startAct, startSurvey, slot, Slot.surveyed]
  · simp [startAct, startSurvey, slot, Slot.surveyed]
  · simp [startAct, startSurvey, slot, Slot.surveyed]
  · simp [startAct, startSurvey, slot, Slot.surveyed, Slot.enter]
  · simp [startAct, startSurvey, slot, Slot.surveyed, Slot.enter]
  · simpa [startAct, startSurvey] using link
  · simpa [startAct, startSurvey] using carries
  · exact (cell c).trans taken
  · simp [startAct, startSurvey, mem]
  · exact (cell d).trans (others d hd)
  · simp [startAct, startSurvey, power]
  · simp [startAct, startSurvey, alloc]
  · simp [startAct, startSurvey, ports]
  · exact (slots j hj).trans ((changeState_slot_ne _ _ _ _ _ hj).trans (started_slot_ne s c .survey i l hj))
  · simp [startAct, startSurvey, engines j hj, hj]

/-- The one order of a slot finishes, and the tests that follow are brought (R13, R28, R46): what that leaves,
with no handle request latched. -/
theorem testNext_finish_leaves {e : OrderEntry} (hm : Memory.wf u.mem = true) (ho : (u.slot i).orders = [e])
    (ha : (u.slot i).active = true) (o : OrderOutcome) (x : Option FaultCause) (data : List Byte) :
    let v := testNext i (finishActive i o x data u)
    v.slot i = { u.slot i with orders := [], active := false, read := none }
    ∧ v.Finished e.cell o.code (faultByte x) (u.slot i).state.code (u.slot i).gen
    ∧ OtherCells e.cell u v ∧ v.jobs = u.jobs ++ [.start i, .handle i] := by
  intro v
  obtain ⟨done, others⟩ := finishActive_cells hm ha ho o x data
  have kept : CellsKept (finishActive i o x data u) v := ⟨rfl, rfl⟩
  refine ⟨?_, done.of_kept kept, others.trans (kept.otherCells _), ?_⟩
  · refine (finishActive_slot_self u i o x data).trans ?_
    simp only [Slot.finished, ha, ho, Slot.dropHead, List.tail_cons]
  · exact (raise_jobs ..).trans (by rw [jobs_congr (t := finishActive i o x data u) (s := u) (by simp)])

/-- With no request latched nothing follows the finish of a slot's one order. -/
theorem testNext_finish_atEnd {e : OrderEntry} {n : Nat} (hm : Memory.wf u.mem = true)
    (ho : (u.slot i).orders = [e]) (ha : (u.slot i).active = true) (hlatch : (u.slot i).latch = false)
    (hwork : u.work = []) (hlate : u.late = []) (hn : 2 ≤ n) (o : OrderOutcome) (x : Option FaultCause)
    (data : List Byte) : (testNext i (finishActive i o x data u)).AtEnd n := by
  obtain ⟨slot, -, -, jobs⟩ := testNext_finish_leaves hm ho ha o x data
  rw [jobs_nil hwork] at jobs
  refine .of_jobs jobs (by simpa [testNext] using hlate) hn fun j hj => ?_
  simp only [List.nil_append, List.mem_cons, List.not_mem_nil, or_false] at hj
  obtain rfl | rfl := hj
  · exact .inl (by rw [slot])
  · exact handleActs_unlatched (by rw [slot]; exact hlatch)

/-- The state in which a CLEAR-FAULT of cell `c` finishes (R52). -/
def State.faultCleared (s : State) (i : SlotId) (c : CellId) : State :=
  if (s.slot i).state = .faulted then
    changeState i .parked .order (some (s.cellTag c)) (s.modSlot i Slot.clearFault)
  else if (s.slot i).fault = none then s
  else s.modSlot i Slot.clearFault

/-- The slot after a CLEAR-FAULT (R52). -/
def Slot.faultCleared (x : Slot) (now : Time) : Slot :=
  if x.state = .faulted then (x.clearFault).enter now .parked
  else if x.fault = none then x
  else x.clearFault

theorem startClearFault_eq (s : State) : startClearFault i c s =
    testNext i (finishActive i
      (if (s.slot i).state ≠ .faulted ∧ (s.slot i).fault = none then .nothing else .done) none []
      (s.faultCleared i c)) := by
  unfold startClearFault State.faultCleared
  by_cases hf : (s.slot i).state = .faulted
  · simp only [hf, if_true, ne_eq, not_true_eq_false, false_and, if_false]
  · by_cases hn : (s.slot i).fault = none
    · simp only [hf, hn, if_true, if_false, ne_eq, not_false_eq_true, and_self]
    · simp only [hf, hn, if_false, ne_eq, and_false]

theorem faultCleared_slot_self (s : State) :
    (s.faultCleared i c).slot i = (s.slot i).faultCleared s.time := by
  unfold State.faultCleared Slot.faultCleared
  split
  · simp
  · split <;> simp

theorem faultCleared_frame (s : State) : (∀ j, j ≠ i → (s.faultCleared i c).slot j = s.slot j)
    ∧ (∀ j, j ≠ i → (s.faultCleared i c).engine j = s.engine j)
    ∧ (s.faultCleared i c).cells = s.cells ∧ (s.faultCleared i c).mem = s.mem
    ∧ (s.faultCleared i c).alloc = s.alloc ∧ (s.faultCleared i c).power = s.power
    ∧ (s.faultCleared i c).ports = s.ports ∧ (s.faultCleared i c).work = s.work
    ∧ (s.faultCleared i c).late = s.late := by
  unfold State.faultCleared
  split
  · refine ⟨fun j hj => ?_, fun j hj => ?_, ?_⟩
    all_goals simp_all
  · split
    · simp
    · refine ⟨fun j hj => ?_, fun j hj => ?_, ?_⟩
      all_goals simp_all

/-- The cells of the event of an order that starts and finishes in an idle slot: its own shows the finish, the
others are as they were. -/
theorem started_finish_cells {k : OrderKind} {l : List SlotId} {v : State}
    (hcells : CellsKept (s.started c k i l) u) (hv : OtherCells c u v) : OtherCells c s v := by
  obtain ⟨-, others⟩ := started_cells (s := s) (c := c) (i := i) k l
  have start : OtherCells c s (s.started c k i l) :=
    ⟨others, fun a _ => by rw [show (s.started c k i l).mem = s.mem by simp]⟩
  exact start.trans ((hcells.otherCells c).trans hv)

/-- Settles O28. -/
theorem clearFaultActs : Obligations.ClearFaultActs := by
  intro s c i hinv hq ht hset hidle hcond
  have hlate := ht.late
  have pass : startRefusal i ⟨c, .clearFault, s.time⟩ s = none :=
    startRefusal_checks (e := ⟨c, .clearFault, s.time⟩) hcond hset
  let u := fun l => (s.started c .clearFault i l).faultCleared i c
  let o : OrderOutcome :=
    if (s.slot i).state ≠ .faulted ∧ (s.slot i).fault = none then .nothing else .done
  have self : ∀ l, (u l).slot i =
      ({ s.slot i with orders := [⟨c, .clearFault, s.time⟩], active := true } : Slot).faultCleared s.time :=
    fun l => by
      rw [faultCleared_slot_self, started_slot_self s c .clearFault i l hidle.orders]
      simp
  have act : ∀ l, startAct i ⟨c, .clearFault, s.time⟩ (s.started c .clearFault i l) =
      testNext i (finishActive i o none [] (u l)) := fun l => by
    refine (startClearFault_eq _).trans ?_
    rw [started_slot_self s c .clearFault i l hidle.orders]
  have shape : ∀ l, ((u l).slot i).orders = [⟨c, .clearFault, s.time⟩] ∧ ((u l).slot i).active = true
      ∧ ((u l).slot i).latch = false := fun l => by
    rw [self, Slot.faultCleared]
    split
    · exact ⟨rfl, rfl, by simp [Slot.enter, Slot.clearFault, hidle.latch]⟩
    · split <;> exact ⟨rfl, rfl, hidle.latch⟩
  have frame := fun l => faultCleared_frame (i := i) (c := c) (s.started c .clearFault i l)
  have hm : ∀ l, Memory.wf (u l).mem = true := fun l => by
    obtain ⟨-, -, -, mem, -⟩ := frame l
    rw [mem, (started_frame ..).2.2.2.2.1]
    exact hinv.mem
  obtain ⟨l, l', b, he⟩ := exec_take_starts ht rfl hset hidle pass fun l => by
    obtain ⟨-, -, -, -, -, -, -, work, late⟩ := frame l
    obtain ⟨ho, ha, hlatch⟩ := shape l
    rw [act l]
    exact testNext_finish_atEnd (hm l) ho ha hlatch (by simp [u, work]) (by simp [u, late, hlate])
      (by omega) o none []
  obtain ⟨ho, ha, -⟩ := shape l
  obtain ⟨slot, done, others, -⟩ := testNext_finish_leaves (hm l) ho ha o none []
  obtain ⟨slots, engines, cells, mem, alloc, power, ports, -, -⟩ := frame l
  rw [act l] at he
  have done := done.of_kept (ended_cellsKept _ l' b)
  have others := started_finish_cells (s := s) (i := i) ⟨cells, mem⟩ others
  have fields : ((u l).slot i).state = (if (s.slot i).state = .faulted then .parked else (s.slot i).state)
      ∧ ((u l).slot i).gen = (if (s.slot i).state = .faulted then nextGeneration (s.slot i).gen
        else (s.slot i).gen)
      ∧ ((u l).slot i).fault = none
      ∧ ((u l).slot i).faultTime = (if (s.slot i).state ≠ .faulted ∧ (s.slot i).fault = none
        then (s.slot i).faultTime else 0) := by
    rw [self, Slot.faultCleared]
    by_cases hf : (s.slot i).state = .faulted
    · simp [hf, Slot.enter, Slot.clearFault]
    · by_cases hn : (s.slot i).fault = none <;> simp [hf, hn, Slot.clearFault]
  obtain ⟨state, gen, fault, faultTime⟩ := fields
  refine ⟨_, he, done.cell, ?_, ?_, ?_, ?_, ?_, ?_, ?_, ?_, ?_,
    others.trans ((ended_cellsKept _ l' b).otherCells c), ?_, ?_, ?_,
    ended_otherSlots l' b fun j hj => ?_, fun j hj => ?_⟩
  · rw [done.code]
    exact apply_ite OrderOutcome.code ..
  · simpa [slot] using fault
  · simpa [slot] using faultTime
  · simpa [slot] using state
  · simpa [slot] using gen
  · rw [done.state]
    simp [slot]
  · rw [done.gen]
    simp [slot]
  · simp [slot]
  · simp [slot]
  · simp [testNext, u, power]
  · simp [testNext, u, alloc]
  · simp [testNext, u, ports]
  · rw [testNext, raise_slot, finishActive_slot_ne _ _ _ _ _ hj]
    exact (slots j hj).trans (started_slot_ne s c .clearFault i l hj)
  · simp [testNext, u, engines j hj]

end Sys2Proof.Machine

/-! READ-IDENTITY (R51, R155), and what an answer leaves that ends its request (R131, R132). -/

namespace Sys2Proof.Machine

variable {s t u v : State} {i : SlotId} {c d : CellId}

/-! ### The end of an answered request -/

/-- The line of a slot's link is free again, and the engine goes on (R132). -/
def State.freed (u : State) (i : SlotId) : State :=
  u.modEngine i fun e => ({ e with out := none } : Engine).serve u.time

/-- A live request's answer is delivered, and the line is free (R131, R132). -/
theorem takeReply_live {o : Outstanding} {r : Reply} (hlive : o.live = true)
    (hask : o.msg.isNotification = false) (hprobe : o.msg ≠ .probe) :
    takeReply i o r s = (deliver i o r s).freed i := by
  unfold takeReply
  rw [if_pos (by rw [hlive, hask]; rfl), afterRequest, if_neg hprobe]
  exact modEngine_modEngine ..

/-- The frame that answers a live request, no PROBE, delivers the answer and frees the line. -/
theorem frameTaken_live {o : Outstanding} {f : List Byte} {r : Reply} (ho : (s.engine i).out = some o)
    (hf : judgeReply o.msg o.seq f = some r) (hlive : o.live = true) (hask : o.msg.isNotification = false)
    (hprobe : o.msg ≠ .probe) : frameTaken i f s = (deliver i o r s).freed i :=
  (frameTaken_reply ho hf).trans (takeReply_live hlive hask hprobe)

theorem Job.Idle.freed {j : Job} (h : j.Idle u) : j.Idle (u.freed i) := by cases j <;> exact h

theorem LateIdle.freed {k : SlotId} (h : LateIdle u k) : LateIdle (u.freed i) k := h

theorem State.AtEnd.freed {n : Nat} (h : u.AtEnd n) : (u.freed i).AtEnd n :=
  ⟨h.room, fun w hw => (h.jobs w hw).freed, fun t ht => (h.tests t ht).freed⟩

/-- A live event whose act stands at its end. -/
theorem State.AtEnd.liveEvent {act : State → State} (h : u.AtEnd 4096) (hl : s.Live) (hact : act s = u) :
    ∃ l b, (∀ i, i ∈ l ↔ u.recordView i ≠ s.recordView i) ∧ liveEvent act s = u.ended l b :=
  liveEvent_quiet hl hact h.room h.jobs h.tests

/-- A message that waits in the queue is carried when the line is free. -/
theorem carries_freed {m : Msg} (h : ∃ q ∈ (u.engine i).queue, q.msg = m) :
    ((u.freed i).engine i).Carries m := by
  rw [State.freed, modEngine_engine_self]
  exact Engine.Carries.serve _ (.inl h)

/-- An own request placed on a line that is not free waits in the queue (R132). -/
theorem placeOwn_waits (hup : s.linkUp i = true) (hbusy : (s.engine i).out ≠ none) (m : Msg) :
    (placeOwn i m s).engine i =
      { s.engine i with queue := (s.engine i).queue ++ [⟨m, .sequencer, none⟩] } := by
  have up : (s.engine i).link = .up := of_decide_eq_true hup
  rw [placeOwn_eq, modEngine_engine_self, Engine.owned, if_pos up, Engine.join, if_pos up]
  exact serve_nothing (.inr (.inl hbusy))

/-! ### READ-IDENTITY -/

/-- In a settled state neither a survey nor a stamp is under way (R151, R156). -/
theorem Inv.settled (h : Inv s) (hset : (s.slot i).state.settled = true) :
    (s.slot i).survey = none ∧ (s.slot i).stamp = none := by
  have lawful := h.slots i
  constructor
  · refine Option.not_isSome_iff_eq_none.mp fun hs => ?_
    rw [lawful.survey hs] at hset
    cases hset
  · refine Option.not_isSome_iff_eq_none.mp fun hs => ?_
    rw [lawful.stamp hs] at hset
    cases hset

/-- A page returned by the blade goes to the read under way (R51, R155). -/
theorem deliver_page {o : Outstanding} {r : Reply} {x : PageRead} {page : Fin 8} (hmsg : o.msg = .identPage page)
    (hok : r.answer = .ok) (hstamp : (s.slot i).stamp = none) (hsurvey : (s.slot i).survey = none)
    (hread : (s.slot i).read = some x) : deliver i o r s = readPage i x r.payload s := by
  simp only [deliver, hmsg, ownAnswer, hstamp, hok, hsurvey, hread]

theorem readPage_last {x : PageRead} {page : List Byte} (h : x.left = 0) :
    readPage i x page s = testNext i (finishActive i .done none (x.data ++ page) s) := if_pos h

theorem readPage_more {x : PageRead} {page : List Byte} (h : x.left ≠ 0) :
    readPage i x page s = placeOwn i (.identPage (x.page + 1)) (s.modSlot i fun y =>
      { y with read := some ⟨x.page + 1, x.left - 1, x.data ++ page⟩ }) := if_neg h

/-- The data of a finish as they stand in its cell, zero beyond them (R35, R203). -/
theorem finishCell_data (hm : Memory.wf s.mem = true) (c : CellId) (i : SlotId) (o : OrderOutcome)
    (taken : Time) (fault : Option FaultCause) (data : List Byte) {k : Nat} (hk : k < 64) :
    (finishCell c i o taken fault data s).rd8 c (0x40 + k) = byteAt data k := by
  rw [show 0x40 + k = 0x1C + (36 + k) by omega]
  exact (writeResult_rd8 _ _ _ hm (by omega)).trans (CellResult.bytes_data _ _ hk)

theorem finishActive_data {e : OrderEntry} {es : List OrderEntry} (hm : Memory.wf s.mem = true)
    (ho : (s.slot i).orders = e :: es) (ha : (s.slot i).active = true) (o : OrderOutcome)
    (x : Option FaultCause) (data : List Byte) {k : Nat} (hk : k < 64) :
    (finishActive i o x data s).rd8 e.cell (0x40 + k) = byteAt data k := by
  rw [finishActive_head ha ho]
  exact finishCell_data (s := s.modSlot i Slot.dropHead) hm _ _ _ _ _ _ hk

theorem byteAt_nil (k : Nat) : byteAt [] k = 0 := by simp [byteAt]

/-- The start of a READ-IDENTITY in an idle settled slot (R51). -/
theorem readIdentity_starts {s : State} {c : CellId} {i : SlotId} (hinv : Inv s) (ht : s.TakesFor c .readIdentity i)
    (hset : (s.slot i).state.settled = true) (hidle : (s.slot i).Idle)
    (hcond : conditionMatches (s.cellCondition c) (s.slot i).gen = true) :
    ∃ t, exec .readIdentity s = .next t
    ∧ (s.linkUp i = true → t.cell c = .taken ∧ t.mem = s.mem
        ∧ (t.slot i).Like { s.slot i with
            orders := [⟨c, .readIdentity, s.time⟩], active := true,
            read := some ⟨Fin.ofNat 8 (s.readFirst c), s.readCountParam c - 1, []⟩ }
        ∧ (t.engine i).Carries (.identPage (Fin.ofNat 8 (s.readFirst c))))
    ∧ (s.linkUp i = false → t.cell c = .finished ∧ t.rd8 c 0x1C = OrderOutcome.linkLost.code
        ∧ (∀ k, k < 64 → t.rd8 c (0x40 + k) = 0)
        ∧ (t.slot i).Like { s.slot i with read := none } ∧ t.engine i = s.engine i)
    ∧ OtherCells c s t ∧ t.power = s.power ∧ t.alloc = s.alloc ∧ t.ports = s.ports
    ∧ t.journal = s.journal ∧ OtherSlots i s t ∧ OtherEngines i s t := by
  have hlate := ht.late
  have pass : startRefusal i ⟨c, .readIdentity, s.time⟩ s = none :=
    startRefusal_checks (e := ⟨c, .readIdentity, s.time⟩) hcond hset
  have self := fun l => started_slot_self s c .readIdentity i l hidle.orders
  cases hup : s.linkUp i
  · have act : ∀ l, startAct i ⟨c, .readIdentity, s.time⟩ (s.started c .readIdentity i l) =
        testNext i (finishActive i .linkLost none [] (s.started c .readIdentity i l)) := fun l =>
      if_neg (by simp [hup])
    have hm : ∀ l, Memory.wf (s.started c .readIdentity i l).mem = true := fun l => by simpa using hinv.mem
    have ho : ∀ l, ((s.started c .readIdentity i l).slot i).orders = [⟨c, .readIdentity, s.time⟩] :=
      fun l => by rw [self]
    have ha : ∀ l, ((s.started c .readIdentity i l).slot i).active = true := fun l => by rw [self]
    obtain ⟨l, l', b, he⟩ := exec_take_starts ht rfl hset hidle pass fun l => by
      rw [act l]
      exact testNext_finish_atEnd (hm l) (ho l) (ha l) (by rw [self]; exact hidle.latch) (by simp)
        (by simp [hlate]) (by omega) .linkLost none []
    rw [act l] at he
    obtain ⟨slot, done, others, -⟩ := testNext_finish_leaves (hm l) (ho l) (ha l) .linkLost none []
    have done := done.of_kept (ended_cellsKept _ l' b)
    have others := (started_finish_cells (s := s) (i := i) ⟨rfl, rfl⟩ others).trans
      ((ended_cellsKept _ l' b).otherCells c)
    refine ⟨_, he, nofun, fun _ => ⟨done.cell, done.code, fun k hk => ?_, ?_, ?_⟩, others, ?_, ?_, ?_, ?_,
      ended_otherSlots l' b fun j hj => ?_, fun j hj => ?_⟩
    · rw [ended_rd8]
      exact (finishActive_data (hm l) (ho l) (ha l) .linkLost none [] hk).trans (byteAt_nil k)
    · rw [(ended_reads _ l' b).1, slot, self, ← hidle.orders, ← hidle.active]
      exact Slot.written_like _ _
    · simp [testNext]
    · simp [testNext]
    · simp [testNext]
    · simp [testNext]
    · simp [testNext]
    · rw [testNext, raise_slot, finishActive_slot_ne _ _ _ _ _ hj]
      exact started_slot_ne s c .readIdentity i l hj
    · simp [testNext]
  · let page : Fin 8 := Fin.ofNat 8 (s.readFirst c)
    let v := fun l => placeOwn i (.identPage page) ((s.started c .readIdentity i l).modSlot i fun x =>
      { x with read := some ⟨page, s.readCountParam c - 1, []⟩ })
    have act : ∀ l, startAct i ⟨c, .readIdentity, s.time⟩ (s.started c .readIdentity i l) = v l := fun l => by
      refine (if_pos (by simp [hup])).trans ?_
      simp only [State.readFirst, State.readCountParam, started_reads]
      rfl
    obtain ⟨l, l', b, he⟩ := exec_take_starts ht rfl hset hidle pass fun l => by
      rw [act l]
      exact .of_jobs (js := []) (jobs_nil (by simp [v])) (by simp [v, hlate]) (Nat.zero_le _)
        (fun _ h => absurd h List.not_mem_nil)
    rw [act l] at he
    obtain ⟨taken, others⟩ := started_cells (s := s) (c := c) (i := i) .readIdentity l
    have cells : CellsKept (s.started c .readIdentity i l) ((v l).ended l' b) := by simp [CellsKept, v]
    have start : OtherCells c s (s.started c .readIdentity i l) :=
      ⟨others, fun a _ => by rw [show (s.started c .readIdentity i l).mem = s.mem by simp]⟩
    refine ⟨_, he, fun _ => ⟨?_, ?_, ?_, ?_⟩, nofun, start.trans (cells.otherCells c), ?_, ?_, ?_, ?_,
      ended_otherSlots l' b fun j hj => ?_, fun j hj => ?_⟩
    · exact (cell_congr cells.1 c).trans taken
    · simp [v]
    · rw [(ended_reads _ l' b).1, (placeOwn_reads ..).1, modSlot_slot_self, self]
      exact Slot.written_like _ _
    · rw [(ended_reads _ l' b).2.2.1]
      exact carries_placeOwn (by simp [hup]) _
    · simp [v]
    · simp [v]
    · simp [v]
    · simp [v]
    · rw [(placeOwn_reads ..).1, modSlot_slot_ne _ _ _ _ hj]
      exact started_slot_ne s c .readIdentity i l hj
    · simp [v, hj]

/-- A page that a READ-IDENTITY waits for (R51, R155). -/
theorem readIdentity_page {s : State} {i : SlotId} {e : OrderEntry} {d : PageRead} {o : Outstanding}
    {f : List Byte} {r : Reply} (hinv : Inv s) (hl : s.Live) (hset : (s.slot i).state.settled = true)
    (hlatch : (s.slot i).latch = false) (ho : (s.slot i).orders = [e]) (ha : (s.slot i).active = true)
    (hread : (s.slot i).read = some d) (hup : s.linkUp i = true) (hout : (s.engine i).out = some o)
    (hlive : o.live = true) (hmsg : o.msg = .identPage d.page) (hf : judgeReply o.msg o.seq f = some r)
    (hok : r.answer = .ok) :
    ∃ t, exec (.frameArrival i f) s = .next t
    ∧ (d.left ≠ 0 → CellsKept s t ∧ (t.slot i).Like { s.slot i with
          read := some ⟨d.page + 1, d.left - 1, d.data ++ r.payload⟩ }
        ∧ (t.engine i).Carries (.identPage (d.page + 1)))
    ∧ (d.left = 0 → t.cell e.cell = .finished ∧ t.rd8 e.cell 0x1C = OrderOutcome.done.code
        ∧ t.rd8 e.cell 0x1E = (s.slot i).state.code ∧ t.rd16 e.cell 0x28 = (s.slot i).gen
        ∧ (∀ k, k < 64 → t.rd8 e.cell (0x40 + k) = byteAt (d.data ++ r.payload) k)
        ∧ (t.slot i).Like { s.slot i with orders := [], active := false, read := none })
    ∧ OtherCells e.cell s t ∧ t.power = s.power ∧ t.alloc = s.alloc ∧ t.ports = s.ports
    ∧ t.journal = s.journal ∧ OtherSlots i s t ∧ OtherEngines i s t := by
  obtain ⟨hwork, hlate, -, -, -⟩ := hl.toReady
  obtain ⟨hsurvey, hstamp⟩ := hinv.settled hset
  have delivered : frameTaken i f s = (readPage i d r.payload s).freed i := by
    rw [frameTaken_live hout hf hlive (by rw [hmsg]; rfl) (by rw [hmsg]; exact nofun),
      deliver_page hmsg hok hstamp hsurvey hread]
  by_cases hlast : d.left = 0
  · let u := testNext i (finishActive i .done none (d.data ++ r.payload) s)
    have act : frameTaken i f s = u.freed i := delivered.trans (congrArg (State.freed · i) (readPage_last hlast))
    have atEnd : u.AtEnd 4096 :=
      testNext_finish_atEnd hinv.mem ho ha hlatch hwork hlate (by omega) .done none (d.data ++ r.payload)
    obtain ⟨l, b, -, he⟩ := (atEnd.freed (i := i)).liveEvent hl act
    obtain ⟨slot, done, others, -⟩ := testNext_finish_leaves hinv.mem ho ha .done none (d.data ++ r.payload)
    have kept : CellsKept u ((u.freed i).ended l b) := by simp [CellsKept, State.freed]
    have done := done.of_kept kept
    refine ⟨_, congrArg Host.Outcome.next he, fun h => absurd hlast h,
      fun _ => ⟨done.cell, done.code, done.state, done.gen, fun k hk => ?_, ?_⟩,
      others.trans (kept.otherCells _), ?_, ?_, ?_, ?_, ended_otherSlots l b fun j hj => ?_, fun j hj => ?_⟩
    · rw [ended_rd8]
      exact finishActive_data hinv.mem ho ha .done none _ hk
    · rw [(ended_reads _ l b).1, State.freed, modEngine_slot, slot]
      exact Slot.written_like _ _
    · simp [State.freed, u, testNext]
    · simp [State.freed, u, testNext]
    · simp [State.freed, u, testNext]
    · simp [State.freed, u, testNext]
    · simp [State.freed, u, testNext, hj]
    · simp [State.freed, u, testNext, hj]
  · let x : PageRead := ⟨d.page + 1, d.left - 1, d.data ++ r.payload⟩
    let u := placeOwn i (.identPage (d.page + 1)) (s.modSlot i fun y => { y with read := some x })
    have act : frameTaken i f s = u.freed i := delivered.trans (congrArg (State.freed · i) (readPage_more hlast))
    have atEnd : u.AtEnd 4096 := .of_jobs (js := []) (jobs_nil (by simp [u, hwork])) (by simp [u, hlate])
      (Nat.zero_le _) (fun _ h => absurd h List.not_mem_nil)
    obtain ⟨l, b, -, he⟩ := (atEnd.freed (i := i)).liveEvent hl act
    have kept : CellsKept s ((u.freed i).ended l b) := by simp [CellsKept, State.freed, u]
    have engine : (u.engine i) = { s.engine i with
        queue := (s.engine i).queue ++ [⟨.identPage (d.page + 1), .sequencer, none⟩] } :=
      placeOwn_waits (s := s.modSlot i fun y => { y with read := some x }) hup (by simp [hout]) _
    refine ⟨_, congrArg Host.Outcome.next he, fun _ => ⟨kept, ?_, ?_⟩, fun h => absurd h hlast,
      kept.otherCells _, ?_, ?_, ?_, ?_, ended_otherSlots l b fun j hj => ?_, fun j hj => ?_⟩
    · rw [(ended_reads _ l b).1, State.freed, modEngine_slot, (placeOwn_reads ..).1, modSlot_slot_self]
      exact Slot.written_like _ _
    · rw [(ended_reads _ l b).2.2.1]
      refine carries_freed ?_
      rw [engine]
      exact ⟨_, List.mem_append_right _ (List.mem_singleton_self _), rfl⟩
    · simp [State.freed, u]
    · simp [State.freed, u]
    · simp [State.freed, u]
    · simp [State.freed, u]
    · simp [State.freed, u, hj]
    · simp [State.freed, u, hj]

/-- Settles O27. -/
theorem readIdentityStarts : Obligations.ReadIdentityStarts :=
  ⟨fun _ _ _ hinv _ ht hset hidle hcond => readIdentity_starts hinv ht hset hidle hcond,
    fun _ _ _ _ _ _ _ hinv hl hset hlatch ho ha _ hread hup hout hlive hmsg hf hok =>
      readIdentity_page hinv hl hset hlatch ho ha hread hup hout hlive hmsg hf hok⟩

/-! ### Orders refused at their start (R44, R45, R123) -/

/-- The checks of an order's start, in their order (R44). -/
theorem startRefusal_eq (k : OrderKind) :
    startRefusal i ⟨c, k, s.time⟩ s =
      if conditionMatches (s.cellCondition c) (s.slot i).gen = false then some .stale
      else if k.allows (s.slot i).state = false then some .wrongState
      else if k = .admitBlade ∧ (s.slot i).idStatus ≠ .valid then some .identityInvalid
      else if k = .admitBlade ∧ kindMatches i (s.slot i).ident.kind = false then some .kindMismatch
      else if k = .retire ∧ s.guardRefuses i = true ∧ s.cellForce c = false then some .lastHub
      else none := by
  simp only [startRefusal, Bool.not_eq_true']
  refine ite_congr rfl (fun _ => rfl) fun _ => ite_congr rfl (fun _ => rfl) fun _ => ?_
  cases k
  case admitBlade => simp [startCheck]
  case retire => simp [startCheck]
  all_goals rfl

theorem guardRefuses_iff (s : State) (i : SlotId) : s.guardRefuses i = true ↔
    isHub i = true ∧ (s.slot (otherHub i)).state ≠ .inService
    ∧ ∃ p, hubSlot p = i
      ∧ ((s.portOf p).state = .opened ∨ (s.portOf p).state = .opening ∨ (s.portOf p).state = .closing) := by
  simp only [State.guardRefuses, Bool.and_eq_true, decide_eq_true_iff, List.any_eq_true, Bool.or_eq_true,
    and_assoc, or_assoc]
  refine and_congr_right fun hhub => and_congr_right fun _ => exists_congr fun p => and_congr_left fun _ => ?_
  rw [mem_slotPorts, or_iff_right fun hnode => ?_]
  rw [← hnode] at hhub
  have hlt := p.node.isLt
  have hge : 14 ≤ p.node.val := of_decide_eq_true hhub
  omega

/-- Settles O24. -/
theorem startRefuses : Obligations.StartRefuses := by
  refine ⟨fun s c k i code hinv hq ht hk hset hidle hcode => ?_, guardRefuses_iff⟩
  have hlate := ht.late
  have refused : startRefusal i ⟨c, k, s.time⟩ s = some code := (startRefusal_eq k).trans hcode
  let u := fun l => (s.headed c k i l).modSlot i Slot.dropHead
  let v := fun l => refuseHead i ⟨c, k, s.time⟩ code (s.headed c k i l)
  have self : ∀ l, (u l).slot i = { s.slot i with orders := [], active := false, read := none } := fun l => by
    rw [modSlot_slot_self, headed_slot_self, hidle.orders]
    rfl
  have hm : ∀ l, Memory.wf (u l).mem = true := fun l => by simpa [u] using hinv.mem
  have vself : ∀ l, (v l).slot i = (u l).slot i := fun l => by simp [v, u, refuseHead]
  obtain ⟨l, l', he⟩ := exec_take_start ht hk
  obtain ⟨l'', b, hclose⟩ := State.AtEnd.ends (v := v l) (n := 4095)
    (.of_jobs (js := [.start i]) ((raise_jobs ..).trans (by
        rw [jobs_nil (s := refuseCell c code (some i) s.time (u l)) (by simp [u])]
        rfl))
      (by simp [v, refuseHead, hlate]) (by simp) (by
        intro j hj
        obtain rfl := List.mem_singleton.mp hj
        exact .inl (by rw [vself, self]))) l'
  have done : exec (takeCommand (some k)) s = .next ((v l).ended l'' b) := by
    refine he.trans (congrArg Host.Outcome.next ?_)
    rw [startTest_headed hset hidle, refused]
    exact hclose
  have head : (s.headed c k i l).cell c = .taken ∧ OtherCells c s (s.headed c k i l) := by
    have cells : (s.headed c k i l).cells = (s.setCell c .taken).cells := by simp [State.setCell]
    refine ⟨(cell_congr cells c).trans (setCell_cell_self ..), fun d hd => ?_, fun a _ => by simp⟩
    exact (cell_congr cells d).trans (setCell_cell_ne s c d .taken hd)
  have kept : CellsKept (refuseCell c code (some i) s.time (u l)) ((v l).ended l'' b) := by
    simp [CellsKept, v, u, refuseHead]
  have others : OtherCells c (u l) (refuseCell c code (some i) s.time (u l)) :=
    writeResult_otherCells _ _ _ (hm l)
  have bytes : ∀ n, ((v l).ended l'' b).rd8 c n = (refuseCell c code (some i) s.time (u l)).rd8 c n :=
    fun n => by rw [State.rd8, kept.2, State.rd8]
  have word : ((v l).ended l'' b).rd16 c 0x28 = (refuseCell c code (some i) s.time (u l)).rd16 c 0x28 := by
    rw [State.rd16, bytes, bytes, State.rd16]
  have long : ∀ n, ((v l).ended l'' b).rd32 c n = (refuseCell c code (some i) s.time (u l)).rd32 c n :=
    fun n => by rw [State.rd32, bytes, bytes, bytes, bytes, State.rd32]
  refine ⟨_, done, ?_, ?_, ?_, ?_, ?_, ?_, ?_, ?_, ended_otherSlots l'' b fun j hj => ?_,
    head.2.trans (CellsKept.otherCells ⟨rfl, rfl⟩ c |>.trans (others.trans (kept.otherCells c))), ?_, ?_, ?_, ?_, ?_, ?_⟩
  · exact (cell_congr kept.1 c).trans (writeResult_cell_self ..)
  · exact (bytes _).trans (writeResult_code _ _ _ (hm l))
  · refine word.trans ((writeResult_gen _ _ _ (hm l)).trans ?_)
    show ((u l).slot i).gen = _
    rw [self]
  · refine (bytes _).trans ((writeResult_state _ _ _ (hm l)).trans ?_)
    show ((u l).slot i).state.code = _
    rw [self]
  · exact (long _).trans (writeResult_taken _ _ _ (hm l))
  · refine (long _).trans ((writeResult_finished _ _ _ (hm l)).trans ?_)
    simp [u]
  · simp [v, refuseHead, refuseCell]
  · rw [(ended_reads _ l'' b).1, vself, self, ← hidle.orders, ← hidle.active]
    exact Slot.written_like _ _
  · simp [v, refuseHead, hj, headed_slot_ne s c k i l hj]
  all_goals simp [v, refuseHead]

end Sys2Proof.Machine

/-! The head of the Power Wait Queue: pacing (R83, R84), its examination (R66, R67) and its grant (R69), and the
rise of power good (R87). -/

namespace Sys2Proof.Machine

variable {s t u v : State} {i : SlotId} {c d : CellId}

/-! ### Pacing -/

theorem pacingPermits_iff (st : Settings) (h : List Time) (t : Time) : pacingPermits st h t = true ↔
    (∀ e ∈ h.getLast?, st.rampGap ≤ (t - e).toNat)
    ∧ h.countP (fun e => decide ((t - e).toNat < st.rampWindow)) < st.windowLimit := by
  unfold pacingPermits
  cases h.getLast? <;> simp

/-- How long ago a time lies. -/
def ageOf (now e : Time) : Nat := (now - e).toNat

/-- A time lies as much further back as time goes on. -/
theorem ageOf_after {now e : Time} {k : Nat} (h : ageOf now e + k < 4294967296) :
    ageOf (after now k) e = ageOf now e + k := by
  unfold ageOf after at *
  bv_omega

/-- A past time and a span reach as far as what is left of the span reaches from now. -/
theorem after_eq_after_left {now e : Time} {span : Nat} (h : ageOf now e ≤ span) (hspan : span < 4294967296) :
    after e span = after now (span - ageOf now e) := by
  unfold ageOf after at *
  bv_omega

theorem after_sub {now : Time} {k : Nat} (h : k < 4294967296) : (after now k - now).toNat = k := by
  unfold after
  bv_omega

/-- Of values that fall along a list fewer than `n` lie below `bound` exactly when the n-th from the end does
not (R83, R84). -/
theorem countP_lt_iff {α : Type} {f : α → Nat} {l : List α} {n bound : Nat} (hn : 1 ≤ n) (hlen : n ≤ l.length)
    (hfall : l.Pairwise fun a b => f b ≤ f a) :
    l.countP (fun x => decide (f x < bound)) < n ↔ bound ≤ f (l[l.length - n]'(by omega)) := by
  have hk : l.length - n < l.length := by omega
  have split : l = l.take (l.length - n) ++ l[l.length - n] :: l.drop (l.length - n + 1) := by
    rw [← List.drop_eq_getElem_cons hk, List.take_append_drop]
  have tail : (l.drop (l.length - n + 1)).length = n - 1 := by rw [List.length_drop]; omega
  generalize hw : l[l.length - n] = w at split ⊢
  generalize l.take (l.length - n) = old at split
  generalize l.drop (l.length - n + 1) = young at split tail
  subst split
  rw [List.pairwise_append, List.pairwise_cons] at hfall
  obtain ⟨-, ⟨hyoung, -⟩, hold⟩ := hfall
  rw [List.countP_append, List.countP_cons]
  constructor
  · intro hcount
    by_contra hlt
    have all : young.countP (fun x => decide (f x < bound)) = young.length :=
      List.countP_eq_length.mpr fun x hx => decide_eq_true (by have := hyoung x hx; omega)
    rw [all, if_pos (decide_eq_true (by omega))] at hcount
    omega
  · intro hge
    have none : old.countP (fun x => decide (f x < bound)) = 0 :=
      List.countP_eq_zero.mpr fun x hx => by
        have := hold x hx w List.mem_cons_self
        simp only [decide_eq_true_iff]
        omega
    have few := List.countP_le_length (p := fun x => decide (f x < bound)) (l := young)
    rw [none, if_neg (by simp only [decide_eq_true_iff]; omega)]
    omega

section
variable {st : Settings} {h : List Time} {now : Time}

/-- Pacing permits a start at a time that lies `k` on exactly when the newest entry is old enough and the
window's entry has left the window (R83). -/
theorem permits_after_iff {e : Time} {k : Nat} (hlimit : 1 ≤ st.windowLimit)
    (hpast : ∀ e ∈ h, ageOf now e < 2147483648) (hfall : h.Pairwise fun a b => ageOf now b ≤ ageOf now a)
    (hlast : h.getLast? = some e) (hk : k < 65536) :
    pacingPermits st h (after now k) = true ↔ st.rampGap ≤ ageOf now e + k
      ∧ ∀ w ∈ windowEntry st h, st.rampWindow ≤ ageOf now w + k := by
  have age : ∀ x ∈ h, (after now k - x).toNat = ageOf now x + k := fun x hx =>
    ageOf_after (by have := hpast x hx; omega)
  have count : h.countP (fun x => decide ((after now k - x).toNat < st.rampWindow)) =
      h.countP fun x => decide (ageOf now x + k < st.rampWindow) :=
    List.countP_congr fun x hx => by rw [age x hx]
  rw [pacingPermits_iff, count, hlast]
  simp only [Option.mem_def, Option.some.injEq, forall_eq', age e (List.mem_of_getLast? hlast)]
  refine and_congr_right fun _ => ?_
  unfold windowEntry
  split
  · next hfull =>
    have hidx : h.length - st.windowLimit < h.length := by
      have := List.length_pos_of_mem (List.mem_of_getLast? hlast)
      omega
    rw [List.getElem?_eq_getElem hidx]
    simp only [Option.some.injEq, forall_eq']
    exact countP_lt_iff hlimit hfull (hfall.imp fun hle => Nat.add_le_add_right hle k)
  · next hfull =>
    simp only [reduceCtorEq, false_implies, implies_true, iff_true]
    have := List.countP_le_length (p := fun x => decide (ageOf now x + k < st.rampWindow)) (l := h)
    omega

theorem windowEntry_mem {w : Time} (hw : w ∈ windowEntry st h) :
    st.windowLimit ≤ h.length ∧ w ∈ h[h.length - st.windowLimit]? := by
  unfold windowEntry at hw
  split at hw
  · next hfull => exact ⟨hfull, hw⟩
  · cases hw

/-- The time that pacing gives lies as far on as the longer of the two spans has left (R84). -/
theorem pacingTime_eq {e : Time} (hlast : h.getLast? = some e) (hgap : st.rampGap < 65536)
    (hwindow : st.rampWindow < 65536)
    (hwaits : ageOf now e < st.rampGap ∨ ∃ w ∈ windowEntry st h, ageOf now w < st.rampWindow) :
    ∃ k < 65536, pacingTime st h now = after now k ∧ 1 ≤ k
    ∧ (∀ j, (st.rampGap ≤ ageOf now e + j ∧ ∀ w ∈ windowEntry st h, st.rampWindow ≤ ageOf now w + j) ↔ k ≤ j)
    ∧ (pacingTime st h now = after e st.rampGap
      ∨ ∃ w ∈ windowEntry st h, pacingTime st h now = after w st.rampWindow) := by
  unfold pacingTime
  rw [hlast]
  cases hw : windowEntry st h with
  | none =>
    rw [hw] at hwaits
    have young : ageOf now e < st.rampGap := hwaits.resolve_right (by simp)
    exact ⟨st.rampGap - ageOf now e, by omega, after_eq_after_left (by omega) (by omega), by omega,
      fun j => by simp; omega, .inl rfl⟩
  | some w =>
    rw [hw] at hwaits
    simp only [Option.mem_def, Option.some.injEq, exists_eq_left', forall_eq'] at hwaits ⊢
    have left : ∀ e span, leftOf now e span = (span : Int) - (ageOf now e : Int) := fun _ _ => rfl
    simp only [left]
    split
    · next hle =>
      exact ⟨st.rampGap - ageOf now e, by omega, after_eq_after_left (by omega) (by omega), by omega,
        fun j => by omega, .inl rfl⟩
    · next hle =>
      exact ⟨st.rampWindow - ageOf now w, by omega, after_eq_after_left (by omega) (by omega), by omega,
        fun j => by omega, .inr rfl⟩

/-- The time that pacing gives when it does not permit a start is the earliest at which it does (R84). -/
theorem pacingTime_first (hlimit : 1 ≤ st.windowLimit) (hgap : st.rampGap < 65536)
    (hwindow : st.rampWindow < 65536) (hpast : ∀ e ∈ h, ageOf now e < 2147483648)
    (hfall : h.Pairwise fun a b => ageOf now b ≤ ageOf now a) (hnot : pacingPermits st h now ≠ true) :
    pacingPermits st h (pacingTime st h now) = true
    ∧ (∀ k, k < (pacingTime st h now - now).toNat → pacingPermits st h (after now k) ≠ true)
    ∧ ((∃ e ∈ h.getLast?, pacingTime st h now = after e st.rampGap)
      ∨ ∃ w ∈ windowEntry st h, pacingTime st h now = after w st.rampWindow) := by
  cases hlast : h.getLast? with
  | none =>
    rw [List.getLast?_eq_none_iff] at hlast
    subst hlast
    exact absurd ((pacingPermits_iff ..).mpr ⟨by simp, by rw [List.countP_nil]; omega⟩) hnot
  | some e =>
    have iff := fun {k : Nat} => permits_after_iff (st := st) (k := k) hlimit hpast hfall hlast
    have now_eq : after now 0 = now := by simp [after]
    have waits : ageOf now e < st.rampGap ∨ ∃ w ∈ windowEntry st h, ageOf now w < st.rampWindow := by
      by_contra hnone
      rw [not_or, not_exists] at hnone
      refine hnot (now_eq ▸ (iff (by omega)).mpr ⟨by omega, fun w hw => ?_⟩)
      have := hnone.2 w
      rw [not_and] at this
      have := this hw
      omega
    obtain ⟨k, hk, eq, -, reach, form⟩ := pacingTime_eq hlast hgap hwindow waits
    have far : (pacingTime st h now - now).toNat = k := eq ▸ after_sub (by omega)
    refine ⟨eq ▸ (iff hk).mpr ((reach k).mpr le_rfl), fun j hj hpermits => ?_, ?_⟩
    · rw [far] at hj
      have := (reach j).mp ((iff (by omega)).mp hpermits)
      omega
    · exact form.imp_left fun hform => ⟨e, rfl, hform⟩

end

/-- The examination's five tests in their order (R66). -/
theorem examination_eq (s : State) (e : QueueEntry) : examination s e =
    if s.alloc.fits e.slot e.claim = false then some .budget
    else if s.straps.feedHold = true ∧ (s.alloc.feedALost = true ∨ s.alloc.feedBLost = true)
    then some .feed
    else if (s.pwr e.slot).offRef ≠ none
      ∧ (s.time - (s.pwr e.slot).offTime).toNat < s.settings.minOff then some .cooling
    else if pacingPermits s.settings s.history s.time = false then some .pacing
    else if (s.alloc.shelf.head?.any fun d => decide (d.kind = .setTiming)) = true then some .setting
    else none := by
  have front : s.alloc.timingAtFront = s.alloc.shelf.head?.any fun d => decide (d.kind = .setTiming) := by
    unfold Allocator.timingAtFront
    cases s.alloc.shelf <;> rfl
  have feed : (!s.feedsPermit) = true ↔
      s.straps.feedHold = true ∧ (s.alloc.feedALost = true ∨ s.alloc.feedBLost = true) := by
    unfold State.feedsPermit
    cases s.straps.feedHold <;> cases s.alloc.feedALost <;> cases s.alloc.feedBLost <;> decide
  have cool : (!s.cooled e.slot) = true ↔ (s.pwr e.slot).offRef ≠ none
      ∧ (s.time - (s.pwr e.slot).offTime).toNat < s.settings.minOff := by
    unfold State.cooled refPassed
    cases (s.pwr e.slot).offRef <;> simp
  unfold examination
  rw [front]
  simp only [feed, cool, Bool.not_eq_true']

/-! ### The examination of the head -/

theorem examine_fails {e : QueueEntry} {rest : List QueueEntry} {r : WaitReason}
    (hq : s.alloc.queue = e :: rest) (hr : examination s e = some r) : examine s =
    (s.modAlloc fun a => { a with reexam := reexamFor s e r }).modSlot e.slot fun x =>
      { x with waitReason := some r } := by
  have same : examination (s.modAlloc fun a => { a with reexam := none }) e = some r := hr
  unfold examine
  rw [hq]
  dsimp only
  rw [same]
  rfl

theorem examine_grants {e : QueueEntry} {rest : List QueueEntry} (hq : s.alloc.queue = e :: rest)
    (hr : examination s e = none) :
    examine s = grant e rest (s.modAlloc fun a => { a with reexam := none }) := by
  have same : examination (s.modAlloc fun a => { a with reexam := none }) e = none := hr
  unfold examine
  rw [hq]
  dsimp only
  rw [same]

/-- The allocator after the grant of the only entry (R69). -/
def Allocator.granting (e : QueueEntry) (a : Allocator) : Allocator :=
  { a.enterClaim e.slot e.claim with ramping := a.ramping ++ [e.slot], queue := [], reexam := none }

/-- The payload power of a slot whose ramp begins (R86). -/
def Power.ramped (now : Time) (inrush : Byte) (p : Power) : Power :=
  { p with resetAsserted := true, switchOn := true, rampLimit := some (after now (rampLimitOf inrush)),
           minute := some (after now 60000) }

theorem rampStart_pwr_self (s : State) (i : SlotId) : (rampStart i s).pwr i =
    (s.pwr i).ramped s.time (s.slot i).ident.inrush :=
  (pwr_congr rfl i).trans (modPower_pwr_self s i (Power.ramped s.time (s.slot i).ident.inrush))

theorem rampStart_pwr_ne (s : State) {i j : SlotId} (hj : j ≠ i) : (rampStart i s).pwr j = s.pwr j :=
  (pwr_congr rfl j).trans (modPower_pwr_ne s i j (Power.ramped s.time (s.slot i).ident.inrush) hj)

/-- What the grant of the only entry leaves and brings (R8, R69, R86). -/
theorem grant_leaves (e : QueueEntry) (s : State) :
    (grant e [] s).slot e.slot = { (s.slot e.slot).enter s.time .ramping with
      claim := e.claim, admissions := min 255 ((s.slot e.slot).admissions + 1) }
    ∧ (∀ j, j ≠ e.slot → (grant e [] s).slot j = s.slot j)
    ∧ (grant e [] s).alloc = s.alloc.granting e
    ∧ (grant e [] s).pwr e.slot = (s.pwr e.slot).ramped s.time (s.slot e.slot).ident.inrush
    ∧ (∀ j, j ≠ e.slot → (grant e [] s).pwr j = s.pwr j)
    ∧ (∀ j, j ≠ e.slot → (grant e [] s).engine j = s.engine j)
    ∧ (grant e [] s).history = appendHistory s.history s.time
    ∧ (grant e [] s).jobs =
      s.jobs ++ ((if (s.pinsOf e.slot).powerGood then [.powerGood e.slot] else []) ++ [.examine]) := by
  let s1 := s.modAlloc fun a => { a.enterClaim e.slot e.claim with ramping := a.ramping ++ [e.slot] }
  let s2 := rampStart e.slot (setQueue [] s1)
  have slots : s2.slots = s.slots := by simp [s2, s1, setQueue, reportQueue, reportFrom]
  have alloc : s2.alloc = s.alloc.granting e := by
    simp [s2, s1, setQueue, reportQueue, reportFrom]
    rfl
  have power : ∀ j, s2.pwr j = if j = e.slot then (s.pwr e.slot).ramped s.time (s.slot e.slot).ident.inrush
      else s.pwr j := fun j => by
    by_cases hj : j = e.slot
    · subst hj
      rw [if_pos rfl, rampStart_pwr_self]
      simp [s1, slot_congr (s := s) (t := setQueue [] s1) (by simp [s1, setQueue, reportQueue, reportFrom])]
    · rw [if_neg hj, rampStart_pwr_ne _ hj]
      simp [s1]
  have frame : s2.time = s.time ∧ s2.pins = s.pins ∧ s2.engines = s.engines ∧ s2.work = s.work
      ∧ s2.history = appendHistory s.history s.time := by
    simp [s2, s1]
    rfl
  obtain ⟨time, pins, engines, work, history⟩ := frame
  have good : (((changeStateOwn e.slot .ramping .granted s2).modSlot e.slot fun x =>
      { x with claim := e.claim, admissions := countUpTo 255 x.admissions }).pinsOf e.slot) = s.pinsOf e.slot := by
    simp [pinsOf_congr pins]
  have eq : grant e [] s = ((changeStateOwn e.slot .ramping .granted s2).modSlot e.slot fun x =>
      { x with claim := e.claim, admissions := countUpTo 255 x.admissions }).raise
        ((if (s.pinsOf e.slot).powerGood then [.powerGood e.slot] else []) ++ [.examine]) := by
    rw [← good]
    rfl
  rw [eq]
  refine ⟨?_, fun j hj => ?_, ?_, ?_, fun j hj => ?_, fun j hj => ?_, ?_, ?_⟩
  · simp [slot_congr slots, time, countUpTo]
    rfl
  · simp [hj, slot_congr slots]
  · simp [alloc]
  · simp [power]
  · simp [power, hj]
  · simp [hj, engine_congr engines]
  · simp [history]
  · exact (raise_jobs ..).trans (congrArg (· ++ _) (jobs_congr (by simp [work])))

/-- What the grant of the only entry leaves as it was. -/
theorem grant_frame (e : QueueEntry) (s : State) :
    (grant e [] s).time = s.time ∧ (grant e [] s).cells = s.cells ∧ (grant e [] s).mem = s.mem
    ∧ (grant e [] s).ports = s.ports ∧ (grant e [] s).settings = s.settings ∧ (grant e [] s).pins = s.pins
    ∧ (grant e [] s).late = s.late := by
  simp [grant]

theorem reexamExpired_due (h : due s.time s.alloc.reexam = true) : reexamExpired s = examine s := if_pos h

/-- Settles O43. -/
theorem reexaminationExaminesHead : Obligations.ReexaminationExaminesHead := by
  refine ⟨fun s hinv hl => ⟨fun h => ?_, fun e rest r hdue hq hr => ?_, fun e hdue hq hr hgood hstate => ?_⟩,
    examination_eq, ?_⟩
  · exact congrArg Host.Outcome.next (liveEvent_nothing hl (if_neg (by simp [h])))
  · obtain ⟨hwork, hlate, -, -, -⟩ := hl.toReady
    have act := (reexamExpired_due hdue).trans (examine_fails hq hr)
    obtain ⟨l, b, -, he⟩ := liveEvent_jobs (js := []) hl act (jobs_nil (by simp [hwork])) (by simp [hlate])
      (Nat.zero_le _) (fun _ h => absurd h List.not_mem_nil)
    refine ⟨_, congrArg Host.Outcome.next he, ?_, ?_, ended_otherSlots l b fun j hj => ?_, ⟨?_, ?_⟩, ?_, ?_,
      ?_, ?_⟩
    · rw [(ended_reads _ l b).1, modSlot_slot_self]
      exact Slot.written_like _ _
    · simp
      cases r <;> rfl
    · simp [hj]
    all_goals simp
  · obtain ⟨hwork, hlate, -, -, -⟩ := hl.toReady
    have act := (reexamExpired_due hdue).trans (examine_grants hq hr)
    generalize hu : s.modAlloc (fun a => { a with reexam := none }) = u at act
    obtain ⟨slot, slots, alloc, pwr, power, engines, history, jobs⟩ := grant_leaves e u
    obtain ⟨-, cells, mem, ports, -, -, late⟩ := grant_frame e u
    subst hu
    obtain ⟨l, b, -, he⟩ := liveEvent_jobs (js := [.examine]) hl act
      (jobs.trans (by simp [hgood, jobs_nil (s := s.modAlloc _) hwork])) (late.trans hlate)
      (by simp [Config.workBound]) (by
        intro j hj
        obtain rfl := List.mem_singleton.mp hj
        simp [Job.Idle, alloc, Allocator.granting])
    refine ⟨_, congrArg Host.Outcome.next he, ?_, ?_, ?_, ?_, ?_, ?_, ?_, ?_, ?_,
      ended_otherSlots l b fun j hj => slots j hj, ⟨?_, ?_⟩, fun j hj => ?_, ?_, fun j hj => ?_⟩
    · simp [slot, Slot.enter]
    · simp [slot, Slot.enter, hstate]
    · simp [slot]
    · simp [alloc, Allocator.granting]
    · simp [alloc, Allocator.granting, Allocator.enterClaim]
    · simp [pwr, Power.ramped]
    · simp [pwr, Power.ramped]
    · simp [pwr, Power.ramped]
    · simp [history]
    · simp [cells]
    · simp [mem]
    · simp [power j hj]
    · simp [ports]
    · simp [engines j hj]
  · intro st h now permits
    refine ⟨fun t => pacingPermits_iff st h t, ?_⟩
    intro hlen hlimit hgap hwindow hpast hfall hnot first
    obtain ⟨permitted, earliest, form⟩ := pacingTime_first hlimit hgap hwindow hpast hfall
      fun hp => hnot ((pacingPermits_iff ..).mp hp)
    refine ⟨(pacingPermits_iff ..).mp permitted, fun k hk hp => earliest k hk ((pacingPermits_iff ..).mpr hp),
      form.imp_right fun ⟨w, hw, eq⟩ => ?_⟩
    obtain ⟨hfull, hmem⟩ := windowEntry_mem hw
    exact ⟨w, hmem, hfull, eq⟩

end Sys2Proof.Machine

/-! Power good (R9, R10, R87) and the start of an admission (R8, R69, R86). -/

namespace Sys2Proof.Machine

variable {s t u v : State} {i : SlotId} {c d : CellId} {l : List SlotId}

/-! ### Power good -/

/-- The payload power of a slot whose power good is taken (R87). -/
def Power.goodTaken (now : Time) (p : Power) : Power :=
  { p with rampLimit := none, goodTime := now, onRef := some (after now 60000), resetHold := some (after now 50) }

/-- With no SET-TIMING at the front the end of a ramp takes the slot out of the ramping set alone (R74). -/
theorem rampEnded_alone (h : s.alloc.timingAtFront = false) :
    rampEnded i s = s.modAlloc fun a => { a with ramping := a.ramping.erase i } := by
  have same : (s.modAlloc fun a => { a with ramping := a.ramping.erase i }).alloc.timingAtFront = false := h
  unfold rampEnded
  split
  · dsimp only
    rw [same, Bool.and_false, if_neg Bool.noConfusion]
  · next hmem =>
    rw [State.modAlloc, List.erase_of_not_mem hmem]

/-- Power good in a RAMPING slot (R9, R10, R87). -/
theorem powerGoodTaken_ramping (hlimit : (s.pwr i).rampLimit ≠ none) (hstate : (s.slot i).state = .ramping)
    (htiming : s.alloc.timingAtFront = false) : powerGoodTaken i s =
    (changeStateOwn i .booting .powerGood
      ((s.modAlloc fun a => { a with ramping := a.ramping.erase i }).modPower i (Power.goodTaken s.time))).modSlot i
      fun x => { x with boot := some (after s.time (s.bootLimit i)) } := by
  unfold powerGoodTaken
  rw [if_pos (Option.isSome_iff_ne_none.mpr hlimit)]
  dsimp only
  rw [if_pos hstate, rampEnded_alone htiming]
  rfl

/-- What power good in a RAMPING slot leaves, and that it brings nothing. -/
theorem powerGoodTaken_leaves (hlimit : (s.pwr i).rampLimit ≠ none) (hstate : (s.slot i).state = .ramping)
    (htiming : s.alloc.timingAtFront = false) :
    (powerGoodTaken i s).slot i = { (s.slot i).enter s.time .booting with
      boot := some (after s.time (s.bootLimit i)) }
    ∧ (∀ j, j ≠ i → (powerGoodTaken i s).slot j = s.slot j)
    ∧ (powerGoodTaken i s).alloc = { s.alloc with ramping := s.alloc.ramping.erase i }
    ∧ (powerGoodTaken i s).pwr i = (s.pwr i).goodTaken s.time
    ∧ (∀ j, j ≠ i → (powerGoodTaken i s).pwr j = s.pwr j)
    ∧ (∀ j, j ≠ i → (powerGoodTaken i s).engine j = s.engine j)
    ∧ (powerGoodTaken i s).cells = s.cells ∧ (powerGoodTaken i s).mem = s.mem
    ∧ (powerGoodTaken i s).ports = s.ports ∧ (powerGoodTaken i s).settings = s.settings
    ∧ (powerGoodTaken i s).history = s.history ∧ (powerGoodTaken i s).work = s.work
    ∧ (powerGoodTaken i s).late = s.late := by
  rw [powerGoodTaken_ramping hlimit hstate htiming]
  refine ⟨?_, fun j hj => ?_, ?_, ?_, fun j hj => ?_, fun j hj => ?_, ?_⟩
  · simp
  · simp [hj]
  · simp
  · simp
  · simp [hj]
  · simp [hj]
  · simp

/-- The boot limit of a slot in milliseconds (R10). -/
theorem bootLimit_eq (s : State) (i : SlotId) : s.bootLimit i =
    let given := match (s.slot i).orders with
      | e :: _ => if (s.slot i).active = true ∧ e.kind = .admitBlade then (s.rd8 e.cell 0x10).toNat else 0
      | [] => 0
    let hint := (s.slot i).ident.bootHint.toNat
    1000 * if given ≠ 0 then given else if hint ≠ 0 then hint else 90 := by
  unfold State.bootLimit State.activeKind
  cases (s.slot i).active
  · cases (s.slot i).orders <;> rfl
  · cases (s.slot i).orders with
    | nil => rfl
    | cons e es =>
      obtain ⟨cell, kind, taken⟩ := e
      cases kind <;> rfl

/-- Settles O45. -/
theorem powerGoodBeginsBoot : Obligations.PowerGoodBeginsBoot := by
  intro s i hinv hl
  have hl' : (s.modPins i fun p => { p with powerGood := true }).Live := live_modPins hl _
  refine ⟨fun hnone => ?_, fun hlimit hstate htiming => ?_⟩
  · exact congrArg Host.Outcome.next (liveEvent_nothing hl' (if_neg (by simp [hnone])))
  · obtain ⟨slot, slots, alloc, pwr, power, engines, cells, mem, ports, -, -, work, late⟩ :=
      powerGoodTaken_leaves (s := s.modPins i fun p => { p with powerGood := true }) hlimit hstate htiming
    obtain ⟨l, b, -, he⟩ := liveEvent_jobs (act := powerGoodTaken i) (js := []) hl' rfl
      (jobs_nil (work.trans hl.work)) (late.trans hl.late) (Nat.zero_le _)
      (fun _ h => absurd h List.not_mem_nil)
    refine ⟨_, congrArg Host.Outcome.next he, ?_, ?_, ?_, ?_, ?_, ?_, ?_, ?_, ?_,
      ended_otherSlots l b fun j hj => (slots j hj).trans rfl, ⟨?_, ?_⟩, fun j hj => ?_, ?_, fun j hj => ?_⟩
    · simp [slot, Slot.enter]
    · simp [slot, Slot.enter, hstate]
    · simp [slot, Slot.enter]
    · simp [slot, Slot.enter]
    · intro given hint
      have limit : (s.modPins i fun p => { p with powerGood := true }).bootLimit i = s.bootLimit i := rfl
      simp only [ended_reads, Slot.written_boot, slot, limit, bootLimit_eq]
      rfl
    · simp [slot, Slot.enter]
    · simp [slot, Slot.enter]
    · rw [(ended_reads _ l b).2.1, pwr]
      rfl
    · simp [alloc]
    · simp [cells]
    · simp [mem]
    · simp [power j hj]
    · simp [ports]
    · simp [engines j hj]

/-! ### An event that goes on from a piece of work -/

/-- Work that does nothing is passed over. -/
theorem drain_passes {n : Nat} : ∀ (pre : List Work) {s : State} {ws : List Work}, s.work = pre ++ ws →
    (∀ x ∈ pre, x.job.Idle s) → pre.length ≤ n →
    ∃ l b, drain n s = drain (n - pre.length) { s with work := ws, changed := l, broughtBy := b }
  | [], s, ws, hw, _, _ => ⟨s.changed, s.broughtBy, by rw [show ws = s.work from hw.symm]; rfl⟩
  | x :: pre, s, ws, hw, hidle, hn => by
    obtain ⟨m, rfl⟩ := Nat.exists_eq_add_of_le' (show 1 ≤ n by simp only [List.length_cons] at hn; omega)
    have step : drain (m + 1) s = drain m (doWork x (pre ++ ws) s) := drain_step s m x (pre ++ ws) hw
    rw [doWork_idle (hidle x List.mem_cons_self)] at step
    obtain ⟨l, b, rest⟩ := drain_passes (n := m) pre
      (s := { s with work := pre ++ ws, changed := noted s, broughtBy := x.broughtBy }) rfl
      (fun y hy => (hidle y (List.mem_cons_of_mem _ hy)).resume (pre ++ ws) s.late (noted s) x.broughtBy)
      (by simp only [List.length_cons] at hn; omega)
    refine ⟨l, b, (step.trans rest).trans ?_⟩
    rw [List.length_cons, show m + 1 - (pre.length + 1) = m - pre.length by omega]

@[simp] theorem resume_frame (u : State) (b : Option Word16) (l : List SlotId) :
    (u.resume b l).time = u.time ∧ (u.resume b l).straps = u.straps ∧ (u.resume b l).pins = u.pins
    ∧ (u.resume b l).slots = u.slots ∧ (u.resume b l).alloc = u.alloc ∧ (u.resume b l).power = u.power
    ∧ (u.resume b l).settings = u.settings ∧ (u.resume b l).history = u.history
    ∧ (u.resume b l).ports = u.ports ∧ (u.resume b l).engines = u.engines ∧ (u.resume b l).cells = u.cells
    ∧ (u.resume b l).mem = u.mem ∧ (u.resume b l).journal = u.journal ∧ (u.resume b l).port = u.port
    ∧ (u.resume b l).work = [] ∧ (u.resume b l).late = u.late := by
  simp [State.resume]

@[simp] theorem resume_reads (u : State) (b : Option Word16) (l : List SlotId) :
    (∀ j, (u.resume b l).slot j = u.slot j) ∧ (∀ j, (u.resume b l).pwr j = u.pwr j)
    ∧ (∀ j, (u.resume b l).engine j = u.engine j) ∧ (∀ j, (u.resume b l).linkUp j = u.linkUp j)
    ∧ (∀ q, (u.resume b l).portOf q = u.portOf q) ∧ (∀ d, (u.resume b l).cell d = u.cell d)
    ∧ (∀ j, (u.resume b l).pinsOf j = u.pinsOf j) :=
  ⟨slot_congr (by simp), pwr_congr (by simp), engine_congr (by simp), linkUp_congr (by simp),
    portOf_congr (by simp), cell_congr (by simp), pinsOf_congr (by simp)⟩

/-- The first piece of work that may act is done, in the state the event has made. -/
theorem drain_acts {n : Nat} {pre ws : List Work} {w : Work} (hw : s.work = pre ++ w :: ws)
    (hidle : ∀ x ∈ pre, x.job.Idle s) (hn : pre.length < n) :
    ∃ l l', drain n s =
      let v := doJob w.job (s.resume w.broughtBy l)
      drain (n - (pre.length + 1)) { v with work := v.work ++ ws, changed := l' } := by
  obtain ⟨l, b, passed⟩ := drain_passes pre hw hidle hn.le
  obtain ⟨l', acted⟩ := drain_cons (s := { s with work := w :: ws, changed := l, broughtBy := b })
    (n := n - pre.length) (by omega) rfl
  exact ⟨l, l', (passed.trans acted).trans (by rw [Nat.sub_sub]; rfl)⟩

/-- The same, of the jobs. -/
theorem drain_acts_jobs {n : Nat} {pre js : List Job} {j : Job} (hjobs : s.jobs = pre ++ j :: js)
    (hidle : ∀ x ∈ pre, x.Idle s) (hn : pre.length < n) :
    ∃ (ws : List Work) (b : Option Word16) (l l' : List SlotId), ws.map Work.job = js ∧ drain n s =
      let v := doJob j (s.resume b l)
      drain (n - (pre.length + 1)) { v with work := v.work ++ ws, changed := l' } := by
  obtain ⟨front, back, hwork, hfront, hback⟩ := List.map_eq_append_iff.mp (show s.work.map Work.job = _ from hjobs)
  obtain ⟨w, ws, rfl, hw, hws⟩ := List.map_eq_cons_iff.mp hback
  have hlen : front.length = pre.length := by rw [← hfront, List.length_map]
  obtain ⟨l, l', he⟩ := drain_acts hwork (fun x hx => hidle _ (hfront ▸ List.mem_map_of_mem hx)) (hlen ▸ hn)
  exact ⟨ws, w.broughtBy, l, l', hws, by rw [he, hw, hlen]⟩

/-- An event ends when neither what the last act has brought nor what still waited does anything. -/
theorem ends_after {n : Nat} {brought js : List Job} {ws : List Work} (hjobs : v.jobs = brought)
    (hws : ws.map Work.job = js) (hlate : v.late = []) (hn : (brought ++ js).length ≤ n)
    (hidle : ∀ x ∈ brought ++ js, x.Idle v) (l : List SlotId) :
    ∃ l' b, closeEvent (drain n { v with work := v.work ++ ws, changed := l }) = v.ended l' b := by
  have jobs : ({ v with work := v.work ++ ws } : State).jobs = brought ++ js := by
    rw [State.jobs, List.map_append, hws]
    exact congrArg (· ++ js) hjobs
  exact (State.AtEnd.of_jobs (v := { v with work := v.work ++ ws }) jobs hlate hn
    fun x hx => (hidle x hx).resume (v.work ++ ws) v.late v.changed v.broughtBy).ends l

/-- When one job acts and all that follows does nothing, the event ends as that job leaves it. -/
theorem drain_acts_ends {n : Nat} {pre js brought : List Job} {j : Job} (hjobs : s.jobs = pre ++ j :: js)
    (hidle : ∀ x ∈ pre, x.Idle s) (hn : pre.length + 1 + (brought ++ js).length ≤ n)
    (hact : ∀ b l, (doJob j (s.resume b l)).jobs = brought ∧ (doJob j (s.resume b l)).late = []
      ∧ ∀ x ∈ brought ++ js, x.Idle (doJob j (s.resume b l))) :
    ∃ (b : Option Word16) (l l' : List SlotId) (b' : Option Word16),
      closeEvent (drain n s) = (doJob j (s.resume b l)).ended l' b' := by
  obtain ⟨ws, b, l, l', hws, hd⟩ := drain_acts_jobs hjobs hidle (n := n) (by omega)
  obtain ⟨hbrought, hlate, hidle'⟩ := hact b l
  obtain ⟨l'', b', hends⟩ := ends_after hbrought hws hlate (n := n - (pre.length + 1)) (by omega) hidle' l'
  exact ⟨b, l, l'', b', (congrArg closeEvent hd).trans hends⟩

/-! ### The start of an admission -/

/-- A slot that joins the empty queue is its head (R63, R65). -/
theorem joinQueue_alone (hq : s.alloc.queue = []) :
    (joinQueue i c s).slot i = { s.slot i with queuePos := 1 }
    ∧ (∀ j, j ≠ i → (joinQueue i c s).slot j = s.slot j)
    ∧ (joinQueue i c s).alloc = { s.alloc with queue := [entryFor i c s], reexam := none } := by
  unfold joinQueue
  rw [hq]
  refine ⟨?_, fun j hj => ?_, setQueue_alloc ..⟩
  · exact modSlot_slot_self ..
  · exact modSlot_slot_ne _ _ _ _ hj

/-- The state of an ADMIT that has started in a PARKED slot and has joined the empty queue (R8). -/
def State.joined (s : State) (c : CellId) (i : SlotId) (l : List SlotId) : State :=
  let v := s.started c .admitBlade i l
  joinQueue i c (changeState i .awaitPower .order (some (v.cellTag c)) v)

theorem entryFor_congr (htime : t.time = s.time) (hmem : t.mem = s.mem)
    (hident : (t.slot i).ident = (s.slot i).ident) : entryFor i c t = entryFor i c s := by
  simp only [entryFor, State.admitUrgency, State.admitWaitLimit, State.rd16, State.rd8, htime, hmem, hident]
  rfl

/-- The examination reads the budget, the feeds, the power-off time, the pacing and the shelf order list (R66). -/
theorem examination_congr {e : QueueEntry} (hfits : t.alloc.fits e.slot e.claim = s.alloc.fits e.slot e.claim)
    (hfeeds : t.feedsPermit = s.feedsPermit) (hpower : t.power = s.power) (htime : t.time = s.time)
    (hsettings : t.settings = s.settings) (hhistory : t.history = s.history)
    (hshelf : t.alloc.timingAtFront = s.alloc.timingAtFront) : examination t e = examination s e := by
  simp only [examination, hfits, hfeeds, State.cooled, pwr_congr hpower, htime, hsettings, hhistory, hshelf]
  rfl

section
variable (hidle : (s.slot i).Idle) (hq : s.alloc.queue = []) (l : List SlotId)
include hidle hq

theorem joined_slot_self : (s.joined c i l).slot i =
    { ({ s.slot i with orders := [⟨c, .admitBlade, s.time⟩], active := true } : Slot).enter s.time .awaitPower with
      queuePos := 1 } := by
  rw [State.joined, (joinQueue_alone (by simpa using hq)).1, changeState_slot_self,
    started_slot_self s c .admitBlade i l hidle.orders, (started_frame ..).1]

omit hidle in
theorem joined_slot_ne {j : SlotId} (hj : j ≠ i) : (s.joined c i l).slot j = s.slot j := by
  rw [State.joined, (joinQueue_alone (by simpa using hq)).2.1 j hj, changeState_slot_ne _ _ _ _ _ hj,
    started_slot_ne s c .admitBlade i l hj]

theorem joined_alloc : (s.joined c i l).alloc =
    { s.alloc with queue := [entryFor i c s], reexam := none } := by
  have entry : ∀ tag, entryFor i c (changeState i .awaitPower .order tag (s.started c .admitBlade i l)) =
      entryFor i c s := fun tag => entryFor_congr (by simp) (by simp) (by
    rw [changeState_slot_self, started_slot_self s c .admitBlade i l hidle.orders]
    rfl)
  rw [State.joined, (joinQueue_alone (by simpa using hq)).2.2, entry]
  simp

end

@[simp] theorem joined_frame : (s.joined c i l).time = s.time ∧ (s.joined c i l).straps = s.straps
    ∧ (s.joined c i l).pins = s.pins ∧ (s.joined c i l).mem = s.mem ∧ (s.joined c i l).power = s.power
    ∧ (s.joined c i l).settings = s.settings ∧ (s.joined c i l).history = s.history
    ∧ (s.joined c i l).ports = s.ports
    ∧ (s.joined c i l).work = [] ∧ (s.joined c i l).late = s.late
    ∧ (s.joined c i l).cells = s.cells.set c .taken := by
  simp [State.joined, joinQueue]

@[simp] theorem joined_engine_ne {j : SlotId} (hj : j ≠ i) : (s.joined c i l).engine j = s.engine j := by
  simp [State.joined, joinQueue, hj]

/-- An ADMIT passes its start checks with its condition met and a VALID identity of the slot's kind (R44). -/
theorem startRefusal_passes (hstate : (s.slot i).state = .parked)
    (hcond : conditionMatches (s.cellCondition c) (s.slot i).gen = true) (hid : (s.slot i).idStatus = .valid)
    (hkind : kindMatches i (s.slot i).ident.kind = true) :
    startRefusal i ⟨c, .admitBlade, s.time⟩ s = none := by
  rw [startRefusal_eq, hcond, hstate, hid, hkind]
  rfl

/-- With no handle request the examination is the first work of a slot that has joined the queue. -/
theorem drain_examines (hwork : v.work = []) (hlatch : (v.slot i).latch = false) (l0 : List SlotId) :
    ∃ (b : Option Word16) (l1 l2 : List SlotId),
      drain 4095 { v.raise [.handle i, .examine] with changed := l0 } =
        drain 4093 { examine (v.resume b l1) with changed := l2 } := by
  have jobs : ({ v.raise [.handle i, .examine] with changed := l0 } : State).jobs = [.handle i] ++ .examine :: [] :=
    (jobs_congr rfl).trans ((raise_jobs _ v).trans (by rw [jobs_nil hwork]; rfl))
  obtain ⟨ws, b, l1, l2, hws, hd⟩ := drain_acts_jobs (n := 4095) jobs (by
    intro x hx
    obtain rfl := List.mem_singleton.mp hx
    exact handleActs_unlatched ((congrArg Slot.latch (slot_congr rfl i)).trans hlatch)) (by simp)
  obtain rfl := List.map_eq_nil_iff.mp hws
  refine ⟨b, l1, l2, hd.trans ?_⟩
  dsimp only [doJob]
  rw [List.append_nil]
  rfl

/-- The event of an ADMIT that starts in an idle PARKED slot goes on from its examination (R8, R65). -/
theorem exec_take_examines (hq : s.alloc.queue = []) (ht : s.TakesFor c .admitBlade i)
    (hstate : (s.slot i).state = .parked) (hidle : (s.slot i).Idle)
    (hpass : startRefusal i ⟨c, .admitBlade, s.time⟩ s = none) :
    ∃ (l : List SlotId) (b : Option Word16) (l1 l2 : List SlotId), exec (takeCommand (some .admitBlade)) s =
      .next (closeEvent (drain 4093 { examine ((s.joined c i l).resume b l1) with changed := l2 })) := by
  obtain ⟨l, l0, he⟩ := exec_take_start ht rfl
  have act : startTest i (s.headed c .admitBlade i l) = (s.joined c i l).raise [.handle i, .examine] := by
    rw [startTest_headed (by rw [hstate]; rfl) hidle, hpass]
    rfl
  obtain ⟨b, l1, l2, hd⟩ := drain_examines (v := s.joined c i l) (i := i) (by simp)
    (by simp [joined_slot_self hidle hq l, Slot.enter, hidle.latch]) l0
  exact ⟨l, b, l1, l2, he.trans (congrArg Host.Outcome.next (congrArg closeEvent (by rw [act, hd])))⟩

/-- The examination finds the same once the slot has joined the queue. -/
theorem joined_examination (hidle : (s.slot i).Idle) (hq : s.alloc.queue = []) (l : List SlotId)
    (b : Option Word16) (l1 : List SlotId) :
    examination ((s.joined c i l).resume b l1) (entryFor i c s) = examination s (entryFor i c s) := by
  have alloc := joined_alloc (c := c) hidle hq l
  refine examination_congr ?_ ?_ ?_ ?_ ?_ ?_ ?_
  · simp [State.resume, alloc]
    rfl
  · simp [State.resume, State.feedsPermit, alloc]
  · simp [State.resume]
  · simp [State.resume]
  · simp [State.resume]
  · simp [State.resume]
  · simp [State.resume, Allocator.timingAtFront, alloc]

/-- Cell and bytes of an ADMIT that has joined the queue. -/
theorem joined_cells (l : List SlotId) : (s.joined c i l).cell c = .taken
    ∧ ∀ d, d ≠ c → (s.joined c i l).cell d = s.cell d := by
  have same : ∀ d, (s.joined c i l).cell d = (s.started c .admitBlade i l).cell d := cell_congr (by simp)
  obtain ⟨taken, others⟩ := started_cells (s := s) (c := c) (i := i) .admitBlade l
  exact ⟨(same c).trans taken, fun d hd => (same d).trans (others d hd)⟩

/-- Settles O22. -/
theorem admitWaits : Obligations.AdmitWaits := by
  intro s c i r hinv hquiet ht hstate hidle hcond hid hkind hexam
  have hq := hquiet.queue
  obtain ⟨l, b, l1, l2, he⟩ := exec_take_examines hq ht hstate hidle
    (startRefusal_passes hstate hcond hid hkind)
  have self := joined_slot_self (c := c) hidle hq l
  have slots : ∀ j, j ≠ i → (s.joined c i l).slot j = s.slot j := fun j hj => joined_slot_ne hq l hj
  have engines : ∀ j, j ≠ i → (s.joined c i l).engine j = s.engine j := fun j hj => joined_engine_ne hj
  have alloc := joined_alloc (c := c) hidle hq l
  obtain ⟨-, -, -, mem, power, settings, history, ports, work, late, -⟩ := joined_frame (s := s) (c := c) (i := i) (l := l)
  obtain ⟨taken, others⟩ := joined_cells (s := s) (c := c) (i := i) l
  have exam := joined_examination (c := c) hidle hq l b l1
  generalize s.joined c i l = v at *
  rw [examine_fails (s := v.resume b l1) (e := entryFor i c s) (rest := []) (by simp [alloc]) (exam.trans hexam)] at he
  generalize hr : reexamFor (v.resume b l1) (entryFor i c s) r = reexam at he
  obtain ⟨l3, b3, hends⟩ := (State.AtEnd.of_jobs (n := 4093) (js := [])
    (v := ((v.resume b l1).modAlloc fun a => { a with reexam := reexam }).modSlot i
        fun x => { x with waitReason := some r })
    (jobs_nil (by simp)) (by simpa [late] using ht.late) (Nat.zero_le _)
    (fun _ h => absurd h List.not_mem_nil)).ends l2
  refine ⟨_, he.trans (congrArg Host.Outcome.next hends), ?_, ?_, ?_, ?_, ?_, ?_, ?_, ?_, ?_, ?_, ?_, ?_, ?_, ?_,
    fun d hd => ?_, ?_, ?_, ?_, ?_, ended_otherSlots l3 b3 fun j hj => ?_, fun j hj => ?_⟩
  · simp [self, Slot.enter]
  · simp [self, Slot.enter, hstate]
  · simp [self, Slot.enter]
  · simp [self, Slot.enter]
  · simp [self, Slot.enter]
  · simp [self, Slot.enter]
  · simp [self, Slot.enter]
  · simp [self, Slot.enter]
  · simp [self, Slot.enter]
  · simp [alloc]
    rfl
  · simp [alloc]
  · simp [alloc]
  · simp [taken]
  · simp [mem]
  · simp [others d hd]
  · simp [power]
  · simp [ports]
  · simp [history]
  · simp [settings]
  · simp [hj, slots j hj]
  · simp [engines j hj]

/-- The claim total after a claim is entered (R58). -/
theorem enterClaim_granted (a : Allocator) (i : SlotId) (n : Nat) (h : a.granted = a.claims.toList.sum) :
    (a.enterClaim i n).granted + a.claims[i] = a.granted + n := by
  have := sum_ge a.claims i
  simp only [Allocator.enterClaim]
  omega

/-- The examination that passes all five tests leaves no SET-TIMING at the front (R66 test 5). -/
theorem examination_timing {e : QueueEntry} (h : examination s e = none) : s.alloc.timingAtFront = false := by
  unfold examination at h
  split_ifs at h with _ _ _ _ htiming
  simpa using htiming

/-- The grant in an event, up to its end: with power good already asserted it is taken too (R69, R86). -/
theorem drain_grant (e : QueueEntry) (hwork : v.work = []) (hlate : v.late = [])
    (htiming : v.alloc.timingAtFront = false) (l2 : List SlotId) :
    ∃ (b3 : Option Word16) (l3 l4 : List SlotId) (b4 : Option Word16),
    closeEvent (drain 4093 { grant e [] v with changed := l2 }) = State.ended
      (if (v.pinsOf e.slot).powerGood then powerGoodTaken e.slot ((grant e [] v).resume b3 l3) else grant e [] v)
      l4 b4 := by
  obtain ⟨slot, -, alloc, pwr, -, -, -, jobs⟩ := grant_leaves e v
  obtain ⟨-, -, -, -, -, -, late⟩ := grant_frame e v
  rw [jobs_nil hwork] at jobs
  have limit : ((grant e [] v).pwr e.slot).rampLimit ≠ none := by rw [pwr]; simp [Power.ramped]
  have state : ((grant e [] v).slot e.slot).state = .ramping := by rw [slot]; rfl
  have queue : (grant e [] v).alloc.queue = [] := by rw [alloc]; rfl
  have timing : (grant e [] v).alloc.timingAtFront = false := by rw [alloc]; exact htiming
  generalize grant e [] v = g at *
  cases hgood : (v.pinsOf e.slot).powerGood with
  | false =>
    rw [hgood] at jobs
    obtain ⟨l4, b4, hends⟩ := (State.AtEnd.of_jobs (n := 4093) (js := [.examine]) jobs (late.trans hlate)
      (by simp) (fun j hj => by
        obtain rfl := List.mem_singleton.mp hj
        exact queue)).ends l2
    exact ⟨none, [], l4, b4, hends⟩
  | true =>
    rw [hgood] at jobs
    refine drain_acts_ends (s := { g with changed := l2 }) (pre := []) (j := .powerGood e.slot)
      (js := [.examine]) (brought := []) jobs (fun _ h => absurd h List.not_mem_nil) (by simp) fun b l => ?_
    obtain ⟨-, -, alloc', -, -, -, -, -, -, -, -, work, late'⟩ :=
      powerGoodTaken_leaves (s := g.resume b l) (i := e.slot) (by simpa using limit) (by simpa using state)
        (by simpa using timing)
    have start : ({ g with changed := l2 } : State).resume b l = g.resume b l := rfl
    rw [start]
    refine ⟨jobs_nil (by simp [doJob, work]), late'.trans (by simp [late, hlate]), fun j hj => ?_⟩
    obtain rfl := List.mem_singleton.mp hj
    simpa [Job.Idle, doJob, alloc'] using queue

/-- Settles O23. -/
theorem admitGranted : Obligations.AdmitGranted := by
  intro s c i hinv hquiet ht hstate hidle hcond hid hkind hexam
  have hq := hquiet.queue
  obtain ⟨l, b, l1, l2, he⟩ := exec_take_examines hq ht hstate hidle
    (startRefusal_passes hstate hcond hid hkind)
  have self := joined_slot_self (c := c) hidle hq l
  have slots : ∀ j, j ≠ i → (s.joined c i l).slot j = s.slot j := fun j hj => joined_slot_ne hq l hj
  have engines : ∀ j, j ≠ i → (s.joined c i l).engine j = s.engine j := fun j hj => joined_engine_ne hj
  have alloc := joined_alloc (c := c) hidle hq l
  obtain ⟨time, -, pins, mem, power, settings, history, ports, work, late, -⟩ :=
    joined_frame (s := s) (c := c) (i := i) (l := l)
  obtain ⟨taken, others⟩ := joined_cells (s := s) (c := c) (i := i) l
  have exam := joined_examination (c := c) hidle hq l b l1
  have total := enterClaim_granted s.alloc i (s.slot i).ident.draw.toNat hinv.alloc.granted
  have timing := examination_timing hexam
  generalize s.joined c i l = v at *
  rw [examine_grants (s := v.resume b l1) (e := entryFor i c s) (rest := []) (by simp [alloc]) (exam.trans hexam)] at he
  have head : (entryFor i c s).slot = i := rfl
  have claim : (entryFor i c s).claim = (s.slot i).ident.draw.toNat := rfl
  generalize entryFor i c s = e at *
  subst head
  obtain ⟨gslot, gslots, galloc, gpwr, gpower, gengines, ghistory, -⟩ :=
    grant_leaves e ((v.resume b l1).modAlloc fun a => { a with reexam := none })
  obtain ⟨gtime, gcells, gmem, gports, gsettings, -, glate⟩ :=
    grant_frame e ((v.resume b l1).modAlloc fun a => { a with reexam := none })
  obtain ⟨b3, l3, l4, b4, hends⟩ := drain_grant e (v := (v.resume b l1).modAlloc fun a => { a with reexam := none })
    (by simp) (by simpa [late] using ht.late) (by simpa [alloc, Allocator.timingAtFront] using timing) l2
  have good : ((v.resume b l1).modAlloc fun a => { a with reexam := none }).pinsOf e.slot = s.pinsOf e.slot := by
    simp [pinsOf_congr pins]
  rw [hends, good] at he
  generalize grant e [] ((v.resume b l1).modAlloc fun a => { a with reexam := none }) = g at *
  cases hgood : (s.pinsOf e.slot).powerGood with
  | false =>
    rw [hgood, if_neg Bool.noConfusion] at he
    refine ⟨_, he, ?_, ?_, ?_, ?_, ?_, ?_, ?_, ?_, ?_, ?_, ?_, ?_, ?_, ?_, ?_, ?_, ?_, ?_, ?_, ?_,
      fun d hd => ?_, ?_, ?_, ended_otherSlots l4 b4 fun j hj => ?_, fun j hj => ?_, fun j hj => ?_⟩
    · simp [gslot, Slot.enter]
    · simp [gslot, self, Slot.enter]
    · simp [gslot, Slot.enter, time]
    · simp [gslot, self, Slot.enter]
    · simp [gslot, self, Slot.enter]
    · simp [gslot, claim]
    · simp [gslot, self, Slot.enter]
    · simp [gslot, self, Slot.enter]
    · simp [gslot, self, Slot.enter]
    · simp [galloc, Allocator.granting]
    · simp [galloc, Allocator.granting, Allocator.enterClaim, claim]
    · simpa [galloc, Allocator.granting, Allocator.enterClaim, alloc, claim] using total
    · simp [gpwr, Power.ramped]
    · simp [gpwr, Power.ramped]
    · simp [gpwr, Power.ramped, time]
    · simp [galloc, Allocator.granting, gpwr, Power.ramped, time, self, Slot.enter]
    · simp
    · simp [ghistory, time, history]
    · simp [cell_congr gcells, taken]
    · simp [gmem, mem]
    · simp [cell_congr gcells, others d hd]
    · simp [gports, ports]
    · simp [gsettings, settings]
    · simp [gslots j hj, slots j hj]
    · simp [gengines j hj, engines j hj]
    · simp [gpower j hj, pwr_congr power]
  | true =>
    rw [hgood, if_pos rfl] at he
    obtain ⟨pslot, pslots, palloc, ppwr, ppower, pengines, pcells, pmem, pports, psettings, phistory, -⟩ :=
      powerGoodTaken_leaves (s := g.resume b3 l3) (i := e.slot) (by simp [gpwr, Power.ramped])
        (by simp [gslot, Slot.enter])
        (by simpa [galloc, Allocator.granting, Allocator.enterClaim, alloc, Allocator.timingAtFront] using timing)
    generalize powerGoodTaken e.slot (g.resume b3 l3) = p at *
    refine ⟨_, he, ?_, ?_, ?_, ?_, ?_, ?_, ?_, ?_, ?_, ?_, ?_, ?_, ?_, ?_, ?_, ?_, ?_, ?_, ?_, ?_,
      fun d hd => ?_, ?_, ?_, ended_otherSlots l4 b4 fun j hj => ?_, fun j hj => ?_, fun j hj => ?_⟩
    · simp [pslot, Slot.enter]
    · simp [pslot, gslot, Slot.enter]
    · simp [pslot, Slot.enter, gtime, time]
    · simp [pslot, gslot, self, Slot.enter]
    · simp [pslot, gslot, self, Slot.enter]
    · simp [pslot, gslot, Slot.enter, claim]
    · simp [pslot, gslot, self, Slot.enter]
    · simp [pslot, gslot, self, Slot.enter]
    · simp [pslot, gslot, self, Slot.enter]
    · simp [palloc, galloc, Allocator.granting]
    · simp [palloc, galloc, Allocator.granting, Allocator.enterClaim, claim]
    · simpa [palloc, galloc, Allocator.granting, Allocator.enterClaim, alloc, claim] using total
    · simp [ppwr, gpwr, Power.goodTaken, Power.ramped]
    · simp [ppwr, gpwr, Power.goodTaken, Power.ramped]
    · simp [ppwr, gpwr, Power.goodTaken, Power.ramped, time]
    · simp
    · simp [ppwr, Power.goodTaken, gtime, time]
    · simp [phistory, ghistory, time, history]
    · simp [cell_congr pcells, cell_congr gcells, taken]
    · simp [pmem, gmem, mem]
    · simp [cell_congr pcells, cell_congr gcells, others d hd]
    · simp [pports, gports, ports]
    · simp [psettings, gsettings, settings]
    · simp [pslots j hj, gslots j hj, slots j hj]
    · simp [pengines j hj, gengines j hj, engines j hj]
    · simp [ppower j hj, gpower j hj, pwr_congr power]

end Sys2Proof.Machine

/-! The start of a retirement whose ports are all ISOLATED (R14 to R16), with the late test it brings (R102). -/

namespace Sys2Proof.Machine

variable {s t u v : State} {i j : SlotId} {c d : CellId} {l : List SlotId}

/-! ### Late tests -/

/-- The state in which a late test is made: the work before it is done. -/
def State.tested (u : State) (ts : List LateTest) (b : Option Word16) (l : List SlotId) : State :=
  { u with work := [], late := ts, changed := l, broughtBy := b }

@[simp] theorem tested_frame (u : State) (ts : List LateTest) (b : Option Word16) (l : List SlotId) :
    (u.tested ts b l).time = u.time ∧ (u.tested ts b l).straps = u.straps ∧ (u.tested ts b l).pins = u.pins
    ∧ (u.tested ts b l).slots = u.slots ∧ (u.tested ts b l).alloc = u.alloc ∧ (u.tested ts b l).power = u.power
    ∧ (u.tested ts b l).settings = u.settings ∧ (u.tested ts b l).history = u.history
    ∧ (u.tested ts b l).ports = u.ports ∧ (u.tested ts b l).engines = u.engines
    ∧ (u.tested ts b l).cells = u.cells ∧ (u.tested ts b l).mem = u.mem
    ∧ (u.tested ts b l).work = [] ∧ (u.tested ts b l).late = ts := by
  simp [State.tested]

@[simp] theorem tested_reads (u : State) (ts : List LateTest) (b : Option Word16) (l : List SlotId) :
    (∀ j, (u.tested ts b l).slot j = u.slot j) ∧ (∀ j, (u.tested ts b l).pwr j = u.pwr j)
    ∧ (∀ j, (u.tested ts b l).engine j = u.engine j) ∧ (∀ j, (u.tested ts b l).linkUp j = u.linkUp j)
    ∧ (∀ q, (u.tested ts b l).portOf q = u.portOf q) ∧ (∀ d, (u.tested ts b l).cell d = u.cell d) :=
  ⟨slot_congr (by simp), pwr_congr (by simp), engine_congr (by simp), linkUp_congr (by simp),
    portOf_congr (by simp), cell_congr (by simp)⟩

/-- With no work before it the first late test of an event is made. -/
theorem drain_tests {n : Nat} {t : LateTest} {ts : List LateTest} (hwork : s.work = []) (hlate : s.late = t :: ts)
    (hn : 0 < n) : ∃ l, drain n s =
      drain (n - 1) { portTest t.slot (s.tested ts t.broughtBy s.changed) with changed := l } := by
  obtain ⟨m, rfl⟩ := Nat.exists_eq_add_of_le' hn
  refine ⟨(doLate t ts s).changed, (drain_late s m t ts hwork hlate).trans ?_⟩
  have start : ({ s with late := ts, broughtBy := t.broughtBy } : State) = s.tested ts t.broughtBy s.changed :=
    congrArg (fun ws => ({ s with work := ws, late := ts, broughtBy := t.broughtBy } : State)) hwork
  unfold doLate
  rw [start]
  rfl

/-! ### A slot with every port ISOLATED leaves -/

theorem withdrawPort_isolated {p : PortId} (h : (s.portOf p).state = .isolated) : withdrawPort s p = s := by
  unfold withdrawPort
  rw [h]

theorem withdrawPorts_isolated : ∀ (ps : List PortId), (∀ p ∈ ps, (s.portOf p).state = .isolated) →
    ps.foldl withdrawPort s = s
  | [], _ => rfl
  | p :: ps, h => by
    rw [List.foldl_cons, withdrawPort_isolated (h p List.mem_cons_self)]
    exact withdrawPorts_isolated ps fun q hq => h q (List.mem_cons_of_mem _ hq)

theorem leaveDone_isolated (h : ∀ p ∈ slotPorts i, (s.portOf p).state = .isolated) : s.leaveDone i = true := by
  simpa [State.leaveDone] using h

/-- A slot that has begun to leave (R14, R15). -/
def State.leaving (s : State) (i : SlotId) (r : Retirement) (why : StateDetail) (tag : Option Word16) : State :=
  changeState i .leaving why tag (s.modSlot i fun x => { x with retire := some r, latch := false })

theorem leaving_slot_self (s : State) (i : SlotId) (r : Retirement) (why : StateDetail) (tag : Option Word16) :
    (s.leaving i r why tag).slot i =
      ({ s.slot i with retire := some r, latch := false } : Slot).enter s.time .leaving := by
  simp [State.leaving]

theorem leaving_slot_ne (r : Retirement) (why : StateDetail) (tag : Option Word16) (h : j ≠ i) :
    (s.leaving i r why tag).slot j = s.slot j := by
  simp [State.leaving, h]

theorem leaving_engine_ne (r : Retirement) (why : StateDetail) (tag : Option Word16) (h : j ≠ i) :
    (s.leaving i r why tag).engine j = s.engine j := by
  simp [State.leaving, h]

@[simp] theorem leaving_frame (s : State) (i : SlotId) (r : Retirement) (why : StateDetail) (tag : Option Word16) :
    (s.leaving i r why tag).time = s.time ∧ (s.leaving i r why tag).cells = s.cells
    ∧ (s.leaving i r why tag).mem = s.mem ∧ (s.leaving i r why tag).alloc = s.alloc
    ∧ (s.leaving i r why tag).power = s.power ∧ (s.leaving i r why tag).ports = s.ports
    ∧ (s.leaving i r why tag).settings = s.settings ∧ (s.leaving i r why tag).work = s.work
    ∧ (s.leaving i r why tag).late = s.late ∧ (∀ j, (s.leaving i r why tag).linkUp j = s.linkUp j) := by
  simp [State.leaving]

theorem testLate_late (h : s.late = []) : (s.testLate i).late = [⟨i, s.broughtBy⟩] := by
  simp [State.testLate, h]

theorem beginRetirement_isolated (h : ∀ p ∈ slotPorts i, (s.portOf p).state = .isolated) (r : Retirement)
    (why : StateDetail) (tag : Option Word16) :
    beginRetirement i r why tag s = (s.leaving i r why tag).testLate i := by
  unfold beginRetirement withdrawSlot
  rw [withdrawPorts_isolated _ fun p hp => by simpa using h p hp]
  rfl

/-- The record of a slot whose leave is done in the event that began it (R14 to R16). -/
def Slot.quiesced (x : Slot) (now : Time) (r : Retirement) (limit : Nat) : Slot :=
  { ((({ x with retire := some r, latch := false } : Slot).enter now .leaving).enter now .quiescing) with
    quiesce := some (after now limit) }

/-- What leave done leaves (R16). -/
theorem leaveSlot_leaves (s : State) (i : SlotId) :
    (leaveSlot i s).slot i = { (s.slot i).enter s.time .quiescing with
      quiesce := some (after s.time s.settings.quiesceLimit) }
    ∧ (∀ j, j ≠ i → (leaveSlot i s).slot j = s.slot j)
    ∧ (∀ j, j ≠ i → (leaveSlot i s).engine j = s.engine j)
    ∧ (s.linkUp i = true → ((leaveSlot i s).engine i).Carries .quiesce) := by
  refine ⟨?_, fun j hj => ?_, fun j hj => ?_, fun hup => carries_placeOwn (by simpa using hup) _⟩
  · simp [leaveSlot]
  · simp [leaveSlot, hj]
  · simp [leaveSlot, hj]

@[simp] theorem leaveSlot_frame (s : State) (i : SlotId) :
    (leaveSlot i s).time = s.time ∧ (leaveSlot i s).cells = s.cells ∧ (leaveSlot i s).mem = s.mem
    ∧ (leaveSlot i s).alloc = s.alloc ∧ (leaveSlot i s).power = s.power ∧ (leaveSlot i s).ports = s.ports
    ∧ (leaveSlot i s).settings = s.settings ∧ (leaveSlot i s).work = s.work ∧ (leaveSlot i s).late = s.late := by
  simp [leaveSlot]

/-- A slot in LEAVING with every port ISOLATED leaves at the end of the event (R102, R115). -/
theorem drain_leaves {n : Nat} {b : Option Word16} (hwork : v.work = []) (hlate : v.late = [⟨i, b⟩])
    (hstate : (v.slot i).state = .leaving) (hiso : ∀ p ∈ slotPorts i, (v.portOf p).state = .isolated) (hn : 0 < n) :
    ∃ b l l' b', closeEvent (drain n v) = (leaveSlot i (v.tested [] b l)).ended l' b' := by
  obtain ⟨l1, hd⟩ := drain_tests hwork hlate hn
  have test : portTest i (v.tested [] b v.changed) = leaveSlot i (v.tested [] b v.changed) := by
    have state : ((v.tested [] b v.changed).slot i).state = .leaving := by simp [hstate]
    have done : (v.tested [] b v.changed).leaveDone i = true :=
      leaveDone_isolated fun p hp => by simpa using hiso p hp
    unfold portTest
    rw [if_neg fun h => absurd (state.symm.trans h.1) (by decide), if_pos ⟨state, done⟩]
  rw [test] at hd
  obtain ⟨l', b', hends⟩ := (State.AtEnd.of_jobs (v := leaveSlot i (v.tested [] b v.changed)) (n := n - 1)
    (js := []) (jobs_nil (by simp)) (by simp) (Nat.zero_le _) (fun _ h => absurd h List.not_mem_nil)).ends l1
  exact ⟨b, v.changed, l', b', (congrArg closeEvent hd).trans hends⟩

/-- What the start of a retirement leaves at the end of its event, in a slot with every port ISOLATED. -/
structure State.Quiesces (s : State) (i : SlotId) (r : Retirement) (u : State) : Prop where
  slot : u.slot i = (s.slot i).quiesced s.time r s.settings.quiesceLimit
  slots : ∀ j, j ≠ i → u.slot j = s.slot j
  engines : ∀ j, j ≠ i → u.engine j = s.engine j
  asked : s.linkUp i = true → (u.engine i).Carries .quiesce
  cells : u.cells = s.cells
  mem : u.mem = s.mem
  alloc : u.alloc = s.alloc
  power : u.power = s.power
  ports : u.ports = s.ports

/-- A retirement that begins in a slot with every port ISOLATED brings it to QUIESCING in its event. -/
theorem drain_retirement {n : Nat} (hiso : ∀ p ∈ slotPorts i, (s.portOf p).state = .isolated) (hwork : s.work = [])
    (hlate : s.late = []) (hn : 0 < n) (r : Retirement) (why : StateDetail) (tag : Option Word16) (l : List SlotId) :
    ∃ u l' b, s.Quiesces i r u
      ∧ closeEvent (drain n { beginRetirement i r why tag s with changed := l }) = State.ended u l' b := by
  rw [beginRetirement_isolated hiso]
  generalize hv : ({ (s.leaving i r why tag).testLate i with changed := l } : State) = v
  have self : v.slot i = ({ s.slot i with retire := some r, latch := false } : Slot).enter s.time .leaving := by
    subst hv
    exact leaving_slot_self ..
  have slots : ∀ j, j ≠ i → v.slot j = s.slot j := fun j hj => by
    subst hv
    exact leaving_slot_ne _ _ _ hj
  have engines : ∀ j, j ≠ i → v.engine j = s.engine j := fun j hj => by
    subst hv
    exact leaving_engine_ne _ _ _ hj
  have frame : v.time = s.time ∧ v.cells = s.cells ∧ v.mem = s.mem ∧ v.alloc = s.alloc ∧ v.power = s.power
      ∧ v.ports = s.ports ∧ v.settings = s.settings ∧ v.work = [] ∧ v.linkUp i = s.linkUp i := by
    obtain ⟨time, cells, mem, alloc, power, ports, settings, work, -, link⟩ := leaving_frame s i r why tag
    subst hv
    exact ⟨time, cells, mem, alloc, power, ports, settings, work.trans hwork, link i⟩
  obtain ⟨b, late⟩ : ∃ b, v.late = [⟨i, b⟩] := by
    subst hv
    exact ⟨_, testLate_late (by simpa using hlate)⟩
  obtain ⟨time, cells, mem, alloc, power, ports, settings, work, link⟩ := frame
  obtain ⟨b, l1, l', b', hends⟩ := drain_leaves work late (by simp [self, Slot.enter])
    (fun p hp => by simpa [portOf_congr ports] using hiso p hp) hn
  obtain ⟨lslot, lslots, lengines, asked⟩ := leaveSlot_leaves (v.tested [] b l1) i
  refine ⟨_, l', b', ⟨?_, fun j hj => ?_, fun j hj => ?_, fun hup => ?_, ?_, ?_, ?_, ?_, ?_⟩, hends⟩
  · simp [lslot, self, time, settings, Slot.quiesced]
  · simp [lslots j hj, slots j hj]
  · simp [lengines j hj, engines j hj]
  · exact asked (by simpa [link] using hup)
  · simp [cells]
  · simp [mem]
  · simp [alloc]
  · simp [power]
  · simp [ports]

/-! ### RETIRE in a slot with every port ISOLATED -/

/-- A RETIRE passes its start checks with its condition met, where the redundancy guard does not act (R44). -/
theorem startRefusal_retire (hstate : (s.slot i).state = .inService)
    (hcond : conditionMatches (s.cellCondition c) (s.slot i).gen = true) (hguard : s.guardRefuses i = false) :
    startRefusal i ⟨c, .retire, s.time⟩ s = none := by
  rw [startRefusal_eq, hcond, hstate, hguard]
  rfl

theorem guardRefuses_isolated (h : ∀ p, nodeSlot p = i ∨ hubSlot p = i → (s.portOf p).state = .isolated) :
    s.guardRefuses i = false := by
  rw [Bool.eq_false_iff, Ne, guardRefuses_iff]
  rintro ⟨-, -, p, hp, hstate⟩
  rw [h p (.inr hp)] at hstate
  simp at hstate

theorem retireStarts_isolated (s : State) (c : CellId) (i : SlotId) (ht : s.TakesFor c .retire i)
    (hstate : (s.slot i).state = .inService) (hidle : (s.slot i).Idle)
    (hcond : conditionMatches (s.cellCondition c) (s.slot i).gen = true)
    (hiso : ∀ p, nodeSlot p = i ∨ hubSlot p = i → (s.portOf p).state = .isolated) :
    ∃ t, exec .retire s = .next t
    ∧ (t.slot i).state = .quiescing ∧ (t.slot i).prev = .leaving ∧ (t.slot i).entry = s.time
    ∧ (t.slot i).gen = nextGeneration (nextGeneration (s.slot i).gen)
    ∧ (t.slot i).retire = some ⟨s.rd8 c 0x0C, s.cellGentle c, s.cellStamp c, some c⟩
    ∧ (t.slot i).quiesce = some (after s.time s.settings.quiesceLimit)
    ∧ (t.slot i).orders = [⟨c, .retire, s.time⟩] ∧ (t.slot i).active = true
    ∧ (s.linkUp i = true → (t.engine i).Carries .quiesce)
    ∧ t.cell c = .taken ∧ t.mem = s.mem ∧ (∀ d, d ≠ c → t.cell d = s.cell d)
    ∧ t.ports = s.ports ∧ t.power = s.power ∧ t.alloc = s.alloc
    ∧ OtherSlots i s t ∧ OtherEngines i s t := by
  obtain ⟨l, l0, he⟩ := exec_take_start ht rfl
  have self := started_slot_self s c .retire i l hidle.orders
  obtain ⟨taken, others⟩ := started_cells (s := s) (c := c) (i := i) .retire l
  rw [startTest_headed (by rw [hstate]; rfl) hidle,
    startRefusal_retire hstate hcond (guardRefuses_isolated hiso)] at he
  obtain ⟨u, l1, b, hu, hends⟩ := drain_retirement (s := s.started c .retire i l) (i := i) (n := 4095)
    (fun p hp => by simpa using hiso p (mem_slotPorts.mp hp)) (by simp) (by simpa using ht.late) (by simp)
    ⟨(s.started c .retire i l).retireReason c, (s.started c .retire i l).cellGentle c,
      (s.started c .retire i l).cellStamp c, some c⟩ .order (some ((s.started c .retire i l).cellTag c)) l0
  refine ⟨_, he.trans (congrArg Host.Outcome.next hends), ?_, ?_, ?_, ?_, ?_, ?_, ?_, ?_, fun hup => ?_, ?_, ?_,
    fun d hd => ?_, ?_, ?_, ?_, ended_otherSlots l1 b fun j hj => ?_, fun j hj => ?_⟩
  · simp [hu.slot, Slot.quiesced, Slot.enter]
  · simp [hu.slot, Slot.quiesced, Slot.enter]
  · simp [hu.slot, Slot.quiesced, Slot.enter]
  · simp [hu.slot, Slot.quiesced, Slot.enter, self]
  · simp [hu.slot, Slot.quiesced, Slot.enter, SlotState.endsRetirement, State.retireReason, State.cellGentle,
      State.cellStamp]
  · simp [hu.slot, Slot.quiesced]
  · simp [hu.slot, Slot.quiesced, Slot.enter, self]
  · simp [hu.slot, Slot.quiesced, Slot.enter, self]
  · simpa using hu.asked (by simpa using hup)
  · simp [cell_congr hu.cells, taken]
  · simp [hu.mem]
  · simp [cell_congr hu.cells, others d hd]
  · simp [hu.ports]
  · simp [hu.power]
  · simp [hu.alloc]
  · simp [hu.slots j hj, started_slot_ne s c .retire i l hj]
  · simp [hu.engines j hj]

end Sys2Proof.Machine

/-! A handle request that acts (R28), from the handle itself and from UNHOLD and SET-POLICY (R55, R56). -/

namespace Sys2Proof.Machine

variable {s t u v : State} {i j : SlotId} {c d : CellId} {l : List SlotId} {e : OrderEntry}

/-! ### In AWAIT-POWER -/

/-- What a withdrawal brings: the examination of the head if an entry was removed, and the slot's tests. -/
def State.withdrawalJobs (s : State) (i : SlotId) : List Job :=
  (if s.alloc.queue = [] then [] else [.examine]) ++ [.start i, .handle i]

theorem withdrawalJobs_length (s : State) (i : SlotId) : (s.withdrawalJobs i).length ≤ 3 := by
  unfold State.withdrawalJobs
  split <;> simp

theorem mem_withdrawalJobs {j : Job} (h : j ∈ s.withdrawalJobs i) : j = .examine ∨ j = .start i ∨ j = .handle i := by
  unfold State.withdrawalJobs at h
  split at h
  · exact .inr (by simpa using h)
  · simpa using h

/-- What a handle request leaves that withdraws an ADMIT in AWAIT-POWER with no order behind it (R28). -/
structure State.Withdraws (s : State) (i : SlotId) (e : OrderEntry) (v : State) : Prop where
  slot : v.slot i = { (s.slot i).enter s.time .parked with orders := [], active := false, read := none }
  slots : ∀ j, j ≠ i → v.slot j = s.slot j
  finished : v.Finished e.cell OrderOutcome.cancelled.code 0 SlotState.parked.code (nextGeneration (s.slot i).gen)
  others : OtherCells e.cell s v
  wf : Memory.wf v.mem = true
  queue : v.alloc.queue = []
  power : v.power = s.power
  ports : v.ports = s.ports
  time : v.time = s.time
  late : v.late = s.late
  jobs : v.jobs = s.jobs ++ s.withdrawalJobs i

theorem handleTest_withdraws (hm : Memory.wf s.mem = true) (hq : s.QuietBut i) (hacts : s.handleActs i = true)
    (hstate : (s.slot i).state = .awaitPower) (ho : (s.slot i).orders = [e]) (ha : (s.slot i).active = true) :
    s.Withdraws i e (handleTest i s) := by
  have own := hq.own
  have act : handleTest i s =
      testNext i (finishActive i .cancelled none [] (s.unqueued i .handle ((removeEntry i s).activeTag i))) :=
    (if_pos hacts).trans (if_pos hstate)
  rw [act]
  generalize (removeEntry i s).activeTag i = tag
  have frame := unqueued_frame (s := s) (i := i) .handle tag
  obtain ⟨time, cells, mem, power, ports, -, -, late⟩ := frame
  obtain ⟨queue, -, jobs⟩ := unqueued_queue .handle tag own
  have hself : (s.unqueued i .handle tag).slot i = (s.slot i).enter s.time .parked := unqueued_slot_self _ _ own
  have slot := unqueued_finished_slot (s := s) .handle tag .cancelled own ho ha
  have hmv : Memory.wf (s.unqueued i .handle tag).mem = true := by rw [mem]; exact hm
  obtain ⟨done, others⟩ := finishActive_cells hmv (by rw [hself]; exact ha) (by rw [hself]; exact ho)
    .cancelled none []
  have moved : CellsKept s (s.unqueued i .handle tag) := ⟨cells, mem⟩
  have raised : CellsKept (finishActive i .cancelled none [] (s.unqueued i .handle tag))
      (testNext i (finishActive i .cancelled none [] (s.unqueued i .handle tag))) := ⟨rfl, rfl⟩
  have wf : Memory.wf (finishActive i .cancelled none [] (s.unqueued i .handle tag)).mem = true :=
    finishActive_wf hmv ..
  rw [hself] at done
  refine ⟨?_, fun j hj => ?_, done.of_kept raised,
    (moved.otherCells e.cell).trans (others.trans (raised.otherCells e.cell)), wf, ?_, ?_, ?_, ?_, ?_, ?_⟩
  · rw [testNext, raise_slot, slot]
  · rw [testNext, raise_slot, finishActive_slot_ne _ _ _ _ _ hj, unqueued_slot_ne _ _ own hj]
  · simpa [testNext] using queue
  · simp [testNext, power]
  · simp [testNext, ports]
  · simp [testNext, time]
  · simp [testNext, late]
  · refine (raise_jobs ..).trans ?_
    rw [jobs_congr (t := finishActive i .cancelled none [] (s.unqueued i .handle tag))
      (s := s.unqueued i .handle tag) (by simp), jobs, List.append_assoc]
    rfl

/-- What such a request brings does nothing in a state with the same slot and queue. -/
theorem State.Withdraws.idle (h : s.Withdraws i e v) (hslot : t.slot i = v.slot i)
    (hqueue : t.alloc.queue = v.alloc.queue) :
    ∀ j ∈ s.withdrawalJobs i, j.Idle t := by
  intro j hj
  obtain rfl | rfl | rfl := mem_withdrawalJobs hj
  · exact hqueue.trans h.queue
  · exact .inl (by rw [hslot, h.slot])
  · refine handleActs_elsewhere ?_ ?_
    all_goals rw [hslot, h.slot]; exact nofun

/-! ### HANDLE_DEBOUNCE -/

theorem liveEvent_eq {act : State → State} (hl : s.Live) (hact : act s = u) :
    liveEvent act s = closeEvent (drain Config.workBound (noteRecords s u)) := by
  rw [liveEvent, event, unlessHeld_live _ _ hl.held, hact]

/-- A live event in which one job acts and all that follows does nothing. -/
theorem liveEvent_acts {act : State → State} {pre js brought : List Job} {j : Job} (hl : s.Live) (hact : act s = u)
    (hjobs : u.jobs = pre ++ j :: js) (hidle : ∀ x ∈ pre, x.Idle u)
    (hn : pre.length + 1 + (brought ++ js).length ≤ Config.workBound)
    (hjob : ∀ b l, (doJob j (u.resume b l)).jobs = brought ∧ (doJob j (u.resume b l)).late = []
      ∧ ∀ x ∈ brought ++ js, x.Idle (doJob j (u.resume b l))) :
    ∃ (b : Option Word16) (l l' : List SlotId) (b' : Option Word16),
      liveEvent act s = (doJob j (u.resume b l)).ended l' b' := by
  obtain ⟨b, l, l', b', he⟩ := drain_acts_ends (s := noteRecords s u) (n := Config.workBound) (j := j)
    hjobs (fun x hx => (hidle x hx).resume u.work u.late (noteRecords s u).changed u.broughtBy) hn hjob
  exact ⟨b, l, l', b', (liveEvent_eq hl hact).trans he⟩

/-- A live event that brings one job goes on from it. -/
theorem liveEvent_job {act : State → State} {j : Job} (hl : s.Live) (hact : act s = u) (hjobs : u.jobs = [j]) :
    ∃ (b : Option Word16) (l l' : List SlotId),
      liveEvent act s = closeEvent (drain 4095 { doJob j (u.resume b l) with changed := l' }) := by
  obtain ⟨ws, b, l, l', hws, hd⟩ := drain_acts_jobs (s := noteRecords s u) (n := Config.workBound) (pre := [])
    hjobs (fun _ h => absurd h List.not_mem_nil) (by simp [Config.workBound])
  obtain rfl := List.map_eq_nil_iff.mp hws
  refine ⟨b, l, l', (liveEvent_eq hl hact).trans (congrArg closeEvent (hd.trans ?_))⟩
  dsimp only
  rw [List.append_nil]
  rfl

/-- The state in which an opened handle's request is tested. -/
def State.requested (s : State) (i : SlotId) : State :=
  let u := s.handled i true true
  handNotice (slotNotice u i (.handle .opened) (u.activeTag i)) u

theorem handleTaken_requests (hopen : (s.slot i).handleOpen = false) (hvacant : (s.slot i).state ≠ .vacant)
    (hseating : (s.slot i).state ≠ .seating) :
    handleTaken i true (s.modPins i fun p => { p with handleOpen := true }) =
      (s.requested i).raise [.handle i] :=
  handleTaken_speaks (by simp [hopen, hvacant, hseating])

theorem requested_slot_self (s : State) (i : SlotId) :
    (s.requested i).slot i = { s.slot i with handleOpen := true, latch := true } := by
  simp [State.requested, handled_slot_self]

theorem requested_slot_ne (hj : j ≠ i) : (s.requested i).slot j = s.slot j := by
  simp [State.requested, handled_slot_ne hj]

@[simp] theorem requested_frame (s : State) (i : SlotId) :
    (s.requested i).time = s.time ∧ (s.requested i).cells = s.cells ∧ (s.requested i).mem = s.mem
    ∧ (s.requested i).alloc = s.alloc ∧ (s.requested i).power = s.power ∧ (s.requested i).ports = s.ports
    ∧ (s.requested i).settings = s.settings ∧ (s.requested i).engines = s.engines
    ∧ (s.requested i).work = s.work ∧ (s.requested i).late = s.late := by
  simp [State.requested, State.handled]

/-- A request that acts has the guard and the policy on its side (R28). -/
theorem handleActs_awaitPower (hlatch : (s.slot i).latch = true) (hhold : (s.slot i).hold = false)
    (hpolicy : (s.slot i).policy.handle = .selfRetire) (hstate : (s.slot i).state = .awaitPower)
    (hkind : s.activeKind i = some .admitBlade) : s.handleActs i = true := by
  simp [State.handleActs, hlatch, hhold, hpolicy, hstate, hkind]

theorem handleActs_inService (hlatch : (s.slot i).latch = true) (hhold : (s.slot i).hold = false)
    (hpolicy : (s.slot i).policy.handle = .selfRetire) (hstate : (s.slot i).state = .inService)
    (hactive : (s.slot i).active = false) (hguard : s.guardRefuses i = false) : s.handleActs i = true := by
  simp [State.handleActs, hlatch, hhold, hpolicy, hstate, hactive, hguard]

/-- In IN-SERVICE a request that acts begins a retirement with reason 240 (R28). -/
theorem handleTest_retires (hacts : s.handleActs i = true) (hstate : (s.slot i).state = .inService) :
    handleTest i s = beginRetirement i ⟨240, false, (s.slot i).policy.stampOnHandle, none⟩ .handle
      (s.activeTag i) s :=
  (if_pos hacts).trans (if_neg (by simp [hstate]))

theorem activeKind_headed (ho : (s.slot i).orders = [e]) (ha : (s.slot i).active = true) :
    s.activeKind i = some e.kind := by
  simp [State.activeKind, ho, ha]

theorem State.QuietBut.congr (h : s.QuietBut i) (halloc : t.alloc = s.alloc)
    (hstate : ∀ j, (t.slot j).state = (s.slot j).state) : t.QuietBut i where
  queue := by rw [halloc, hstate]; exact h.queue
  timing := by rw [halloc]; exact h.timing
  slots := fun j hj => by rw [hstate]; exact h.slots j hj

/-- Settles O37. -/
theorem handleRequestActs : Obligations.HandleRequestActs := by
  intro s i hinv hl hquiet hopen hpolicy hhold
  have hl' : (s.modPins i fun p => { p with handleOpen := true }).Live := live_modPins hl _
  obtain ⟨hwork, hlate, -, -, -⟩ := hl.toReady
  have self := requested_slot_self s i
  refine ⟨fun e hstate ho ha hkind => ?_, fun hstate ho ha hiso => ?_⟩
  · have act := handleTaken_requests hopen (by simp [hstate]) (by simp [hstate])
    have leaves : ∀ b l, (((s.requested i).raise [.handle i]).resume b l).Withdraws i e
        (handleTest i (((s.requested i).raise [.handle i]).resume b l)) := fun b l =>
      handleTest_withdraws (by simpa using hinv.mem)
        (hquiet.congr (by simp) fun j => by
          by_cases hj : j = i
          · subst hj
            simp [self]
          · simp [requested_slot_ne hj])
        (handleActs_awaitPower (by simp [self]) (by simp [self, hhold]) (by simp [self, hpolicy])
          (by simp [self, hstate]) ((activeKind_headed (e := e) (by simp [self, ho]) (by simp [self, ha])).trans
            (by rw [hkind])))
        (by simp [self, hstate]) (by simp [self, ho]) (by simp [self, ha])
    obtain ⟨b, l, l', b', he⟩ := liveEvent_acts (pre := []) (j := .handle i) (js := [])
      (brought := s.withdrawalJobs i) hl' act ((raise_jobs ..).trans (by rw [jobs_nil (by simp [hwork])]))
      (fun _ h => absurd h List.not_mem_nil)
      (by
        have := withdrawalJobs_length s i
        simp [Config.workBound]
        omega) fun b l => by
        refine ⟨(leaves b l).jobs.trans ?_, (leaves b l).late.trans (by simp [hlate]), fun x hx => ?_⟩
        · rw [jobs_nil (by simp)]
          simp [State.withdrawalJobs]
        · exact (leaves b l).idle rfl rfl x (by simpa [State.withdrawalJobs] using hx)
    have w := leaves b l
    have kept := ended_cellsKept (handleTest i (((s.requested i).raise [.handle i]).resume b l)) l' b'
    have finished := w.finished.of_kept kept
    have before : CellsKept s (((s.requested i).raise [.handle i]).resume b l) := by simp [CellsKept]
    refine ⟨_, congrArg Host.Outcome.next he, ?_, ?_, ?_, ?_, ?_, finished.cell, finished.code,
      ended_otherSlots l' b' fun j hj => ?_,
      (before.otherCells e.cell).trans (w.others.trans (kept.otherCells e.cell)), ?_, ?_⟩
    · simp [doJob, w.slot, Slot.enter]
    · simp [doJob, w.slot, Slot.enter, self]
    · simp [doJob, w.slot, Slot.enter, SlotState.clearsLatch]
    · simp [doJob, w.slot]
    · simp [doJob, w.queue]
    · simp [doJob, w.slots j hj, requested_slot_ne hj]
    · simp [doJob, w.power]
    · simp [doJob, w.ports]
  · have act := handleTaken_requests hopen (by simp [hstate]) (by simp [hstate])
    obtain ⟨b, l, l', he⟩ := liveEvent_job hl' act ((raise_jobs ..).trans (by rw [jobs_nil (by simp [hwork])]; rfl))
    have vself : (((s.requested i).raise [.handle i]).resume b l).slot i =
        { s.slot i with handleOpen := true, latch := true } := by simp [self]
    have ports : (((s.requested i).raise [.handle i]).resume b l).ports = s.ports := by simp
    have frame : (((s.requested i).raise [.handle i]).resume b l).late = []
        ∧ (((s.requested i).raise [.handle i]).resume b l).work = []
        ∧ (((s.requested i).raise [.handle i]).resume b l).power = s.power
        ∧ (((s.requested i).raise [.handle i]).resume b l).time = s.time
        ∧ (((s.requested i).raise [.handle i]).resume b l).settings = s.settings
        ∧ (((s.requested i).raise [.handle i]).resume b l).cells = s.cells
        ∧ (((s.requested i).raise [.handle i]).resume b l).mem = s.mem
        ∧ ∀ j, j ≠ i → (((s.requested i).raise [.handle i]).resume b l).slot j = s.slot j := by
      simp +contextual [hlate, requested_slot_ne]
    generalize ((s.requested i).raise [.handle i]).resume b l = v at *
    obtain ⟨late, work, power, time, settings, cells, mem, slots⟩ := frame
    have viso : ∀ p, nodeSlot p = i ∨ hubSlot p = i → (v.portOf p).state = .isolated := fun p hp => by
      rw [portOf_congr ports]
      exact hiso p hp
    have retires := handleTest_retires (s := v) (handleActs_inService (by simp [vself]) (by simp [vself, hhold])
      (by simp [vself, hpolicy]) (by simp [vself, hstate]) (by simp [vself, ha]) (guardRefuses_isolated viso))
      (by simp [vself, hstate])
    obtain ⟨u, l1, b1, hu, hends⟩ := drain_retirement (s := v) (i := i) (n := 4095)
      (fun p hp => viso p (mem_slotPorts.mp hp)) work late (by simp)
      ⟨240, false, (v.slot i).policy.stampOnHandle, none⟩ .handle (v.activeTag i) l'
    rw [← retires] at hends
    refine ⟨_, congrArg Host.Outcome.next (he.trans hends), ?_, ?_, ?_, ?_, ?_, ended_otherSlots l1 b1 fun j hj => ?_,
      ⟨?_, ?_⟩, ?_, ?_⟩
    · simp [hu.slot, Slot.quiesced, Slot.enter]
    · simp [hu.slot, Slot.quiesced, Slot.enter]
    · simp [hu.slot, Slot.quiesced, Slot.enter]
    · simp [hu.slot, Slot.quiesced, Slot.enter, vself, SlotState.endsRetirement]
    · simp [hu.slot, Slot.quiesced, time, settings]
    · rw [hu.slots j hj, slots j hj]
    · simp [hu.cells, cells]
    · simp [hu.mem, mem]
    · simp [hu.power, power]
    · simp [hu.ports, ports]

/-! ### UNHOLD and SET-POLICY -/

/-- The policy an UNHOLD or SET-POLICY leaves (R55, R56). -/
def State.policyAfter (s : State) (c : CellId) (k : OrderKind) (i : SlotId) : Policy :=
  if k = .setPolicy then s.policyParam c else (s.slot i).policy

/-- The state in which an UNHOLD or SET-POLICY that lets a handle request act tests it (R55, R56). -/
def State.released (s : State) (c : CellId) (k : OrderKind) (i : SlotId) : State :=
  (s.modSlot i fun x => { x with hold := false, policy := s.policyAfter c k i }).acting c

theorem released_slot_self (s : State) (c : CellId) (k : OrderKind) (i : SlotId) :
    (s.released c k i).slot i = { s.slot i with hold := false, policy := s.policyAfter c k i } :=
  modSlot_slot_self s i fun x => { x with hold := false, policy := s.policyAfter c k i }

theorem released_slot_ne (s : State) (c : CellId) (k : OrderKind) (h : j ≠ i) :
    (s.released c k i).slot j = s.slot j :=
  modSlot_slot_ne s i j (fun x => { x with hold := false, policy := s.policyAfter c k i }) h

@[simp] theorem released_frame (s : State) (c : CellId) (k : OrderKind) (i : SlotId) :
    (s.released c k i).time = s.time ∧ (s.released c k i).mem = s.mem ∧ (s.released c k i).alloc = s.alloc
    ∧ (s.released c k i).power = s.power ∧ (s.released c k i).ports = s.ports
    ∧ (s.released c k i).settings = s.settings ∧ (s.released c k i).work = s.work
    ∧ (s.released c k i).late = s.late := by
  simp [State.released, State.acting, State.pastCell]

/-- An UNHOLD or SET-POLICY of a slot in whose handle response nothing but HOLD or the policy stood in the way. -/
def State.Releases (s : State) (c : CellId) (k : OrderKind) (i : SlotId) : Prop :=
  k = .unhold ∧ (s.slot i).hold = true ∧ (s.slot i).policy.handle = .selfRetire
    ∨ k = .setPolicy ∧ (s.slot i).hold = false ∧ (s.policyParam c).handle = .selfRetire

theorem State.Releases.policy {k : OrderKind} (h : s.Releases c k i) :
    (s.policyAfter c k i).handle = .selfRetire := by
  obtain ⟨rfl, -, hp⟩ | ⟨rfl, -, hp⟩ := h
  · exact hp
  · exact hp

/-- Such an order tests the handle request and then finishes (R55, R56). -/
theorem State.Releases.act {k : OrderKind} (h : s.Releases c k i) (hslot : s.cellSlot c = some i) :
    handleKind c k (s.pastCell c) = finishOwn c i .done (handleTest i (s.released c k i)) := by
  have hslot' : (s.pastCell c).cellSlot c = some i := hslot
  unfold handleKind
  rw [hslot']
  obtain ⟨rfl, hhold, -⟩ | ⟨rfl, hhold, -⟩ := h
  · exact if_pos hhold
  · have same : { s.slot i with policy := s.policyParam c } =
        ({ s.slot i with hold := false, policy := s.policyParam c } : Slot) :=
      ((Slot.hold_eq_iff { s.slot i with policy := s.policyParam c } false).mpr hhold).symm
    have start : ((s.acting c).modSlot i fun x => { x with policy := (s.acting c).policyParam c }) =
        s.released c .setPolicy i :=
      (congrArg (fun x => (s.modSlot i fun _ => x).acting c) same)
    exact congrArg (fun v => finishOwn c i .done (handleTest i v)) start

/-- The first half of O32: an ADMIT in AWAIT-POWER is withdrawn. -/
theorem release_withdraws {k : OrderKind} (hinv : Inv s) (ht : s.TakesFor c k i) (hq : s.QuietBut i)
    (hstate : (s.slot i).state = .awaitPower) (ho : (s.slot i).orders = [e]) (ha : (s.slot i).active = true)
    (hkind : e.kind = .admitBlade) (hne : e.cell ≠ c) (hlatch : (s.slot i).latch = true) (h : s.Releases c k i) :
    ∃ t, exec (takeCommand (some k)) s = .next t
    ∧ (t.slot i).state = .parked ∧ (t.slot i).gen = nextGeneration (s.slot i).gen
    ∧ (t.slot i).latch = false ∧ (t.slot i).orders = [] ∧ t.alloc.queue = []
    ∧ t.cell e.cell = .finished ∧ t.rd8 e.cell 0x1C = OrderOutcome.cancelled.code
    ∧ t.cell c = .finished ∧ t.rd8 c 0x1C = OrderOutcome.done.code
    ∧ t.rd8 c 0x1E = SlotState.parked.code ∧ t.rd16 c 0x28 = (t.slot i).gen
    ∧ OtherSlots i s t ∧ t.power = s.power ∧ t.ports = s.ports := by
  obtain ⟨hwork, hlate, -, -, -⟩ := ht.toReady
  have self := released_slot_self s c k i
  have w := handleTest_withdraws (s := s.released c k i) (i := i) (e := e) (by simpa using hinv.mem)
    (hq.congr (by simp) fun j => by
      by_cases hj : j = i
      · subst hj
        simp [self]
      · simp [released_slot_ne s c k hj])
    (handleActs_awaitPower (by simp [self, hlatch]) (by simp [self]) (by simp [self, h.policy])
      (by simp [self, hstate]) ((activeKind_headed (e := e) (by simp [self, ho]) (by simp [self, ha])).trans
        (by rw [hkind])))
    (by simp [self, hstate]) (by simp [self, ho]) (by simp [self, ha])
  have act := h.act ht.slot
  generalize handleTest i (s.released c k i) = v at *
  have fslot : ∀ j, (finishOwn c i .done v).slot j = v.slot j := (finishCell_reads ..).1
  have jobs : (finishOwn c i .done v).jobs = (s.released c k i).withdrawalJobs i :=
    (jobs_congr (by simp [finishOwn])).trans (w.jobs.trans (by rw [jobs_nil (by simp [hwork])]; rfl))
  obtain ⟨l, b, -, he⟩ := exec_take_jobs ht.toTakes act jobs (by simp [finishOwn, w.late, hlate])
    ((withdrawalJobs_length ..).trans (by simp [Config.workBound]))
    (w.idle (fslot i) (by simp [finishOwn]))
  have own := (finishCell_finished w.wf c i .done v.time none []).of_kept (ended_cellsKept _ l b)
  have stands : CellStands e.cell v ((finishOwn c i .done v).ended l b) :=
    ((finishCell_otherCells w.wf ..).stands hne).trans ((ended_cellsKept _ l b).stands e.cell)
  have finished := w.finished.of_stands stands
  refine ⟨_, he, ?_, ?_, ?_, ?_, ?_, finished.cell, finished.code, own.cell, own.code, own.state.trans ?_,
    own.gen.trans ?_, ended_otherSlots l b fun j hj => ?_, ?_, ?_⟩
  · simp [fslot, w.slot, Slot.enter]
  · simp [fslot, w.slot, Slot.enter, self]
  · simp [fslot, w.slot, Slot.enter, SlotState.clearsLatch]
  · simp [fslot, w.slot]
  · simp [finishOwn, w.queue]
  · simp [w.slot, Slot.enter]
  · simp [fslot]
  · rw [fslot, w.slots j hj, released_slot_ne s c k hj]
  · simp [finishOwn, w.power]
  · simp [finishOwn, w.ports]

/-- The second half of O32: a retirement begins and reaches QUIESCING. -/
theorem release_retires {k : OrderKind} (hinv : Inv s) (ht : s.TakesFor c k i)
    (hstate : (s.slot i).state = .inService) (ha : (s.slot i).active = false) (hlatch : (s.slot i).latch = true)
    (hiso : ∀ p, nodeSlot p = i ∨ hubSlot p = i → (s.portOf p).state = .isolated) (h : s.Releases c k i) :
    ∃ t, exec (takeCommand (some k)) s = .next t
    ∧ (t.slot i).state = .quiescing ∧ (t.slot i).prev = .leaving ∧ (t.slot i).latch = false
    ∧ (t.slot i).gen = nextGeneration (nextGeneration (s.slot i).gen)
    ∧ (t.slot i).retire = some ⟨240, false, (t.slot i).policy.stampOnHandle, none⟩
    ∧ (t.slot i).policy = s.policyAfter c k i ∧ (t.slot i).hold = false
    ∧ (t.slot i).quiesce = some (after s.time s.settings.quiesceLimit)
    ∧ t.cell c = .finished ∧ t.rd8 c 0x1C = OrderOutcome.done.code
    ∧ t.rd8 c 0x1E = SlotState.leaving.code ∧ t.rd16 c 0x28 = nextGeneration (s.slot i).gen
    ∧ OtherSlots i s t ∧ OtherCells c s t ∧ t.alloc = s.alloc ∧ t.power = s.power ∧ t.ports = s.ports := by
  obtain ⟨hwork, hlate, -, -, -⟩ := ht.toReady
  have self := released_slot_self s c k i
  have frame := released_frame s c k i
  have slots : ∀ j, j ≠ i → (s.released c k i).slot j = s.slot j := fun j hj => released_slot_ne s c k hj
  have cells : OtherCells c s (s.released c k i) :=
    ⟨fun d _ => cell_congr (by simp [State.released, State.acting, State.pastCell]) d,
      fun _ _ => by rw [frame.2.1]⟩
  have act := h.act ht.slot
  generalize s.released c k i = v at *
  obtain ⟨time, mem, alloc, power, ports, settings, work, late⟩ := frame
  have viso : ∀ p, nodeSlot p = i ∨ hubSlot p = i → (v.portOf p).state = .isolated := fun p hp => by
    rw [portOf_congr ports]
    exact hiso p hp
  rw [handleTest_retires (s := v) (handleActs_inService (by simp [self, hlatch]) (by simp [self])
    (by simp [self, h.policy]) (by simp [self, hstate]) (by simp [self, ha]) (guardRefuses_isolated viso))
    (by simp [self, hstate]), beginRetirement_isolated fun p hp => viso p (mem_slotPorts.mp hp)] at act
  have lself := leaving_slot_self v i ⟨240, false, (v.slot i).policy.stampOnHandle, none⟩ .handle (v.activeTag i)
  have lslots : ∀ j, j ≠ i → (v.leaving i ⟨240, false, (v.slot i).policy.stampOnHandle, none⟩ .handle
      (v.activeTag i)).slot j = v.slot j := fun j hj => leaving_slot_ne _ _ _ hj
  have lframe := leaving_frame v i ⟨240, false, (v.slot i).policy.stampOnHandle, none⟩ .handle (v.activeTag i)
  generalize v.leaving i ⟨240, false, (v.slot i).policy.stampOnHandle, none⟩ .handle (v.activeTag i) = w at *
  obtain ⟨ltime, lcells, lmem, lalloc, lpower, lports, lsettings, lwork, llate, -⟩ := lframe
  have hm : Memory.wf (w.testLate i).mem = true := by simpa [lmem, mem] using hinv.mem
  have done := finishCell_finished hm c i .done (w.testLate i).time none []
  have others := finishCell_otherCells hm c i .done (w.testLate i).time none []
  have wcells : CellsKept v (w.testLate i) := ⟨lcells, lmem⟩
  have fslot : ∀ j, (finishOwn c i .done (w.testLate i)).slot j = w.slot j := (finishCell_reads ..).1
  have fframe : (finishOwn c i .done (w.testLate i)).time = s.time
      ∧ (finishOwn c i .done (w.testLate i)).alloc = s.alloc
      ∧ (finishOwn c i .done (w.testLate i)).power = s.power
      ∧ (finishOwn c i .done (w.testLate i)).ports = s.ports
      ∧ (finishOwn c i .done (w.testLate i)).settings = s.settings
      ∧ (finishOwn c i .done (w.testLate i)).work = []
      ∧ (finishOwn c i .done (w.testLate i)).late = [⟨i, w.broughtBy⟩] := by
    simp [finishOwn, ltime, time, lalloc, alloc, lpower, power, lports, ports, lsettings, settings, lwork, work, hwork,
      testLate_late (s := w) (i := i) (by rw [llate, late, hlate])]
  have fcells : (finishOwn c i .done (w.testLate i)).Finished c OrderOutcome.done.code 0 SlotState.leaving.code
      (nextGeneration (s.slot i).gen) := by
    simpa [finishOwn, faultByte, lself, self, Slot.enter] using done
  have fothers : OtherCells c s (finishOwn c i .done (w.testLate i)) :=
    cells.trans ((wcells.otherCells c).trans others)
  generalize finishOwn c i .done (w.testLate i) = f at *
  obtain ⟨ftime, falloc, fpower, fports, fsettings, fwork, flate⟩ := fframe
  obtain ⟨b, l, l', b', hends⟩ := drain_leaves (v := noteRecords s f) (n := Config.workBound) fwork flate
    (by simp [fslot, lself, Slot.enter])
    (fun p hp => by simpa [portOf_congr fports] using hiso p (mem_slotPorts.mp hp)) (by simp [Config.workBound])
  have he : exec (takeCommand (some k)) s = _ := exec_take_passes ht.toTakes
  rw [act] at he
  obtain ⟨slot, others, -, -⟩ := leaveSlot_leaves ((noteRecords s f).tested [] b l) i
  have kept : CellsKept f ((leaveSlot i ((noteRecords s f).tested [] b l)).ended l' b') := by simp [CellsKept]
  have own := fcells.of_kept kept
  refine ⟨_, he.trans (congrArg Host.Outcome.next hends), ?_, ?_, ?_, ?_, ?_, ?_, ?_, ?_, own.cell, own.code,
    own.state, own.gen, ended_otherSlots l' b' fun j hj => ?_, fothers.trans (kept.otherCells c), ?_, ?_, ?_⟩
  · simp [slot, Slot.enter]
  · simp [slot, fslot, lself, Slot.enter]
  · simp [slot, fslot, lself, Slot.enter]
  · simp [slot, fslot, lself, self, Slot.enter]
  · simp [slot, fslot, lself, Slot.enter, SlotState.endsRetirement]
  · simp [slot, fslot, lself, self, Slot.enter]
  · simp [slot, fslot, lself, self, Slot.enter]
  · simp [slot, ftime, fsettings]
  · simp [others j hj, fslot, lslots j hj, slots j hj]
  · simp [falloc]
  · simp [fpower]
  · simp [fports]

/-- Settles O32. -/
theorem unholdLetsHandleAct : Obligations.UnholdLetsHandleAct :=
  ⟨fun _ _ _ _ _ hinv ht hq hstate ho ha hkind hne hlatch h =>
      release_withdraws hinv ht hq hstate ho ha hkind hne hlatch h,
    fun _ _ _ _ hinv ht _ hstate _ ha hlatch hiso h => release_retires hinv ht hstate ha hlatch hiso h⟩

end Sys2Proof.Machine

/-! What an act of the Fabric Coordinator on some ports leaves as it was, and the late tests it asks for (R102). -/

namespace Sys2Proof.Machine

variable {s t u v : State} {i j : SlotId} {p q : PortId} {P : SlotId → Prop} {M : PortId → Prop}

/-! ### Late tests -/

/-- Late tests wait, each once, for slots of `P` alone. -/
structure State.LateWithin (s : State) (P : SlotId → Prop) : Prop where
  once : (s.late.map LateTest.slot).Nodup
  within : ∀ x ∈ s.late, P x.slot

namespace State.LateWithin

theorem of_nil (h : s.late = []) : s.LateWithin P where
  once := by simp [h]
  within := by simp [h]

theorem congr (h : s.LateWithin P) (hl : t.late = s.late) : t.LateWithin P where
  once := by rw [hl]; exact h.once
  within := by rw [hl]; exact h.within

theorem length_le (h : s.LateWithin P) : s.late.length ≤ 16 := by
  have := h.once.length_le_card
  simpa using this

theorem testLate (h : s.LateWithin P) (hi : P i) : (s.testLate i).LateWithin P := by
  by_cases hany : s.late.any fun x => decide (x.slot = i)
  · exact h.congr (if_pos hany)
  · have late : (s.testLate i).late = s.late ++ [⟨i, s.broughtBy⟩] := if_neg hany
    have fresh : i ∉ s.late.map LateTest.slot := fun hmem => hany <| by
      obtain ⟨x, hx, rfl⟩ := List.mem_map.mp hmem
      exact List.any_eq_true.mpr ⟨x, hx, decide_eq_true rfl⟩
    refine ⟨?_, fun x hx => ?_⟩
    · rw [late, List.map_append]
      exact List.nodup_append'.mpr ⟨h.once, List.nodup_singleton _, by simpa using fresh⟩
    · rw [late, List.mem_append, List.mem_singleton] at hx
      rcases hx with hx | rfl
      · exact h.within x hx
      · exact hi

theorem modPort (h : s.LateWithin P) (hnode : P (nodeSlot p)) (hhub : P (hubSlot p)) (f : Port → Port) :
    (s.modPort p f).LateWithin P :=
  ((h.congr (t := { s with ports := s.ports.set (portIndex p) (f (s.portOf p)) }) rfl).testLate hnode).testLate hhub

end State.LateWithin

/-- With few jobs that do nothing, and late tests that find no join and no leave done, an event is at its end. -/
theorem State.LateWithin.atEnd {js : List Job} {n : Nat} (h : v.LateWithin P) (hjobs : v.jobs = js)
    (hidle : ∀ j ∈ js, j.Idle v) (htests : ∀ j, P j → LateIdle v j) (hn : js.length + 16 ≤ n) : v.AtEnd n where
  room := by
    have := h.length_le
    have : v.work.length = js.length := by rw [← hjobs, State.jobs, List.length_map]
    omega
  jobs := work_idle hjobs hidle
  tests := fun x hx => htests _ (h.within x hx)

/-! ### Messages about a port -/

/-- A message on the link of slot `i` that is about port `p` (R126). -/
def Msg.Concerns (m : Msg) (p : PortId) (i : SlotId) : Prop :=
  i = nodeSlot p ∧ m.far = some (15 + p.hub.val) ∨ i = hubSlot p ∧ m.far = some (p.node.val + 1)

theorem undoes_far {m m' : Msg} (h : m.undoes m' = true) : m'.far = m.far := by
  cases m <;> cases m' <;> simp_all [Msg.undoes, Msg.far]

theorem notificationFor_far {far : Option Nat} {m : Msg} (h : m.notificationFor far = true) : m.far = far := by
  simp only [Msg.notificationFor, Bool.and_eq_true, decide_eq_true_iff] at h
  exact h.1.2

theorem handshakeFor_far {far : Option Nat} {m : Msg} (h : m.handshakeFor far = true) : m.far = far := by
  simp only [Msg.handshakeFor, Bool.and_eq_true, decide_eq_true_iff] at h
  exact h.1.2

/-- Messages that are ended are those that satisfy the test alone (R135). -/
theorem Engine.Carries.endMessages {e : Engine} {m : Msg} (h : e.Carries m) {f : Msg → Bool} (hf : f m = false) :
    (e.endMessages f).Carries m := by
  obtain ⟨q, hq, rfl⟩ | ⟨o, ho, rfl, hlive⟩ := h
  · exact .inl ⟨q, List.mem_filter.mpr ⟨hq, by simp [hf]⟩, rfl⟩
  · exact .inr ⟨o, by simp [Engine.endMessages, ho, hf], rfl, hlive⟩

/-- A port message that is placed leaves the messages for other far slots (R134). -/
theorem Engine.Carries.ported {e : Engine} {m m' : Msg} (h : e.Carries m) (hfar : m.far ≠ m'.far) (now : Time) :
    (e.ported now m').Carries m := by
  unfold Engine.ported
  split
  · obtain ⟨q, hq, rfl⟩ | ⟨o, ho⟩ := h
    · refine .inl ⟨q, List.mem_filter.mpr ⟨hq, ?_⟩, rfl⟩
      simpa using fun hu => hfar (undoes_far hu)
    · exact .inr ⟨o, ho⟩
  · refine (Engine.Carries.join (h.endMessages ?_) ..).serve now
    exact Bool.eq_false_iff.mpr fun hn => hfar (notificationFor_far hn)

/-- A port message placed on a link that is UP waits or is sent, unless it takes back a queued one (R134). -/
theorem carries_placePort {m : Msg} (hup : s.linkUp i = true) (hq : (s.engine i).queued m.undoes = false) :
    ((placePort i m s).engine i).Carries m := by
  rw [placePort_eq, modEngine_engine_self, Engine.ported, if_neg (by simp [hq])]
  exact (Engine.carries_join (e := (s.engine i).endMessages (Msg.notificationFor m.far))
    (of_decide_eq_true hup) ..).serve _

/-! ### The steps of an abrupt isolation -/

/-- A port that is cut off: its handshake messages are ended and it is ISOLATED (R118 steps 1 and 2). -/
def State.cutOff (s : State) (p : PortId) : State :=
  toIsolated p (endMessages (nodeSlot p) (Msg.handshakeFor (some (15 + p.hub.val)))
    (endMessages (hubSlot p) (Msg.handshakeFor (some (p.node.val + 1))) s))

/-- A slot of an isolated port is notified if it may be (R118 step 3). -/
def State.notified (s : State) (i : SlotId) (m : Msg) (loss : Option SlotId) : State :=
  if s.mayNotify i loss then placePort i m s else s

theorem isolatePort_eq (p : PortId) (loss : Option SlotId) (notice : Bool) (s : State) :
    isolatePort p loss notice s =
      if (s.portOf p).state = .isolated then s
      else
        let v := ((s.cutOff p).notified (hubSlot p) (.drop p.node) loss).notified (nodeSlot p) (.pathLost p.hub) loss
        if notice then portNotice p .abrupt .isolated v else v := rfl

/-! ### Acts on ports -/

/-- What an act on ports of `M` leaves as it was. -/
structure State.Moves (M : PortId → Prop) (s t : State) : Prop where
  ports : ∀ q, ¬ M q → t.portOf q = s.portOf q
  links : ∀ j, t.linkUp j = s.linkUp j
  engines : ∀ j, (∀ p, M p → j ≠ nodeSlot p ∧ j ≠ hubSlot p) → t.engine j = s.engine j
  carries : ∀ j m, (∀ p, M p → ¬ m.Concerns p j) → (s.engine j).Carries m → (t.engine j).Carries m
  late : ∀ P : SlotId → Prop, (∀ p, M p → P (nodeSlot p) ∧ P (hubSlot p)) → s.LateWithin P → t.LateWithin P
  slots : t.slots = s.slots
  time : t.time = s.time
  settings : t.settings = s.settings
  cells : t.cells = s.cells
  mem : t.mem = s.mem
  alloc : t.alloc = s.alloc
  power : t.power = s.power
  history : t.history = s.history
  work : t.work = s.work
  straps : t.straps = s.straps
  pins : t.pins = s.pins
  broughtBy : t.broughtBy = s.broughtBy

namespace State.Moves

theorem refl : s.Moves M s :=
  ⟨fun _ _ => rfl, fun _ => rfl, fun _ _ => rfl, fun _ _ _ h => h, fun _ _ h => h, rfl, rfl, rfl, rfl, rfl, rfl, rfl,
    rfl, rfl, rfl, rfl, rfl⟩

theorem trans (h : s.Moves M t) (h' : t.Moves M u) : s.Moves M u where
  ports q hq := (h'.ports q hq).trans (h.ports q hq)
  links j := (h'.links j).trans (h.links j)
  engines j hj := (h'.engines j hj).trans (h.engines j hj)
  carries j m hm hc := h'.carries j m hm (h.carries j m hm hc)
  late P hP hl := h'.late P hP (h.late P hP hl)
  slots := h'.slots.trans h.slots
  time := h'.time.trans h.time
  settings := h'.settings.trans h.settings
  cells := h'.cells.trans h.cells
  mem := h'.mem.trans h.mem
  alloc := h'.alloc.trans h.alloc
  power := h'.power.trans h.power
  history := h'.history.trans h.history
  work := h'.work.trans h.work
  straps := h'.straps.trans h.straps
  pins := h'.pins.trans h.pins
  broughtBy := h'.broughtBy.trans h.broughtBy

theorem mono {N : PortId → Prop} (h : s.Moves M t) (hMN : ∀ p, M p → N p) : s.Moves N t where
  ports _ hq := h.ports _ fun hM => hq (hMN _ hM)
  links := h.links
  engines j hj := h.engines j fun p hp => hj p (hMN p hp)
  carries j m hm := h.carries j m fun p hp => hm p (hMN p hp)
  late _ hP := h.late _ fun p hp => hP p (hMN p hp)
  slots := h.slots
  time := h.time
  settings := h.settings
  cells := h.cells
  mem := h.mem
  alloc := h.alloc
  power := h.power
  history := h.history
  work := h.work
  straps := h.straps
  pins := h.pins
  broughtBy := h.broughtBy

theorem foldl {f : State → PortId → State} (hf : ∀ (s : State) p, M p → s.Moves M (f s p)) :
    ∀ (ps : List PortId) (s : State), (∀ p ∈ ps, M p) → s.Moves M (ps.foldl f s)
  | [], _, _ => refl
  | p :: ps, s, hps => (hf s p (hps p List.mem_cons_self)).trans
    (foldl hf ps (f s p) fun q hq => hps q (List.mem_cons_of_mem _ hq))

variable (s)

theorem modPort (hp : M p) (f : Port → Port) : s.Moves M (s.modPort p f) where
  ports _ hq := modPort_portOf_ne _ _ _ _ fun h => hq (h ▸ hp)
  links _ := rfl
  engines _ _ := rfl
  carries _ _ _ h := h
  late _ hP hl := hl.modPort (hP p hp).1 (hP p hp).2 f
  slots := rfl
  time := rfl
  settings := rfl
  cells := rfl
  mem := rfl
  alloc := rfl
  power := rfl
  history := rfl
  work := rfl
  straps := rfl
  pins := rfl
  broughtBy := rfl

/-- A change of the engine of a slot of a port that leaves its link state and the messages about other ports. -/
theorem modEngine {f : Engine → Engine} (hp : M p) (hi : i = nodeSlot p ∨ i = hubSlot p)
    (hlink : (f (s.engine i)).link = (s.engine i).link)
    (hcarries : ∀ m, ¬ m.Concerns p i → (s.engine i).Carries m → (f (s.engine i)).Carries m) :
    s.Moves M (s.modEngine i f) where
  ports _ _ := rfl
  links := modEngine_linkUp hlink
  engines j hj := modEngine_engine_ne _ _ _ _ fun h => by
    subst h
    rcases hi with rfl | rfl
    · exact (hj p hp).1 rfl
    · exact (hj p hp).2 rfl
  carries j m hm h := by
    by_cases hj : j = i
    · subst hj
      rw [modEngine_engine_self]
      exact hcarries m (hm p hp) h
    · rwa [modEngine_engine_ne _ _ _ _ hj]
  late _ _ hl := hl.congr rfl
  slots := rfl
  time := rfl
  settings := rfl
  cells := rfl
  mem := rfl
  alloc := rfl
  power := rfl
  history := rfl
  work := rfl
  straps := rfl
  pins := rfl
  broughtBy := rfl

theorem placePort {m : Msg} (hp : M p) (hm : m.Concerns p i) : s.Moves M (placePort i m s) := by
  rw [placePort_eq]
  refine modEngine s hp (hm.imp And.left And.left) (ported_link ..) fun m' hm' h => h.ported (fun heq => hm' ?_) _
  unfold Msg.Concerns at hm ⊢
  rw [heq]
  exact hm

theorem endMessages {f : Msg → Bool} (hp : M p) (hi : i = nodeSlot p ∨ i = hubSlot p)
    (hf : ∀ m, f m = true → m.Concerns p i) : s.Moves M (endMessages i f s) :=
  modEngine s hp hi rfl fun m hm h => h.endMessages (by simpa using fun ht => hm (hf m ht))

theorem putBack (hp : M p) (hi : i = nodeSlot p ∨ i = hubSlot p) (ms : Nat) : s.Moves M (putBack i ms s) :=
  modEngine s hp hi (by unfold Engine.putBack; split <;> simp) fun m _ h => by
    unfold Engine.putBack
    split
    · exact h.join ..
    · exact h

theorem portNotice (d : PortDetail) (st : PortState) : s.Moves M (portNotice p d st s) where
  ports _ _ := by simp
  links _ := by simp
  engines _ _ := by simp
  carries _ _ _ h := by simpa using h
  late _ _ hl := hl.congr (by simp)
  slots := by simp
  time := by simp
  settings := by simp
  cells := by simp
  mem := by simp
  alloc := by simp
  power := by simp
  history := by simp
  work := by simp
  straps := by simp
  pins := by simp
  broughtBy := by simp

theorem testLate (hp : M p) (hi : i = nodeSlot p ∨ i = hubSlot p) : s.Moves M (s.testLate i) where
  ports _ _ := rfl
  links _ := rfl
  engines _ _ := rfl
  carries _ _ _ h := h
  late P hP hl := hl.testLate (by
    rcases hi with rfl | rfl
    · exact (hP p hp).1
    · exact (hP p hp).2)
  slots := rfl
  time := rfl
  settings := rfl
  cells := rfl
  mem := rfl
  alloc := rfl
  power := rfl
  history := rfl
  work := rfl
  straps := rfl
  pins := rfl
  broughtBy := rfl

theorem toIsolated (hp : M p) : s.Moves M (toIsolated p s) := modPort s hp _

theorem offerTest (hp : M p) : s.Moves M (offerTest p s) := by
  unfold Machine.offerTest
  split
  · exact (modPort s hp _).trans (placePort _ hp (.inr ⟨rfl, rfl⟩))
  · exact refl

theorem offerTests (ps : List PortId) (h : ∀ p ∈ ps, M p) : s.Moves M (offerTests ps s) :=
  foldl (fun s _ hp => offerTest s hp) ps s h

theorem clearDeclined (h : ∀ p ∈ slotPorts i, M p) : s.Moves M (clearDeclined i s) :=
  foldl (fun s _ hp => modPort s hp _) _ s h

theorem toWithdrawing (hp : M p) (fresh cause : Bool) : s.Moves M (toWithdrawing p fresh cause s) := by
  unfold Machine.toWithdrawing
  split
  · have placed : ∀ f, s.Moves M (Machine.placePort (hubSlot p) (.withdraw p.node) (s.modPort p f)) := fun f =>
      (modPort s hp f).trans (placePort _ hp (.inr ⟨rfl, rfl⟩))
    dsimp only
    split
    · exact (placed _).trans (portNotice ..)
    · exact placed _
  · exact ((toIsolated s hp).trans (portNotice ..)).trans (offerTest _ hp)

theorem toClosing (hp : M p) : s.Moves M (toClosing p s) := by
  unfold Machine.toClosing
  split
  · exact (modPort s hp _).trans (placePort _ hp (.inl ⟨rfl, rfl⟩))
  · exact toWithdrawing s hp _ _

/-- The end of one message about a port. -/
theorem endMessage {m : Msg} (hp : M p) (hm : m.Concerns p i) :
    s.Moves M (Machine.endMessages i (fun m' => decide (m' = m)) s) :=
  endMessages s hp (hm.imp And.left And.left) fun m' h => by
    rw [of_decide_eq_true h]
    exact hm

theorem withdrawPort (hp : M p) : s.Moves M (withdrawPort s p) := by
  unfold Machine.withdrawPort
  split
  · exact refl
  · split
    · exact ((endMessage s hp (.inr ⟨rfl, rfl⟩)).trans (toIsolated _ hp)).trans (offerTest _ hp)
    · exact refl
  · split
    · exact (placePort s hp (.inl ⟨rfl, rfl⟩)).trans (toWithdrawing _ hp _ _)
    · exact (endMessage s hp (.inl ⟨rfl, rfl⟩)).trans (toClosing _ hp)
  · exact toClosing s hp
  · exact refl
  · exact refl

theorem withdrawSlot (h : ∀ p ∈ slotPorts i, M p) (hi : ∃ p, M p ∧ (i = nodeSlot p ∨ i = hubSlot p)) :
    s.Moves M (withdrawSlot i s) :=
  let ⟨_, hp, hi⟩ := hi
  (foldl (fun s _ hp => withdrawPort s hp) _ s h).trans (testLate _ hp hi)

theorem cutOff (hp : M p) : s.Moves M (s.cutOff p) :=
  ((endMessages s hp (.inr rfl) fun _ hm => .inr ⟨rfl, handshakeFor_far hm⟩).trans
    (endMessages _ hp (.inl rfl) fun _ hm => .inl ⟨rfl, handshakeFor_far hm⟩)).trans (toIsolated _ hp)

theorem notified {m : Msg} (hp : M p) (hm : m.Concerns p i) (loss : Option SlotId) :
    s.Moves M (s.notified i m loss) := by
  unfold State.notified
  split
  · exact placePort s hp hm
  · exact refl

theorem isolatePort (hp : M p) (loss : Option SlotId) (notice : Bool) : s.Moves M (isolatePort p loss notice s) := by
  have moved := ((cutOff s hp).trans (notified _ (m := .drop p.node) hp (.inr ⟨rfl, rfl⟩) loss)).trans
    (notified _ (m := .pathLost p.hub) hp (.inl ⟨rfl, rfl⟩) loss)
  rw [isolatePort_eq]
  split
  · exact refl
  · cases notice
    · exact moved
    · exact moved.trans (portNotice ..)

theorem isolateSlot (h : ∀ p ∈ slotPorts i, M p) : s.Moves M (isolateSlot i s) :=
  (foldl (fun s _ hp => isolatePort s hp _ _) _ s h).trans (offerTests _ _ h)

theorem resolveNodePort (hp : M p) : s.Moves M (resolveNodePort s p) := by
  unfold Machine.resolveNodePort
  split
  · exact refl
  · split
    · exact (((endMessage s hp (.inr ⟨rfl, rfl⟩)).trans (toIsolated _ hp)).trans (portNotice ..)).trans
        (offerTest _ hp)
    · exact refl
  · exact toWithdrawing s hp _ _
  · exact refl
  · exact toWithdrawing s hp _ _
  · exact refl

theorem resolveHubPort (hp : M p) : s.Moves M (resolveHubPort s p) := by
  unfold Machine.resolveHubPort
  split
  · exact ((toIsolated s hp).trans (modPort _ hp _)).trans (portNotice ..)
  · exact ((toIsolated s hp).trans (portNotice ..)).trans (offerTest _ hp)
  all_goals exact refl

theorem takeAccept (hp : M p) : s.Moves M (takeAccept p s) := by
  unfold Machine.takeAccept
  split
  · split
    · exact (modPort s hp _).trans (placePort _ hp (.inl ⟨rfl, rfl⟩))
    · exact toWithdrawing s hp _ _
  · exact toWithdrawing s hp _ _

theorem takeRefuse (hp : M p) : s.Moves M (takeRefuse p s) :=
  ((modPort s hp _).trans (portNotice ..)).trans (offerTest _ hp)

theorem abortPort (hp : M p) (i : SlotId) (ps : List SlotId) : s.Moves M (abortPort i ps s p) := by
  unfold Machine.abortPort
  dsimp only
  generalize (if nodeSlot p = i then hubSlot p else nodeSlot p) = other
  split
  · exact refl
  · split
    · exact ((endMessage s hp (.inl ⟨rfl, rfl⟩)).trans (modPort _ hp _)).trans (placePort _ hp (.inl ⟨rfl, rfl⟩))
    · exact modPort s hp _
    all_goals exact refl

end State.Moves

end Sys2Proof.Machine

/-! What the Fabric Coordinator's acts make of a port (R104 to R114), and RETIRE in a node slot (R112). -/

namespace Sys2Proof.Machine

variable {s t u v : State} {i j : SlotId} {p q : PortId} {P : SlotId → Prop} {M : PortId → Prop} {c d : CellId}

/-! ### Queued messages -/

/-- No message of a kind is queued that is neither queued before nor placed. -/
theorem queued_join {e : Engine} {f : Msg → Bool} {m : Msg} (h : e.queued f = false) (hm : f m = false) (b : Placer)
    (n : Option Time) : (e.join m b n).queued f = false := by
  unfold Engine.join
  split
  · simpa [Engine.queued, hm] using h
  · exact h

theorem queued_serve {e : Engine} {f : Msg → Bool} (h : e.queued f = false) (now : Time) :
    (e.serve now).queued f = false := by
  unfold Engine.serve
  split
  · split
    · have sub : ∀ q ∈ e.queue.eraseP (QueuedMsg.ready now), f q.msg = false := fun q hq => by
        simpa using List.any_eq_false.mp h q (List.mem_of_mem_eraseP hq)
      simpa [Engine.queued, Engine.send] using sub
    · exact h
  · exact h

theorem queued_ported {e : Engine} {f : Msg → Bool} {m : Msg} (h : e.queued f = false) (hm : f m = false) (now : Time) :
    (e.ported now m).queued f = false := by
  have sub : ∀ g : QueuedMsg → Bool, (e.queue.filter g).any (fun q => f q.msg) = false := fun g =>
    List.any_eq_false.mpr fun q hq => List.any_eq_false.mp h q (List.mem_of_mem_filter hq)
  unfold Engine.ported
  split
  · exact sub _
  · exact queued_serve (queued_join (e := e.endMessages (Msg.notificationFor m.far)) (sub _) hm _ _) _

theorem queued_placePort {f : Msg → Bool} {m : Msg} (h : (s.engine i).queued f = false) (hm : f m = false) :
    ((placePort i m s).engine i).queued f = false := by
  rw [placePort_eq, modEngine_engine_self]
  exact queued_ported h hm _

/-! ### Ports that are withdrawn -/

/-- On a node link that is UP a port enters CLOSING, with PATH-CLOSE on it (R112). -/
theorem toClosing_up (hup : s.linkUp (nodeSlot p) = true)
    (hq : (s.engine (nodeSlot p)).queued (fun m => decide (m = .pathOpen p.hub)) = false) :
    (toClosing p s).portOf p = { s.portOf p with state := .closing, deadline := s.drainDeadline }
    ∧ ((toClosing p s).engine (nodeSlot p)).Carries (.pathClose p.hub)
    ∧ (∀ f : Msg → Bool, (s.engine (nodeSlot p)).queued f = false → f (.pathClose p.hub) = false →
      ((toClosing p s).engine (nodeSlot p)).queued f = false)
    ∧ ∀ j, j ≠ nodeSlot p → (toClosing p s).engine j = s.engine j := by
  unfold toClosing
  rw [if_pos hup]
  refine ⟨by simp, carries_placePort hup ?_, fun f hf hm => queued_placePort hf hm, fun j hj => by simp [hj]⟩
  have undoes : Msg.undoes (.pathClose p.hub) = fun m => decide (m = .pathOpen p.hub) := by
    funext m
    cases m <;> simp [Msg.undoes, eq_comm]
  rw [undoes]
  exact hq

theorem nodeSlot_ne_hubSlot (p q : PortId) : nodeSlot p ≠ hubSlot q := fun h => by
  have := congrArg Fin.val h
  simp only [nodeSlot, hubSlot] at this
  omega

theorem slotPorts_node (n : NodeId) : slotPorts (nodeSlot ⟨n, 0⟩) = [⟨n, 0⟩, ⟨n, 1⟩] := by
  revert n
  decide

/-- Both OPEN ports of a node whose link is UP are CLOSING after its withdrawal (R112). -/
theorem withdrawPorts_node {n : NodeId} (hup : s.linkUp (nodeSlot ⟨n, 0⟩) = true)
    (hopen : ∀ h, (s.portOf ⟨n, h⟩).state = .opened)
    (hq : ∀ h, (s.engine (nodeSlot ⟨n, 0⟩)).queued (fun m => decide (m = .pathOpen h)) = false) :
    let v := withdrawPort (withdrawPort s ⟨n, 0⟩) ⟨n, 1⟩
    (∀ h, v.portOf ⟨n, h⟩ = { s.portOf ⟨n, h⟩ with state := .closing, deadline := s.drainDeadline }
      ∧ (v.engine (nodeSlot ⟨n, 0⟩)).Carries (.pathClose h))
    ∧ ∀ j, j ≠ nodeSlot ⟨n, 0⟩ → v.engine j = s.engine j := by
  intro v
  have closes : ∀ (s : State) (p : PortId), (s.portOf p).state = .opened → withdrawPort s p = toClosing p s :=
    fun s p hp => by unfold withdrawPort; rw [hp]
  obtain ⟨port0, carries0, keeps, engines0⟩ := toClosing_up (p := ⟨n, 0⟩) hup (hq 0)
  have first := State.Moves.toClosing s (p := ⟨n, 0⟩) (M := (· = ⟨n, 0⟩)) rfl
  have ne : (⟨n, 1⟩ : PortId) ≠ ⟨n, 0⟩ := by simp
  have eq : v = toClosing ⟨n, 1⟩ (toClosing ⟨n, 0⟩ s) := by
    refine (congrArg (withdrawPort · ⟨n, 1⟩) (closes s ⟨n, 0⟩ (hopen 0))).trans (closes _ _ ?_)
    rw [first.ports _ ne]
    exact hopen 1
  obtain ⟨port1, carries1, -, engines1⟩ := toClosing_up (s := toClosing ⟨n, 0⟩ s) (p := ⟨n, 1⟩) ((first.links _).trans hup)
    (keeps _ (hq 1) rfl)
  have second := State.Moves.toClosing (toClosing ⟨n, 0⟩ s) (p := ⟨n, 1⟩) (M := (· = ⟨n, 1⟩)) rfl
  rw [eq]
  refine ⟨fun h => ?_, fun j hj => (engines1 j hj).trans (engines0 j hj)⟩
  match h with
  | 0 =>
    refine ⟨(second.ports _ ne.symm).trans port0, second.carries _ _ (fun p hp => ?_) carries0⟩
    subst hp
    rintro (⟨-, hfar⟩ | ⟨hslot, -⟩)
    · simp [Msg.far] at hfar
    · exact nodeSlot_ne_hubSlot _ _ hslot
  | 1 =>
    refine ⟨port1.trans ?_, carries1⟩
    rw [first.ports _ ne, State.drainDeadline, first.time, first.settings]
    rfl

/-- A node slot is guarded by no other (R123). -/
theorem guardRefuses_node (s : State) (p : PortId) : s.guardRefuses (nodeSlot p) = false := by
  rw [Bool.eq_false_iff, Ne, guardRefuses_iff]
  rintro ⟨-, -, q, hq, -⟩
  exact nodeSlot_ne_hubSlot p q hq.symm

/-- A slot whose state is neither JOINING nor LEAVING has no late test to do (R102). -/
theorem lateIdle_elsewhere (hjoin : (s.slot j).state ≠ .joining) (hleave : (s.slot j).state ≠ .leaving) :
    LateIdle s j :=
  ⟨fun h => hjoin h.1, fun h => hleave h.1⟩

/-- The second half of O25. -/
theorem retireStarts_node (s : State) (c : CellId) (n : NodeId) (hinv : Inv s) (hquiet : s.Quiet)
    (ht : s.TakesFor c .retire (nodeSlot ⟨n, 0⟩)) (hstate : (s.slot (nodeSlot ⟨n, 0⟩)).state = .inService)
    (hidle : (s.slot (nodeSlot ⟨n, 0⟩)).Idle) (hup : s.linkUp (nodeSlot ⟨n, 0⟩) = true)
    (hcond : conditionMatches (s.cellCondition c) (s.slot (nodeSlot ⟨n, 0⟩)).gen = true)
    (hopen : ∀ h, (s.portOf ⟨n, h⟩).state = .opened)
    (hq : ∀ h, (s.engine (nodeSlot ⟨n, 0⟩)).queued (fun m => decide (m = .pathOpen h)) = false) :
    ∃ t, exec .retire s = .next t
    ∧ (t.slot (nodeSlot ⟨n, 0⟩)).state = .leaving ∧ (t.slot (nodeSlot ⟨n, 0⟩)).prev = .inService
    ∧ (t.slot (nodeSlot ⟨n, 0⟩)).retire = some ⟨s.rd8 c 0x0C, s.cellGentle c, s.cellStamp c, some c⟩
    ∧ (∀ h, (t.portOf ⟨n, h⟩).state = .closing ∧ (t.portOf ⟨n, h⟩).gate = true
        ∧ (t.portOf ⟨n, h⟩).deadline = some (after s.time s.settings.drainLimit)
        ∧ (t.engine (nodeSlot ⟨n, 0⟩)).Carries (.pathClose h))
    ∧ (∀ p, p.node ≠ n → t.portOf p = s.portOf p)
    ∧ t.cell c = .taken ∧ t.mem = s.mem ∧ (∀ d, d ≠ c → t.cell d = s.cell d)
    ∧ t.power = s.power ∧ t.alloc = s.alloc
    ∧ OtherSlots (nodeSlot ⟨n, 0⟩) s t ∧ OtherEngines (nodeSlot ⟨n, 0⟩) s t := by
  obtain ⟨l, l0, he⟩ := exec_take_start ht rfl
  generalize hi : nodeSlot ⟨n, 0⟩ = i at *
  have self := started_slot_self s c .retire i l hidle.orders
  obtain ⟨taken, others⟩ := started_cells (s := s) (c := c) (i := i) .retire l
  have slots : ∀ j, j ≠ i → (s.started c .retire i l).slot j = s.slot j := fun j hj => started_slot_ne s c .retire i l hj
  rw [startTest_headed (by rw [hstate]; rfl) hidle,
    startRefusal_retire hstate hcond (hi ▸ guardRefuses_node s ⟨n, 0⟩)] at he
  have context : (⟨(s.started c .retire i l).retireReason c, (s.started c .retire i l).cellGentle c,
      (s.started c .retire i l).cellStamp c, some c⟩ : Retirement) =
      ⟨s.rd8 c 0x0C, s.cellGentle c, s.cellStamp c, some c⟩ := by
    simp [State.retireReason, State.cellGentle, State.cellStamp]
  have start : startAct i ⟨c, .retire, s.time⟩ (s.started c .retire i l) = withdrawSlot i
      ((s.started c .retire i l).leaving i ⟨s.rd8 c 0x0C, s.cellGentle c, s.cellStamp c, some c⟩ .order
        (some ((s.started c .retire i l).cellTag c))) := by
    rw [← context]
    rfl
  dsimp only at he
  rw [start] at he
  generalize (⟨s.rd8 c 0x0C, s.cellGentle c, s.cellStamp c, some c⟩ : Retirement) = r at *
  have lself := leaving_slot_self (s.started c .retire i l) i r .order (some ((s.started c .retire i l).cellTag c))
  have lslots : ∀ j, j ≠ i → _ := fun j hj => leaving_slot_ne (s := s.started c .retire i l) r .order
    (some ((s.started c .retire i l).cellTag c)) hj
  have lengines : ∀ j, j ≠ i → _ := fun j hj => leaving_engine_ne (s := s.started c .retire i l) r .order
    (some ((s.started c .retire i l).cellTag c)) hj
  have lqueue : (((s.started c .retire i l).leaving i r .order (some ((s.started c .retire i l).cellTag c))).engine
      i).queue = (s.engine i).queue := by simp [State.leaving]
  obtain ⟨ltime, lcells, lmem, lalloc, lpower, lports, lsettings, lwork, llate, llink⟩ :=
    leaving_frame (s.started c .retire i l) i r .order (some ((s.started c .retire i l).cellTag c))
  generalize (s.started c .retire i l).leaving i r .order (some ((s.started c .retire i l).cellTag c)) = v at *
  simp only [started_frame] at ltime lcells lmem lalloc lpower lports lsettings
  simp only [started_frame, started_reads] at lwork llate llink lengines
  have ports : ∀ p, v.portOf p = s.portOf p := portOf_congr lports
  subst hi
  obtain ⟨closed, engines⟩ := withdrawPorts_node (s := v) (n := n) ((llink _).trans hup)
    (fun h => by rw [ports]; exact hopen h)
    (fun h => by simpa [Engine.queued, lqueue] using hq h)
  have moves : v.Moves (fun p => p.node = n) (withdrawSlot (nodeSlot ⟨n, 0⟩) v) :=
    State.Moves.withdrawSlot v (by simp [slotPorts_node]) ⟨⟨n, 0⟩, rfl, .inl rfl⟩
  have same : withdrawSlot (nodeSlot ⟨n, 0⟩) v =
      (withdrawPort (withdrawPort v ⟨n, 0⟩) ⟨n, 1⟩).testLate (nodeSlot ⟨n, 0⟩) := by
    rw [withdrawSlot, slotPorts_node]
    rfl
  have wports : ∀ h, (withdrawSlot (nodeSlot ⟨n, 0⟩) v).portOf ⟨n, h⟩ =
      { s.portOf ⟨n, h⟩ with state := .closing, deadline := some (after s.time s.settings.drainLimit) } := fun h => by
    rw [same, testLate_portOf, (closed h).1, ports, State.drainDeadline, ltime, lsettings]
  have wcarries : ∀ h, ((withdrawSlot (nodeSlot ⟨n, 0⟩) v).engine (nodeSlot ⟨n, 0⟩)).Carries (.pathClose h) := fun h => by
    rw [same]
    exact (closed h).2
  have wengines : ∀ j, j ≠ nodeSlot ⟨n, 0⟩ → (withdrawSlot (nodeSlot ⟨n, 0⟩) v).engine j = v.engine j := fun j hj => by
    rw [same]
    exact engines j hj
  generalize withdrawSlot (nodeSlot ⟨n, 0⟩) v = w at *
  have wslot : ∀ j, w.slot j = v.slot j := slot_congr moves.slots
  have tests : ∀ j, LateIdle w j := fun j => by
    by_cases hj : j = nodeSlot ⟨n, 0⟩
    · refine ⟨fun h => ?_, fun h => ?_⟩
      · simp [hj, wslot, lself, Slot.enter] at h
      · have done := h.2
        simp [hj, State.leaveDone, slotPorts_node, wports] at done
    · refine lateIdle_elsewhere ?_ ?_
      · rw [wslot, lslots j hj, slots j hj]
        exact (hquiet.slots j).1
      · rw [wslot, lslots j hj, slots j hj]
        exact (hquiet.slots j).2
  obtain ⟨l', b, hends⟩ := ((moves.late (fun _ => True) (fun _ _ => ⟨trivial, trivial⟩)
    (.of_nil (llate.trans ht.late))).atEnd (js := []) (n := 4095) (jobs_nil (moves.work.trans lwork))
    (fun _ h => absurd h List.not_mem_nil) (fun j _ => tests j) (by simp)).ends l0
  refine ⟨_, he.trans (congrArg Host.Outcome.next hends), ?_, ?_, ?_, fun h => ?_, fun p hp => ?_, ?_, ?_,
    fun d hd => ?_, ?_, ?_, ended_otherSlots l' b fun j hj => ?_, fun j hj => ?_⟩
  · simp [wslot, lself, Slot.enter]
  · simp [wslot, lself, self, Slot.enter, hstate]
  · simp [wslot, lself, Slot.enter, SlotState.endsRetirement]
  · have gate := ((hinv.ports ⟨n, h⟩).opened (hopen h)).1
    simpa [wports, gate] using wcarries h
  · simp [moves.ports p hp, ports]
  · simp [cell_congr moves.cells, cell_congr (t := v) (s := s.started c .retire (nodeSlot ⟨n, 0⟩) l)
      (by simp [lcells]), taken]
  · simp [moves.mem, lmem]
  · simp [cell_congr moves.cells, cell_congr (t := v) (s := s.started c .retire (nodeSlot ⟨n, 0⟩) l)
      (by simp [lcells]), others d hd]
  · simp [moves.power, lpower]
  · simp [moves.alloc, lalloc]
  · rw [wslot, lslots j hj, slots j hj]
  · simp [wengines j hj, lengines j hj]

/-- Settles O25. -/
theorem retireStarts : Obligations.RetireStarts :=
  ⟨fun s c i _ _ ht hstate hidle hcond hiso => retireStarts_isolated s c i ht hstate hidle hcond hiso,
    fun s c n hinv hquiet ht hstate hidle hup hcond h0 h1 hq => retireStarts_node s c n hinv hquiet ht hstate hidle
      hup hcond (fun h => by match h with | 0 => exact h0 | 1 => exact h1) fun h => by
        have both : ∀ q ∈ (s.engine (nodeSlot ⟨n, 0⟩)).queue, q.msg ≠ .pathOpen 0 ∧ q.msg ≠ .pathOpen 1 := by
          simpa [Engine.queued] using hq
        match h with
        | 0 => simpa [Engine.queued] using fun q hm => (both q hm).1
        | 1 => simpa [Engine.queued] using fun q hm => (both q hm).2⟩

end Sys2Proof.Machine

/-! A slot that loses its payload: the power-off act, the abrupt isolation and the returned claim (R20, R53, R91,
R118). -/

namespace Sys2Proof.Machine

variable {s t u v w : State} {i j : SlotId} {p q : PortId} {P : SlotId → Prop} {M : PortId → Prop} {c d : CellId}

/-! ### The ports of a slot, one after another -/

/-- When the turn of a port comes, the ports before it have been dealt with; those after it follow. -/
theorem foldl_turn {f : State → PortId → State} (hf : ∀ (s : State) p, s.Moves (· = p) (f s p)) :
    ∀ (ps : List PortId) (s : State), ps.Nodup → p ∈ ps →
    ∃ v, s.Moves (fun q => q ∈ ps ∧ q ≠ p) v ∧ (f v p).Moves (fun q => q ∈ ps ∧ q ≠ p) (ps.foldl f s)
  | [], _, _, hp => absurd hp List.not_mem_nil
  | q :: ps, s, hnodup, hp => by
    obtain ⟨hq, hrest⟩ := List.nodup_cons.mp hnodup
    by_cases hpq : p = q
    · subst hpq
      refine ⟨s, .refl, .foldl (fun s p' hp' => (hf s p').mono fun q' hq' => hq' ▸ hp') ps (f s p) fun q' hq' => ?_⟩
      exact ⟨List.mem_cons_of_mem _ hq', fun h => hq (h ▸ hq')⟩
    · obtain ⟨v, before, after⟩ := foldl_turn hf ps (f s q) hrest ((List.mem_cons.mp hp).resolve_left hpq)
      have widen : ∀ q', q' ∈ ps ∧ q' ≠ p → q' ∈ q :: ps ∧ q' ≠ p := fun q' h => ⟨List.mem_cons_of_mem _ h.1, h.2⟩
      exact ⟨v, ((hf s q).mono fun q' hq' => ⟨hq' ▸ List.mem_cons_self, fun h => hpq (h.symm.trans hq')⟩).trans
        (before.mono widen), after.mono widen⟩

theorem slotPorts_nodup (i : SlotId) : (slotPorts i).Nodup := by
  revert i
  decide

/-! ### Abrupt isolation -/

theorem notified_portOf {m : Msg} (loss : Option SlotId) : (s.notified j m loss).portOf q = s.portOf q := by
  unfold State.notified
  split <;> simp

/-- An abrupt isolation leaves a port ISOLATED with its gate closed (R118). -/
theorem isolatePort_portOf (h : (s.portOf p).Lawful) (loss : Option SlotId) (notice : Bool) :
    (isolatePort p loss notice s).portOf p = (s.portOf p).isolate := by
  rw [isolatePort_eq]
  split
  · next hiso =>
    obtain ⟨hgate, hdeadline⟩ := h.isolated hiso
    rw [Port.isolate, ← hiso, ← hgate, ← hdeadline]
  · have cut : (s.cutOff p).portOf p = (s.portOf p).isolate := by simp [State.cutOff, toIsolated]
    dsimp only
    split
    · rw [(portNotice_reads ..).2.2.2.2.1, notified_portOf, notified_portOf, cut]
    · rw [notified_portOf, notified_portOf, cut]

/-- Every port of a slot that offers none is ISOLATED when the slot has lost payload (R118). -/
theorem isolateSlot_portOf (hshut : (s.slot i).state.offering = false) (hp : p ∈ slotPorts i)
    (hl : (s.portOf p).Lawful) : (isolateSlot i s).portOf p = (s.portOf p).isolate := by
  have moves : ∀ (s : State) p, s.Moves (· = p) (isolatePort p (some i) true s) := fun s p =>
    .isolatePort s (M := (· = p)) rfl _ _
  have all : s.Moves (· ∈ slotPorts i) ((slotPorts i).foldl (fun s p => isolatePort p (some i) true s) s) :=
    .foldl (fun s p hp => (moves s p).mono fun q hq => hq ▸ hp) _ s fun _ h => h
  unfold isolateSlot
  rw [offerTests_elsewhere (by rw [slot_congr all.slots]; exact hshut)]
  obtain ⟨v, before, after⟩ := foldl_turn moves _ s (slotPorts_nodup i) hp
  have here : v.portOf p = s.portOf p := before.ports p fun h => h.2 rfl
  rw [after.ports p fun h => h.2 rfl, isolatePort_portOf (by rw [here]; exact hl), here]

/-! ### The power-off act -/

/-- With no SET-TIMING at the front, opening a switch brings nothing (R74, R91). -/
theorem powerOff_alone (h : s.alloc.timingAtFront = false) : powerOff i s =
    if (s.pwr i).switchOn then
      (s.modAlloc fun a => { a with ramping := if (s.pwr i).rampLimit.isSome then a.ramping.erase i else a.ramping
        }).modPower i (Power.turnOff s.time)
    else s := by
  unfold powerOff
  split
  · split
    · rw [rampEnded_alone h]
    · rfl
  · rfl

/-- What opening a switch leaves, and that it brings nothing (R91). -/
theorem powerOff_leaves (h : s.alloc.timingAtFront = false) :
    (powerOff i s).pwr i = (if (s.pwr i).switchOn then (s.pwr i).turnOff s.time else s.pwr i)
    ∧ (∀ j, j ≠ i → (powerOff i s).pwr j = s.pwr j)
    ∧ (∃ r, (powerOff i s).alloc = { s.alloc with ramping := r }) ∧ (powerOff i s).work = s.work := by
  rw [powerOff_alone h]
  split
  · exact ⟨by simp, fun j hj => by simp [hj], ⟨_, rfl⟩, rfl⟩
  · exact ⟨rfl, fun _ _ => rfl, ⟨_, rfl⟩, rfl⟩

/-! ### The returned claim -/

/-- What the return of a claim leaves and brings (R62). -/
theorem returnClaim_leaves (hl : s.alloc.Lawful) :
    (returnClaim i s).alloc.claims[i] = 0
    ∧ (returnClaim i s).alloc.granted + s.alloc.claims[i] = s.alloc.granted
    ∧ (returnClaim i s).alloc.queue = s.alloc.queue
    ∧ (returnClaim i s).jobs = s.jobs ++ (if s.alloc.claims[i] = 0 then [] else [.examine]) := by
  have room := sum_ge s.alloc.claims i
  have total := hl.granted
  unfold returnClaim
  dsimp only
  by_cases hc : s.alloc.claims[i] = 0
  · rw [if_pos (by simpa using hc), if_pos hc]
    exact ⟨hc, by rw [hc]; rfl, rfl, (List.append_nil _).symm⟩
  · rw [if_neg (by simpa using hc), if_neg hc]
    refine ⟨?_, ?_, rfl, raise_jobs ..⟩
    · simp [Allocator.release]
    · show s.alloc.granted - s.alloc.claims[i] + s.alloc.claims[i] = s.alloc.granted
      omega

/-! ### The loss of payload -/

/-- The common part of every act that takes a slot's payload from it. -/
def losePayload (i : SlotId) (s : State) : State := returnClaim i (isolateSlot i (powerOff i s))

/-- What the loss of a slot's payload leaves and brings. -/
structure State.LosesPayload (s : State) (i : SlotId) (t : State) : Prop where
  slot : t.slot i = { s.slot i with claim := 0 }
  slots : ∀ j, j ≠ i → t.slot j = s.slot j
  off : (t.pwr i).switchOn = false ∧ (t.pwr i).resetAsserted = true ∧ (t.pwr i).rampLimit = none
    ∧ (t.pwr i).resetHold = none ∧ (t.pwr i).minute = none
  opened : (s.pwr i).switchOn = true → t.pwr i = (s.pwr i).turnOff s.time
  stays : (s.pwr i).switchOn = false → t.pwr i = s.pwr i
  pwrs : ∀ j, j ≠ i → t.pwr j = s.pwr j
  claims : t.alloc.claims[i] = 0
  granted : t.alloc.granted + s.alloc.claims[i] = s.alloc.granted
  queue : t.alloc.queue = s.alloc.queue
  ports : ∀ p, nodeSlot p = i ∨ hubSlot p = i → t.portOf p = (s.portOf p).isolate
  time : t.time = s.time
  settings : t.settings = s.settings
  cells : t.cells = s.cells
  mem : t.mem = s.mem
  history : t.history = s.history
  broughtBy : t.broughtBy = s.broughtBy
  jobs : t.jobs = s.jobs ++ (if s.alloc.claims[i] = 0 then [] else [.examine])
  late : s.LateWithin (fun _ => True) → t.LateWithin fun _ => True

theorem losePayload_leaves (hshut : (s.slot i).state.offering = false) (htiming : s.alloc.timingAtFront = false)
    (hports : ∀ p, (s.portOf p).Lawful) (hpower : (s.pwr i).Lawful false) (halloc : s.alloc.Lawful) :
    s.LosesPayload i (losePayload i s) := by
  obtain ⟨pself, pothers, ⟨r, palloc⟩, pwork⟩ := powerOff_leaves (i := i) htiming
  have moves : (powerOff i s).Moves (· ∈ slotPorts i) (isolateSlot i (powerOff i s)) :=
    .isolateSlot _ fun _ h => h
  have ports : ∀ p ∈ slotPorts i, (isolateSlot i (powerOff i s)).portOf p = (s.portOf p).isolate := fun p hp => by
    rw [isolateSlot_portOf (by simpa using hshut) hp (by simpa using hports p)]
    simp
  have alloc : (isolateSlot i (powerOff i s)).alloc = { s.alloc with ramping := r } := moves.alloc.trans palloc
  obtain ⟨claims, granted, queue, jobs⟩ := returnClaim_leaves (s := isolateSlot i (powerOff i s)) (i := i)
    (by rw [alloc]; exact ⟨halloc.granted, halloc.capacity, halloc.shelf⟩)
  have pwr : ∀ j, (losePayload i s).pwr j = (powerOff i s).pwr j := fun j => by
    rw [losePayload, (returnClaim_reads ..).1, pwr_congr moves.power]
  rw [alloc] at granted queue jobs
  refine ⟨?_, fun j hj => ?_, ?_, fun hon => ?_, fun hoff => ?_, fun j hj => ?_, claims, granted, queue, fun p hp => ?_, ?_, ?_, ?_, ?_,
    ?_, ?_, ?_, fun h => ?_⟩
  · rw [losePayload, returnClaim_slot_self, slot_congr moves.slots, (powerOff_reads ..).1]
  · rw [losePayload, returnClaim_slot_ne _ _ hj, slot_congr moves.slots, (powerOff_reads ..).1]
  · rw [pwr, pself]
    cases hon : (s.pwr i).switchOn
    · exact ⟨hon, hpower.reset hon, hpower.limit rfl hon, hpower.hold rfl hon, hpower.minute rfl hon⟩
    · exact ⟨rfl, rfl, rfl, rfl, rfl⟩
  · rw [pwr, pself, if_pos hon]
  · rw [pwr, pself, if_neg (by simp [hoff])]
  · rw [pwr, pothers j hj]
  · rw [losePayload, (returnClaim_reads ..).2.2.2.1]
    exact ports p (mem_slotPorts.mpr hp)
  · simp [losePayload]
  · simp [losePayload]
  · simp [losePayload]
  · simp [losePayload]
  · simp [losePayload]
  · simp [losePayload]
  · refine jobs.trans ?_
    rw [jobs_congr (moves.work.trans pwork)]
  · exact (moves.late _ (fun _ _ => ⟨trivial, trivial⟩) (h.congr (by simp))).congr (by simp [losePayload])

end Sys2Proof.Machine

/-! CUT (R53). -/

namespace Sys2Proof.Machine

variable {s t u v w : State} {i j : SlotId} {c d : CellId}

theorem handleKind_cut (hslot : s.cellSlot c = some i) :
    handleKind c .cut (s.pastCell c) = actCut c i (s.acting c) := by
  unfold handleKind
  rw [show (s.pastCell c).cellSlot c = some i from hslot]
  rfl

@[simp] theorem acting_frame (s : State) (c : CellId) :
    (s.acting c).time = s.time ∧ (s.acting c).cells = s.cells ∧ (s.acting c).mem = s.mem
    ∧ (s.acting c).slots = s.slots ∧ (s.acting c).alloc = s.alloc ∧ (s.acting c).power = s.power
    ∧ (s.acting c).settings = s.settings ∧ (s.acting c).history = s.history ∧ (s.acting c).ports = s.ports
    ∧ (s.acting c).engines = s.engines ∧ (s.acting c).work = s.work ∧ (s.acting c).late = s.late := by
  simp [State.acting, State.pastCell]

@[simp] theorem acting_reads (s : State) (c : CellId) :
    (∀ j, (s.acting c).slot j = s.slot j) ∧ (∀ j, (s.acting c).pwr j = s.pwr j)
    ∧ (∀ j, (s.acting c).engine j = s.engine j) ∧ (∀ j, (s.acting c).linkUp j = s.linkUp j)
    ∧ (∀ q, (s.acting c).portOf q = s.portOf q) ∧ (∀ d, (s.acting c).cell d = s.cell d) :=
  ⟨slot_congr (by simp), pwr_congr (by simp), engine_congr (by simp), linkUp_congr (by simp),
    portOf_congr (by simp), cell_congr (by simp)⟩

/-- The end of a CUT: the slot's orders finish OVERTAKEN, then the CUT finishes DONE (R47, R53). -/
def overtake (c : CellId) (i : SlotId) (w : State) : State := finishOwn c i .done (finishAll i .overtaken w)

/-- What the end of a CUT leaves of the slots and the cells. -/
theorem overtake_leaves (hm : Memory.wf w.mem = true) (hcells : ∀ e ∈ (w.slot i).orders, e.cell ≠ c) :
    (overtake c i w).slot i = { w.slot i with orders := [], active := false, read := none }
    ∧ (∀ j, j ≠ i → (overtake c i w).slot j = w.slot j)
    ∧ (overtake c i w).Finished c OrderOutcome.done.code 0 (w.slot i).state.code (w.slot i).gen
    ∧ (∀ e ∈ (w.slot i).orders, (overtake c i w).Finished e.cell OrderOutcome.overtaken.code 0
      (w.slot i).state.code (w.slot i).gen)
    ∧ ∀ d, d ≠ c → (∀ e ∈ (w.slot i).orders, e.cell ≠ d) → (overtake c i w).cell d = w.cell d := by
  have self := finishAll_slot_self (i := i) .overtaken w
  have hm' : Memory.wf (finishAll i .overtaken w).mem = true := finishEntries_wf _ _ hm
  have raised : CellsKept (finishEntries i .overtaken (w.slot i).orders w) (finishAll i .overtaken w) := ⟨rfl, rfl⟩
  have own := finishCell_finished hm' c i .done (finishAll i .overtaken w).time none []
  have others := finishCell_otherCells hm' c i .done (finishAll i .overtaken w).time none []
  rw [self] at own
  refine ⟨?_, fun j hj => ?_, own, fun e he => ?_, fun d hd hne => ?_⟩
  · exact ((finishCell_reads ..).1 i).trans self
  · exact ((finishCell_reads ..).1 j).trans (finishAll_slot_ne hj ..)
  · exact ((finishEntries_finished .overtaken _ hm e he).of_kept raised).of_stands (others.stands (hcells e he))
  · exact (others.1 d hd).trans (((raised.stands d).1).trans (finishEntries_stands .overtaken _ hm hne).1)

@[simp] theorem overtake_frame (c : CellId) (i : SlotId) (w : State) :
    (overtake c i w).time = w.time ∧ (overtake c i w).alloc = w.alloc ∧ (overtake c i w).power = w.power
    ∧ (overtake c i w).settings = w.settings ∧ (overtake c i w).history = w.history
    ∧ (overtake c i w).ports = w.ports ∧ (overtake c i w).engines = w.engines
    ∧ (overtake c i w).work = w.work ∧ (overtake c i w).late = w.late := by
  simp [overtake, finishOwn]

@[simp] theorem overtake_reads (c : CellId) (i : SlotId) (w : State) :
    (∀ j, (overtake c i w).pwr j = w.pwr j) ∧ (∀ j, (overtake c i w).engine j = w.engine j)
    ∧ (∀ q, (overtake c i w).portOf q = w.portOf q) :=
  ⟨pwr_congr (by simp), engine_congr (by simp), portOf_congr (by simp)⟩

/-- What every CUT leaves at the end of its event (R53). -/
structure State.Cuts (s : State) (c : CellId) (i : SlotId) (t : State) : Prop where
  slot : (t.slot i).state = .parked ∧ (t.slot i).prev = (s.slot i).state ∧ (t.slot i).entry = s.time
    ∧ (t.slot i).gen = nextGeneration (s.slot i).gen
    ∧ (t.slot i).orders = [] ∧ (t.slot i).active = false ∧ (t.slot i).retire = none
    ∧ (t.slot i).stamp = none ∧ (t.slot i).latch = false ∧ (t.slot i).read = none
  own : t.cell c = .finished ∧ t.rd8 c 0x1C = OrderOutcome.done.code
    ∧ t.rd8 c 0x1E = SlotState.parked.code ∧ t.rd16 c 0x28 = (t.slot i).gen
  orders : ∀ e ∈ (s.slot i).orders, t.cell e.cell = .finished ∧ t.rd8 e.cell 0x1C = OrderOutcome.overtaken.code
  cells : ∀ d, d ≠ c → (∀ e ∈ (s.slot i).orders, e.cell ≠ d) → t.cell d = s.cell d

/-- The end of a CUT in a slot that has moved to PARKED gives it. -/
theorem cuts_of_overtake (hm : Memory.wf w.mem = true) (hcells : ∀ e ∈ (s.slot i).orders, e.cell ≠ c)
    {x : Nat} (hslot : w.slot i = { (s.slot i).enter s.time .parked with claim := x }) (hw : w.cells = s.cells)
    (l : List SlotId) (b : Option Word16) : s.Cuts c i ((overtake c i w).ended l b) := by
  have orders : (w.slot i).orders = (s.slot i).orders := by rw [hslot]; rfl
  obtain ⟨self, -, own, entries, cells⟩ := overtake_leaves (c := c) hm (by rw [orders]; exact hcells)
  have kept := ended_cellsKept (overtake c i w) l b
  have done := own.of_kept kept
  rw [orders] at entries cells
  refine ⟨?_, ⟨done.cell, done.code, ?_, ?_⟩, fun e he => ?_, fun d hd hne => ?_⟩
  · simp [self, hslot, Slot.enter, SlotState.endsRetirement, SlotState.clearsLatch]
  · rw [done.state, hslot]
    rfl
  · rw [done.gen]
    simp [self]
  · have finished := (entries e he).of_kept kept
    exact ⟨finished.cell, finished.code⟩
  · rw [(kept.stands d).1, cells d hd hne, cell_congr hw]

/-- An immediate order whose act leaves nothing more to do finishes in its event. -/
theorem exec_take_ends {k : OrderKind} (ht : s.Takes c k) (hact : handleKind c k (s.pastCell c) = u)
    (hend : u.AtEnd 4096) : ∃ l b, exec (takeCommand (some k)) s = .next (u.ended l b) := by
  obtain ⟨l, b, he⟩ := hend.ends (noteRecords s u).changed
  exact ⟨l, b, (exec_take_passes ht).trans (congrArg Host.Outcome.next (by rw [hact]; exact he))⟩

/-- Once a sequencer has ended its own request none is queued, and one outstanding is overtaken (R135). -/
theorem endOwn_ends (s : State) (i : SlotId) : (∀ q ∈ ((endOwn i s).engine i).queue, q.msg.isOwn = false)
    ∧ ∀ o, ((endOwn i s).engine i).out = some o → o.msg.isOwn = true → o.live = false := by
  rw [endOwn, endMessages, modEngine_engine_self]
  refine ⟨fun q hq => by simpa using (List.mem_filter.mp hq).2, fun o ho hown => ?_⟩
  obtain ⟨o', -, rfl⟩ := Option.map_eq_some_iff.mp ho
  split
  · rfl
  · next hother =>
    rw [if_neg hother] at hown
    exact absurd hown hother

/-- CUT in AWAIT-POWER: the slot leaves the queue (R53). -/
theorem cut_awaitPower (hinv : Inv s) (hq : s.QuietBut i) (ht : s.TakesFor c .cut i)
    (hcells : ∀ e ∈ (s.slot i).orders, e.cell ≠ c) (hstate : (s.slot i).state = .awaitPower) :
    ∃ t, exec .cut s = .next t ∧ s.Cuts c i t ∧ t.alloc.queue = [] ∧ (t.slot i).waitReason = none
    ∧ (t.slot i).queuePos = 0 ∧ t.power = s.power ∧ t.ports = s.ports
    ∧ OtherSlots i s t ∧ t.settings = s.settings ∧ t.history = s.history := by
  have own : ∀ e ∈ (s.acting c).alloc.queue, e.slot = i := hq.own
  have act : handleKind c .cut (s.pastCell c) =
      overtake c i ((s.acting c).unqueued i .order (some ((s.acting c).cellTag c))) :=
    (handleKind_cut ht.slot).trans (if_pos hstate)
  generalize some ((s.acting c).cellTag c) = tag at act
  obtain ⟨time, cells, mem, power, ports, settings, history, late⟩ :=
    unqueued_frame (s := s.acting c) (i := i) .order tag
  obtain ⟨queue, -, jobs⟩ := unqueued_queue .order tag own
  have self : ((s.acting c).unqueued i .order tag).slot i = (s.slot i).enter s.time .parked :=
    unqueued_slot_self _ _ own
  have others : ∀ j, j ≠ i → ((s.acting c).unqueued i .order tag).slot j = s.slot j := fun j hj =>
    unqueued_slot_ne _ _ own hj
  generalize (s.acting c).unqueued i .order tag = w at *
  have hm : Memory.wf w.mem = true := by rw [mem]; exact hinv.mem
  have jobs' : (overtake c i w).jobs = if s.alloc.queue = [] then [] else [.examine] := by
    refine (jobs_congr (by simp)).trans (jobs.trans ?_)
    rw [jobs_nil (s := s.acting c) ht.work]
    rfl
  obtain ⟨l, b, he⟩ := exec_take_ends ht.toTakes act (.of_jobs jobs' (by simpa [late] using ht.late)
    (by split <;> simp) fun j hj => by
      split at hj
      · exact absurd hj List.not_mem_nil
      · obtain rfl := List.mem_singleton.mp hj
        simpa [Job.Idle] using queue)
  have hw : w.cells = s.cells := cells
  obtain ⟨oslot, oslots, -, -, -⟩ := overtake_leaves (c := c) hm (by rw [self]; exact hcells)
  refine ⟨_, he, cuts_of_overtake hm hcells (x := (s.slot i).claim) self hw l b, ?_, ?_, ?_, ?_, ?_,
    ended_otherSlots l b fun j hj => (oslots j hj).trans (others j hj), ?_, ?_⟩
  · simpa using queue
  · simp [oslot, self, Slot.enter, hstate]
  · simp [oslot, self, Slot.enter, hstate]
  · simpa using power
  · simpa using ports
  · simpa using settings
  · simpa using history

/-- CUT in a state with payload on: the slot loses its payload (R53). -/
theorem cut_payload (hinv : Inv s) (hq : s.QuietBut i) (ht : s.TakesFor c .cut i)
    (hcells : ∀ e ∈ (s.slot i).orders, e.cell ≠ c) (hstate : (s.slot i).state ≠ .awaitPower) :
    ∃ t, exec .cut s = .next t ∧ s.Cuts c i t
    ∧ (t.slot i).claim = 0 ∧ t.alloc.claims[i] = 0
    ∧ t.alloc.granted + s.alloc.claims[i] = s.alloc.granted
    ∧ (t.pwr i).switchOn = false ∧ (t.pwr i).resetAsserted = true
    ∧ ((s.pwr i).switchOn = true → (t.pwr i).offTime = s.time)
    ∧ (∀ q ∈ (t.engine i).queue, q.msg.isOwn = false)
    ∧ (∀ o, (t.engine i).out = some o → o.msg.isOwn = true → o.live = false)
    ∧ (∀ p, nodeSlot p = i ∨ hubSlot p = i → (t.portOf p).state = .isolated ∧ (t.portOf p).gate = false)
    ∧ OtherSlots i s t ∧ OtherPower i s t ∧ t.settings = s.settings ∧ t.history = s.history := by
  have empty : s.alloc.queue = [] := hq.queue.resolve_right fun h => hstate h.1
  have act : handleKind c .cut (s.pastCell c) = overtake c i (endOwn i (losePayload i
      (changeState i .parked .order (some ((s.acting c).cellTag c)) (s.acting c)))) :=
    (handleKind_cut ht.slot).trans (if_neg hstate)
  have self := changeState_slot_self (s.acting c) i .parked .order (some ((s.acting c).cellTag c))
  have others : ∀ j, j ≠ i → (changeState i .parked .order (some ((s.acting c).cellTag c)) (s.acting c)).slot j =
      s.slot j := fun j hj => by simp [hj]
  generalize hv : changeState i .parked .order (some ((s.acting c).cellTag c)) (s.acting c) = v at *
  have frame : v.time = s.time ∧ v.cells = s.cells ∧ v.mem = s.mem ∧ v.alloc = s.alloc ∧ v.power = s.power
      ∧ v.settings = s.settings ∧ v.history = s.history ∧ v.ports = s.ports ∧ v.work = [] ∧ v.late = [] := by
    subst hv
    simp [ht.work, ht.late]
  obtain ⟨time, cells, mem, alloc, power, settings, history, ports, work, late⟩ := frame
  simp only [acting_frame, acting_reads] at self
  have loss : v.LosesPayload i (losePayload i v) := losePayload_leaves (by rw [self]; rfl) (by rw [alloc]; exact hq.timing)
    (fun p => by rw [portOf_congr ports]; exact hinv.ports p)
    (by rw [pwr_congr power, ← ht.held]; exact hinv.power i) (by rw [alloc]; exact hinv.alloc)
  generalize losePayload i v = x at *
  have wslot : ∀ j, (endOwn i x).slot j = x.slot j := by simp
  have hm : Memory.wf (endOwn i x).mem = true := by simpa [loss.mem, mem] using hinv.mem
  have hslot : (endOwn i x).slot i = { (s.slot i).enter s.time .parked with claim := 0 } := by
    rw [wslot, loss.slot, self]
  have slots : ∀ j, j ≠ i → (endOwn i x).slot j = s.slot j := fun j hj => by
    rw [wslot, loss.slots j hj, others j hj]
  obtain ⟨oslot, oslots, -, -, -⟩ := overtake_leaves (c := c) hm (by rw [hslot]; exact hcells)
  have idle : ∀ j, LateIdle (overtake c i (endOwn i x)) j := fun j => by
    by_cases hj : j = i
    · subst hj
      refine lateIdle_elsewhere ?_ ?_
      all_goals rw [oslot, hslot]; exact nofun
    · refine lateIdle_elsewhere ?_ ?_
      all_goals rw [oslots j hj, slots j hj]
      · exact (hq.slots j hj).1
      · exact (hq.slots j hj).2
  have jobs : (overtake c i (endOwn i x)).jobs = if s.alloc.claims[i] = 0 then [] else [.examine] := by
    refine (jobs_congr (by simp)).trans (loss.jobs.trans ?_)
    rw [jobs_nil work, alloc]
    rfl
  have within := (loss.late (.of_nil late)).congr (t := overtake c i (endOwn i x)) (by simp)
  obtain ⟨l, b, he⟩ := exec_take_ends ht.toTakes act (within.atEnd jobs (fun j hj => by
    split at hj
    · exact absurd hj List.not_mem_nil
    · obtain rfl := List.mem_singleton.mp hj
      simp [Job.Idle, loss.queue, alloc, empty]) (fun j _ => idle j) (by split <;> simp))
  obtain ⟨off, reset, -, -, -⟩ := loss.off
  refine ⟨_, he, cuts_of_overtake hm hcells hslot (by simp [loss.cells, cells]) l b, ?_, ?_, ?_, ?_, ?_, fun hon => ?_,
    ?_, ?_, fun p hp => ?_, ended_otherSlots l b fun j hj => (oslots j hj).trans (slots j hj), fun j hj => ?_, ?_, ?_⟩
  · simp [oslot, hslot]
  · simpa using loss.claims
  · simpa [alloc] using loss.granted
  · simpa  using off
  · simpa  using reset
  · have opened := loss.opened (by rw [pwr_congr power]; exact hon)
    simp [opened, Power.turnOff, time]
  · simpa using (endOwn_ends x i).1
  · simpa using (endOwn_ends x i).2
  · simp [loss.ports p hp, Port.isolate]
  · simp [loss.pwrs j hj, pwr_congr power]
  · simp [loss.settings, settings]
  · simp [loss.history, history]

/-- Settles O29. -/
theorem cutRemovesPayload : Obligations.CutRemovesPayload := by
  intro s c i hinv hq ht hcells
  by_cases hstate : (s.slot i).state = .awaitPower
  · obtain ⟨t, he, ⟨slot, own, orders, cells⟩, queue, reason, pos, power, ports, slots, settings, history⟩ :=
      cut_awaitPower hinv hq ht hcells hstate
    obtain ⟨state, prev, entry, gen, empty, active, retire, stamp, latch, read⟩ := slot
    obtain ⟨cell, code, st, g⟩ := own
    exact ⟨t, he, state, prev, entry, gen, empty, active, retire, stamp, latch, read, cell, code, st, g, orders, cells,
      fun _ => ⟨queue, reason, pos, power, ports⟩, fun h => absurd hstate h, slots,
      fun j _ => pwr_congr power j, settings, history⟩
  · obtain ⟨t, he, ⟨slot, own, orders, cells⟩, claim, claims, granted, off, reset, offTime, queue, out, ports, slots,
      power, settings, history⟩ := cut_payload hinv hq ht hcells hstate
    obtain ⟨state, prev, entry, gen, empty, active, retire, stamp, latch, read⟩ := slot
    obtain ⟨cell, code, st, g⟩ := own
    exact ⟨t, he, state, prev, entry, gen, empty, active, retire, stamp, latch, read, cell, code, st, g, orders, cells,
      fun h => absurd h hstate,
      fun _ => ⟨claim, claims, granted, off, reset, offTime, queue, out, ports⟩, slots, power, settings, history⟩

end Sys2Proof.Machine

/-! A presence loss (R23 to R25). -/

namespace Sys2Proof.Machine

variable {s t u v w : State} {i j : SlotId} {p q : PortId} {c d : CellId}

/-! ### The link of a slot that loses its blade -/

theorem endMessages_nextSeq (f : Msg → Bool) : ((endMessages j f s).engine i).nextSeq = (s.engine i).nextSeq := by
  by_cases h : i = j
  · subst h
    simp [endMessages, Engine.endMessages]
  · rw [endMessages_engine_ne h]

/-- The slot whose payload loss brings an isolation is not notified of it (R118 step 3). -/
theorem notified_engine_loss {m : Msg} : (s.notified j m (some i)).engine i = s.engine i := by
  unfold State.notified
  split
  · next h =>
    refine placePort_engine_ne (fun hij => ?_) m s
    simp [State.mayNotify, hij] at h
  · rfl

theorem isolatePort_nextSeq (notice : Bool) :
    ((isolatePort p (some i) notice s).engine i).nextSeq = (s.engine i).nextSeq := by
  have cut : ((s.cutOff p).engine i).nextSeq = (s.engine i).nextSeq := by
    rw [State.cutOff, (toIsolated_reads ..).2.2.1, endMessages_nextSeq, endMessages_nextSeq]
  rw [isolatePort_eq]
  split
  · rfl
  · cases notice
    · simp [notified_engine_loss, cut]
    · simp [notified_engine_loss, cut]

theorem losePayload_nextSeq (hshut : (s.slot i).state.offering = false) :
    ((losePayload i s).engine i).nextSeq = (s.engine i).nextSeq := by
  have isolated : ∀ (ps : List PortId) (s : State),
      ((ps.foldl (fun s p => isolatePort p (some i) true s) s).engine i).nextSeq = (s.engine i).nextSeq := by
    intro ps
    induction ps with
    | nil => exact fun _ => rfl
    | cons p ps ih => exact fun s => (ih _).trans (isolatePort_nextSeq true)
  have slots : ∀ (ps : List PortId) (s : State),
      (ps.foldl (fun s p => isolatePort p (some i) true s) s).slots = s.slots := fun ps s =>
    (State.Moves.foldl (M := fun _ => True) (fun s p _ => .isolatePort s trivial _ _) ps s fun _ _ => trivial).slots
  rw [losePayload, (returnClaim_reads ..).2.1, isolateSlot,
    offerTests_elsewhere (by rw [slot_congr (slots _ _)]; simpa using hshut), isolated, (powerOff_reads ..).2.1]

/-! ### The flags of a slot's ports -/

/-- The declined flags and attempt counts of a slot's ports are cleared (R106). -/
theorem clearDeclined_portOf (hp : p ∈ slotPorts i) :
    (clearDeclined i s).portOf p = { s.portOf p with declined := false, attempts := 0 } := by
  obtain ⟨v, before, after⟩ := foldl_turn (p := p)
    (f := fun s p => s.modPort p fun x => { x with declined := false, attempts := 0 })
    (fun s p => .modPort s (M := (· = p)) rfl _) _ s (slotPorts_nodup i) hp
  refine (after.ports p fun h => h.2 rfl).trans ?_
  rw [modPort_portOf_self, before.ports p fun h => h.2 rfl]

/-! ### The move of a presence loss -/

theorem contactTaken_removes {c : Contact} (hboth : (s.slot i).presence = .both) (hstate : (s.slot i).state ≠ .vacant) :
    contactTaken i c false s = removal i (s.modSlot i (Slot.setContact c false)) := by
  have gone : ((s.slot i).setContact c false).presence ≠ .both := by
    cases c
    · simp [Slot.setContact, Slot.presence]
    · simp only [Slot.setContact, Slot.presence]
      by_cases hlong : (s.slot i).long = true <;> simp [hlong]
  unfold contactTaken presenceChange
  dsimp only
  rw [modSlot_slot_self, setContact_state, if_neg fun h => gone h.1, if_pos ⟨hboth, gone, hstate⟩]

/-- The move of a presence loss is a move to VACANT, with one notice (R23, R24). -/
theorem removalMove_leaves (s : State) (i : SlotId) :
    (removalMove i s).slot i = (s.slot i).enter s.time .vacant
    ∧ (∀ j, j ≠ i → (removalMove i s).slot j = s.slot j)
    ∧ ((removalMove i s).engine i).nextSeq = (s.engine i).nextSeq := by
  unfold removalMove
  split
  · refine ⟨by simp [moveSlot], fun j hj => by simp [moveSlot, hj], by simp [moveSlot]⟩
  · refine ⟨by simp, fun j hj => by simp [hj], by simp⟩

@[simp] theorem removalMove_frame (s : State) (i : SlotId) :
    (removalMove i s).time = s.time ∧ (removalMove i s).cells = s.cells ∧ (removalMove i s).mem = s.mem
    ∧ (removalMove i s).alloc = s.alloc ∧ (removalMove i s).power = s.power
    ∧ (removalMove i s).settings = s.settings ∧ (removalMove i s).history = s.history
    ∧ (removalMove i s).ports = s.ports ∧ (removalMove i s).work = s.work ∧ (removalMove i s).late = s.late := by
  unfold removalMove
  split <;> simp

/-- The removal of the only slot's entry changes the queue and the re-examination alone (R71). -/
theorem removeEntry_alone_alloc (h : ∀ e ∈ s.alloc.queue, e.slot = i) :
    ∃ r, (removeEntry i s).alloc = { s.alloc with queue := [], reexam := r } := by
  rw [removeEntry_alone h]
  split
  · next hq => exact ⟨s.alloc.reexam, by rw [← hq]⟩
  · exact ⟨none, rfl⟩

/-- A slot that has moved to VACANT, with its queue entry gone. -/
def State.vacated (s : State) (i : SlotId) : State := removeEntry i (removalMove i s)

theorem vacated_leaves (h : ∀ e ∈ s.alloc.queue, e.slot = i) :
    (s.vacated i).slot i = (s.slot i).enter s.time .vacant
    ∧ (∀ j, j ≠ i → (s.vacated i).slot j = s.slot j)
    ∧ (∃ r, (s.vacated i).alloc = { s.alloc with queue := [], reexam := r })
    ∧ (s.vacated i).jobs = s.jobs ++ (if s.alloc.queue = [] then [] else [.examine])
    ∧ ((s.vacated i).engine i).nextSeq = (s.engine i).nextSeq := by
  obtain ⟨self, others, seq⟩ := removalMove_leaves s i
  have h' : ∀ e ∈ (removalMove i s).alloc.queue, e.slot = i := by simpa using h
  obtain ⟨slots, -, -, jobs⟩ := removeEntry_alone_frame h'
  obtain ⟨r, alloc⟩ := removeEntry_alone_alloc h'
  refine ⟨(slots i).trans self, fun j hj => (slots j).trans (others j hj), ⟨r, by rw [State.vacated, alloc]; simp⟩, ?_,
    by simpa [State.vacated] using seq⟩
  rw [State.vacated, jobs, jobs_congr (t := removalMove i s) (s := s) (by simp)]
  simp

@[simp] theorem vacated_frame (s : State) (i : SlotId) :
    (s.vacated i).time = s.time ∧ (s.vacated i).cells = s.cells ∧ (s.vacated i).mem = s.mem
    ∧ (s.vacated i).power = s.power ∧ (s.vacated i).settings = s.settings ∧ (s.vacated i).history = s.history
    ∧ (s.vacated i).ports = s.ports ∧ (s.vacated i).late = s.late := by
  simp [State.vacated]

/-- The end of a presence loss, after the slot has lost its payload: the link ABSENT, the orders finished, the
blade's fields and its ports' flags cleared (R25, R106, R141). -/
def clearSlot (i : SlotId) (x : State) : State :=
  clearDeclined i ((finishAll i .slotVacated (x.modEngine i Engine.vacate)).modSlot i Slot.clearBlade)

theorem removal_eq (i : SlotId) (s : State) : removal i s = clearSlot i (losePayload i (s.vacated i)) := rfl

theorem clearSlot_leaves (hm : Memory.wf w.mem = true) :
    (clearSlot i w).slot i =
      ({ w.slot i with orders := [], active := false, read := none } : Slot).clearBlade
    ∧ (∀ j, j ≠ i → (clearSlot i w).slot j = w.slot j)
    ∧ (clearSlot i w).engine i = (w.engine i).vacate
    ∧ (∀ p, nodeSlot p = i ∨ hubSlot p = i →
      (clearSlot i w).portOf p = { w.portOf p with declined := false, attempts := 0 })
    ∧ (∀ e ∈ (w.slot i).orders, (clearSlot i w).Finished e.cell OrderOutcome.slotVacated.code 0
      (w.slot i).state.code (w.slot i).gen)
    ∧ (w.LateWithin (fun _ => True) → (clearSlot i w).LateWithin fun _ => True) := by
  have moves : State.Moves (· ∈ slotPorts i)
      ((finishAll i .slotVacated (w.modEngine i Engine.vacate)).modSlot i Slot.clearBlade) (clearSlot i w) :=
    .clearDeclined _ fun _ h => h
  refine ⟨?_, fun j hj => ?_, ?_, fun p hp => ?_, fun e he => ?_, fun h => ?_⟩
  · rw [slot_congr moves.slots, modSlot_slot_self, finishAll_slot_self]
    rfl
  · rw [slot_congr moves.slots, modSlot_slot_ne _ _ _ _ hj, finishAll_slot_ne hj]
    rfl
  · simp [clearSlot]
  · rw [clearSlot, clearDeclined_portOf (mem_slotPorts.mpr hp)]
    simp
  · exact (finishEntries_finished (s := w.modEngine i Engine.vacate) .slotVacated _ hm e he).of_kept
      ⟨moves.cells, moves.mem⟩
  · exact moves.late _ (fun _ _ => ⟨trivial, trivial⟩) (h.congr (by simp))

@[simp] theorem clearSlot_frame (i : SlotId) (w : State) :
    (clearSlot i w).time = w.time ∧ (clearSlot i w).alloc = w.alloc ∧ (clearSlot i w).power = w.power
    ∧ (clearSlot i w).settings = w.settings ∧ (clearSlot i w).work = w.work := by
  simp [clearSlot]

/-- Settles O35. -/
theorem presenceLossVacates : Obligations.PresenceLossVacates := by
  intro s i c hinv hl hq hboth hstate
  have hl' : (s.modPins i (SlotPins.setContact c false)).Live := live_modPins hl _
  obtain ⟨hwork, hlate, -, -, -⟩ := hl.toReady
  have act : contactTaken i c false (s.modPins i (SlotPins.setContact c false)) =
      clearSlot i (losePayload i ((s.contacted i c false).vacated i)) :=
    (contactTaken_removes (s := s.modPins i (SlotPins.setContact c false)) hboth hstate).trans (removal_eq ..)
  have base : (s.contacted i c false).slot i = (s.slot i).setContact c false := modSlot_slot_self ..
  obtain ⟨self, others, ⟨r, alloc⟩, jobs, seq⟩ := vacated_leaves (s := s.contacted i c false) (i := i) hq.own
  obtain ⟨time, cells, mem, power, settings, history, ports, late⟩ := vacated_frame (s.contacted i c false) i
  generalize (s.contacted i c false).vacated i = v at *
  rw [base] at self
  have raw : ((s.slot i).setContact c false).state = (s.slot i).state
      ∧ ((s.slot i).setContact c false).gen = (s.slot i).gen
      ∧ ((s.slot i).setContact c false).policy = (s.slot i).policy
      ∧ ((s.slot i).setContact c false).orders = (s.slot i).orders := by
    cases c <;> exact ⟨rfl, rfl, rfl, rfl⟩
  obtain ⟨rawState, rawGen, rawPolicy, rawOrders⟩ := raw
  have shut : (v.slot i).state.offering = false := by rw [self]; rfl
  have loss : v.LosesPayload i (losePayload i v) := losePayload_leaves shut
    (by rw [alloc]; exact hq.timing) (fun p => by rw [portOf_congr ports]; exact hinv.ports p)
    (by rw [pwr_congr power, ← hl.held]; exact hinv.power i)
    (by rw [alloc]; exact ⟨hinv.alloc.granted, hinv.alloc.capacity, hinv.alloc.shelf⟩)
  have seq' := losePayload_nextSeq shut
  generalize losePayload i v = x at *
  have xslot : x.slot i = { ((s.slot i).setContact c false).enter s.time .vacant with claim := 0 } := by
    rw [loss.slot, self]
    rfl
  have xslots : ∀ j, j ≠ i → x.slot j = s.slot j := fun j hj => by
    rw [loss.slots j hj, others j hj, modSlot_slot_ne _ _ _ _ hj]
    rfl
  obtain ⟨cslot, cslots, cengine, cports, corders, clate⟩ := clearSlot_leaves (w := x) (i := i)
    (by rw [loss.mem, mem]; exact hinv.mem)
  have idle : ∀ j, LateIdle (clearSlot i x) j := fun j => by
    by_cases hj : j = i
    · subst hj
      refine lateIdle_elsewhere ?_ ?_
      all_goals rw [cslot, xslot]; exact nofun
    · refine lateIdle_elsewhere ?_ ?_
      all_goals rw [cslots j hj, xslots j hj]
      · exact (hq.slots j hj).1
      · exact (hq.slots j hj).2
  have cjobs := (jobs_congr (clearSlot_frame i x).2.2.2.2).trans loss.jobs
  rw [jobs, alloc, jobs_nil (s := s.contacted i c false) hwork, List.nil_append] at cjobs
  have within := clate (loss.late (.of_nil (late.trans hlate)))
  obtain ⟨l, b, -, he⟩ := (within.atEnd (n := 4096) cjobs (fun j hj => by
    have hex : j = .examine := by
      rcases List.mem_append.mp hj with hj | hj
      all_goals
        split at hj
        · exact absurd hj List.not_mem_nil
        · exact List.mem_singleton.mp hj
    subst hex
    simp [Job.Idle, loss.queue, alloc]) (fun j _ => idle j) (by split <;> split <;> simp)).liveEvent hl' act
  have kept := ended_cellsKept (clearSlot i x) l b
  have xorders : (x.slot i).orders = (s.slot i).orders := by rw [xslot]; exact rawOrders
  have xgen : (x.slot i).gen = nextGeneration (s.slot i).gen := by
    rw [xslot]
    exact congrArg nextGeneration rawGen
  rw [xorders] at corders
  obtain ⟨off, reset, -, -, -⟩ := loss.off
  refine ⟨_, congrArg Host.Outcome.next he, ?_, ?_, ?_, ?_, ?_, ?_, ?_, ?_, ?_, ?_, ?_, ?_, ?_, ?_, ?_, ?_, ?_, ?_, ?_,
    ?_, ?_, ?_, ?_, ?_, ?_, ?_, ?_, ?_, fun p hp => ?_, fun e he => ?_,
    ended_otherSlots l b fun j hj => (cslots j hj).trans (xslots j hj), fun j hj => ?_, ?_⟩
  · simp [cslot, xslot, Slot.clearBlade, Slot.enter]
  · simp [cslot, xslot, Slot.clearBlade, Slot.enter, rawState]
  · simp [cslot, xslot, Slot.clearBlade, Slot.enter]
  · simp [cslot, Slot.clearBlade, xgen]
  · simp [cslot, xslot, Slot.clearBlade, Slot.enter, rawPolicy]
  · simp [cslot, Slot.clearBlade]
  · simp [cslot, Slot.clearBlade]
  · simp [cslot, Slot.clearBlade]
  · simp [cslot, Slot.clearBlade]
  · simp [cslot, Slot.clearBlade]
  · simp [cslot, Slot.clearBlade]
  · simp [cslot, Slot.clearBlade]
  · simp [cslot, Slot.clearBlade]
  · simp [cslot, Slot.clearBlade]
  · simp [cslot, Slot.clearBlade]
  · simp [cslot, Slot.clearBlade]
  · simp [cslot, Slot.clearBlade]
  · simp [cslot, Slot.clearBlade]
  · simp [cslot, Slot.clearBlade]
  · simp [cslot, xslot, Slot.clearBlade, Slot.enter, SlotState.endsRetirement]
  · simp [cengine, Engine.vacate]
  · simp [cengine, Engine.vacate]
  · simp [cengine, Engine.vacate]
  · simp [cengine, Engine.vacate, seq', seq]
  · simpa [pwr_congr (clearSlot_frame i x).2.2.1] using off
  · simpa [pwr_congr (clearSlot_frame i x).2.2.1] using reset
  · simpa using loss.claims
  · simp [loss.queue, alloc]
  · simp [cports p hp, loss.ports p hp, Port.isolate]
  · have finished := (corders e he).of_kept kept
    refine ⟨finished.cell, finished.code, ?_, ?_⟩
    · rw [finished.state, xslot]
      rfl
    · rw [finished.gen]
      simp [cslot, Slot.clearBlade]
  · simp [pwr_congr (clearSlot_frame i x).2.2.1, loss.pwrs j hj, pwr_congr power]
  · simp [loss.settings, settings]

end Sys2Proof.Machine

/-! The faults that remove power (R19, R20). -/

namespace Sys2Proof.Machine

variable {s t u v w : State} {i j : SlotId} {p q : PortId} {c d : CellId}

/-! ### The engine goes on after a request -/

/-- The request of a slot's link has ended, and the engine goes on (R132, R138). -/
def State.proceeds (w : State) (i : SlotId) (m : Msg) : State := afterRequest i m (endRequest i w)

@[simp] theorem proceeds_frame (w : State) (i : SlotId) (m : Msg) :
    (w.proceeds i m).time = w.time ∧ (w.proceeds i m).cells = w.cells ∧ (w.proceeds i m).mem = w.mem
    ∧ (w.proceeds i m).slots = w.slots ∧ (w.proceeds i m).alloc = w.alloc ∧ (w.proceeds i m).power = w.power
    ∧ (w.proceeds i m).settings = w.settings ∧ (w.proceeds i m).history = w.history
    ∧ (w.proceeds i m).ports = w.ports ∧ (w.proceeds i m).journal = w.journal
    ∧ (w.proceeds i m).work = w.work ∧ (w.proceeds i m).late = w.late := by
  simp [State.proceeds]

@[simp] theorem proceeds_reads (w : State) (i : SlotId) (m : Msg) :
    (∀ j, (w.proceeds i m).slot j = w.slot j) ∧ (∀ j, (w.proceeds i m).pwr j = w.pwr j)
    ∧ (∀ q, (w.proceeds i m).portOf q = w.portOf q) ∧ (∀ k, (w.proceeds i m).cell k = w.cell k) :=
  ⟨slot_congr (by simp), pwr_congr (by simp), portOf_congr (by simp), cell_congr (by simp)⟩

@[simp] theorem proceeds_engine_ne (w : State) (m : Msg) (h : j ≠ i) : (w.proceeds i m).engine j = w.engine j := by
  rw [State.proceeds, afterRequest, serveLink_engine_ne h]
  split
  · rw [alertTest_engine_ne h]
    exact modEngine_engine_ne _ _ _ _ h
  · exact modEngine_engine_ne _ _ _ _ h

theorem LateIdle.congr (h : LateIdle s j) (hslots : t.slots = s.slots) (hports : t.ports = s.ports) : LateIdle t j := by
  unfold LateIdle State.joinDone State.leaveDone at *
  simpa only [slot_congr hslots, portOf_congr hports] using h

theorem Job.Idle.congr {j : Job} (h : j.Idle s) (hslots : t.slots = s.slots) (halloc : t.alloc = s.alloc)
    (hpower : t.power = s.power) (hports : t.ports = s.ports) : j.Idle t := by
  cases j with
  | start k => simpa only [Job.Idle, slot_congr hslots] using h
  | handle k =>
    refine Eq.trans ?_ (show s.handleActs k = false from h)
    simp only [State.handleActs, State.activeKind, State.guardRefuses, slot_congr hslots, portOf_congr hports]
    rfl
  | examine => simpa only [Job.Idle, halloc] using h
  | serve => simpa only [Job.Idle, halloc] using h
  | powerGood k => simpa only [Job.Idle, pwr_congr hpower] using h
  | switchOpened k => simpa only [Job.Idle, slot_congr hslots] using h

/-- An event at its end stays there when a link's engine goes on. -/
theorem State.AtEnd.proceeds {n : Nat} (h : w.AtEnd n) (i : SlotId) (m : Msg) : (w.proceeds i m).AtEnd n where
  room := by simpa using h.room
  jobs := fun x hx => (h.jobs x (by simpa using hx)).congr (by simp) (by simp) (by simp) (by simp)
  tests := fun x hx => (h.tests x (by simpa using hx)).congr (by simp) (by simp)

/-- The answer to a live PROBE is taken by the sequencer, and the engine goes on (R131, R137). -/
theorem frameTaken_probe {o : Outstanding} {f : List Byte} {r : Reply} {st : AgentState}
    (ho : (s.engine i).out = some o) (hmsg : o.msg = .probe) (hlive : o.live = true)
    (hf : judgeReply .probe o.seq f = some r) (hst : AgentState.ofCode (byteAt r.payload 0) = some st) :
    frameTaken i f s = (probeAnswer i st (byteAt r.payload 1)
      (if o.recovery then linkRecovered i s else s)).proceeds i .probe := by
  rw [frameTaken_reply ho (by rw [hmsg]; exact hf), takeReply, hlive, hmsg]
  simp only [Msg.isNotification, Bool.not_false, Bool.and_true, if_true, deliver, hmsg, hst]
  rfl

/-! ### A fault removes power -/

/-- A state in which a fault of slot `i` is about to be raised: what the causes differ in from `s`. -/
structure State.Near (s : State) (i : SlotId) (u : State) : Prop where
  state : (u.slot i).state = (s.slot i).state
  gen : (u.slot i).gen = (s.slot i).gen
  policy : (u.slot i).policy = (s.slot i).policy
  orders : (u.slot i).orders = (s.slot i).orders
  active : (u.slot i).active = (s.slot i).active
  read : (u.slot i).read = (s.slot i).read
  slots : ∀ j, j ≠ i → u.slot j = s.slot j
  lawful : (u.pwr i).Lawful false
  switch : (s.pwr i).switchOn = true → (u.pwr i).switchOn = true ∨ u.pwr i = (s.pwr i).turnOff s.time
  pwrs : ∀ j, j ≠ i → u.pwr j = s.pwr j
  alloc : ∃ r, u.alloc = { s.alloc with ramping := r }
  ports : ∀ p, (u.portOf p).Lawful
  cells : u.cells = s.cells
  mem : u.mem = s.mem
  time : u.time = s.time
  settings : u.settings = s.settings
  history : u.history = s.history
  work : u.work = []
  late : u.LateWithin fun _ => True

/-- The state in which a raised fault removes power: the fault field and time set, the notice handed (R19). -/
def State.raised (u : State) (i : SlotId) (cause : FaultCause) : State :=
  let v := u.modSlot i fun x => { x with fault := some cause, faultTime := u.time }
  handNotice (slotNotice v i (.fault cause) (v.activeTag i)) v

theorem raiseFault_removes {cause : FaultCause} (h : cause.isPower = true ∨ (u.slot i).policy.fault = .cut) :
    raiseFault i cause u = faultRemove i cause (u.raised i cause) := by
  refine if_pos ?_
  simpa using h

theorem raised_slot_self (u : State) (i : SlotId) (cause : FaultCause) : (u.raised i cause).slot i =
    { u.slot i with fault := some cause, faultTime := u.time } := by
  simp [State.raised]

@[simp] theorem raised_frame (u : State) (i : SlotId) (cause : FaultCause) :
    (u.raised i cause).time = u.time ∧ (u.raised i cause).cells = u.cells ∧ (u.raised i cause).mem = u.mem
    ∧ (u.raised i cause).alloc = u.alloc ∧ (u.raised i cause).power = u.power ∧ (u.raised i cause).ports = u.ports
    ∧ (u.raised i cause).settings = u.settings ∧ (u.raised i cause).history = u.history
    ∧ (u.raised i cause).engines = u.engines
    ∧ (u.raised i cause).work = u.work ∧ (u.raised i cause).late = u.late := by
  simp [State.raised]

/-- Raising the fault changes the fault field and time alone. -/
theorem State.Near.raised (h : s.Near i u) (cause : FaultCause) : s.Near i (u.raised i cause) where
  state := by rw [raised_slot_self]; exact h.state
  gen := by rw [raised_slot_self]; exact h.gen
  policy := by rw [raised_slot_self]; exact h.policy
  orders := by rw [raised_slot_self]; exact h.orders
  active := by rw [raised_slot_self]; exact h.active
  read := by rw [raised_slot_self]; exact h.read
  slots j hj := by rw [← h.slots j hj]; simp [State.raised, hj]
  lawful := by rw [pwr_congr (raised_frame u i cause).2.2.2.2.1]; exact h.lawful
  switch := by rw [pwr_congr (raised_frame u i cause).2.2.2.2.1]; exact h.switch
  pwrs j hj := by rw [pwr_congr (raised_frame u i cause).2.2.2.2.1]; exact h.pwrs j hj
  alloc := by simpa using h.alloc
  ports p := by rw [portOf_congr (t := u.raised i cause) (s := u) (by simp)]; exact h.ports p
  cells := by simpa using h.cells
  mem := by simpa using h.mem
  time := by simpa using h.time
  settings := by simpa using h.settings
  history := by simpa using h.history
  work := by simpa using h.work
  late := h.late.congr (by simp)

/-- The slot has moved to FAULTED and lost its payload, and its own request is ended unless a page is read (R20). -/
def State.faulted (u : State) (i : SlotId) : State :=
  let v := losePayload i (changeStateOwn i .faulted .fault u)
  if u.activeKind i = some .readIdentity then v else endOwn i v

/-- The finish of the order that a fault ends (R20). -/
def finishFaulted (i : SlotId) (cause : FaultCause) (v : State) : State :=
  finishActiveIf .retire i .done (some cause) [] (finishActiveIf .admitBlade i cause.admitOutcome none [] v)

theorem faultRemove_eq (i : SlotId) (cause : FaultCause) (u : State) :
    faultRemove i cause u = testNext i (finishFaulted i cause (u.faulted i)) := rfl

/-- An active ADMIT or RETIRE finishes, no other order (R20). -/
theorem finishFaulted_eq (cause : FaultCause) (v : State) : finishFaulted i cause v =
    if v.activeKind i = some .admitBlade then finishActive i cause.admitOutcome none [] v
    else if v.activeKind i = some .retire then finishActive i .done (some cause) [] v else v := by
  unfold finishFaulted
  by_cases hkind : v.activeKind i = some .admitBlade
  · obtain ⟨e, es, ha, ho, -⟩ := activeKind_some hkind
    have gone : (finishActive i cause.admitOutcome none [] v).activeKind i = none := by
      rw [State.activeKind, finishActive_slot_self]
      simp only [Slot.finished, ha, ho, Slot.dropHead]
    rw [if_pos hkind]
    simp only [finishActiveIf, hkind, if_true, gone, reduceCtorEq, if_false]
  · rw [if_neg hkind]
    simp only [finishActiveIf, hkind, if_false]

/-- What the finish of a fault's order leaves of the slots and the cells. -/
theorem finishFaulted_leaves (cause : FaultCause) (hm : Memory.wf v.mem = true)
    (horders : (v.slot i).orders = [] ∨ (v.slot i).active = true ∧ (v.slot i).orders.length = 1) :
    (∃ os b rd, (finishFaulted i cause v).slot i = { v.slot i with orders := os, active := b, read := rd }
      ∧ (os = [] ∨ b = true) ∧ ((v.slot i).read = none → rd = none))
    ∧ (∀ j, j ≠ i → (finishFaulted i cause v).slot j = v.slot j)
    ∧ ∀ e, (v.slot i).orders = [e] → (v.slot i).active = true →
      (e.kind = .admitBlade → ((finishFaulted i cause v).slot i).orders = []
        ∧ (finishFaulted i cause v).Finished e.cell cause.admitOutcome.code 0 (v.slot i).state.code (v.slot i).gen)
      ∧ (e.kind = .retire → ((finishFaulted i cause v).slot i).orders = []
        ∧ (finishFaulted i cause v).Finished e.cell OrderOutcome.done.code cause.code (v.slot i).state.code
          (v.slot i).gen)
      ∧ (e.kind ≠ .admitBlade → e.kind ≠ .retire → ((finishFaulted i cause v).slot i).orders = [e]) := by
  rw [finishFaulted_eq]
  rcases horders with ho | ⟨ha, hlen⟩
  · have none : v.activeKind i = none := by
      simp only [State.activeKind, ho]
      cases (v.slot i).active <;> rfl
    rw [if_neg (by simp [none]), if_neg (by simp [none])]
    exact ⟨⟨_, _, _, rfl, .inl ho, id⟩, fun _ _ => rfl, fun e he => absurd (ho.symm.trans he) (by simp)⟩
  · obtain ⟨e, ho⟩ := List.length_eq_one_iff.mp hlen
    have kind := activeKind_head ha ho
    have finish : ∀ (o : OrderOutcome) (x : Option FaultCause), (finishActive i o x [] v).slot i =
        { v.slot i with orders := [], active := false, read := none } := fun o x => by
      rw [finishActive_slot_self]
      simp only [Slot.finished, ha, ho, Slot.dropHead, List.tail_cons]
    have others : ∀ (o : OrderOutcome) (x : Option FaultCause) (j), j ≠ i →
        (finishActive i o x [] v).slot j = v.slot j := fun o x j hj => finishActive_slot_ne _ _ _ _ _ hj
    have cells := fun o x => (finishActive_cells hm ha ho o x []).1
    rw [kind]
    simp only [Option.some.injEq]
    by_cases hadm : e.kind = .admitBlade
    · rw [if_pos hadm]
      refine ⟨⟨_, _, _, finish .., .inl rfl, fun _ => rfl⟩, others _ _, fun e' he' _ => ?_⟩
      obtain rfl : e = e' := List.head_eq_of_cons_eq (ho.symm.trans he')
      exact ⟨fun _ => ⟨by rw [finish], cells ..⟩, fun h => absurd (hadm.symm.trans h) (by decide), fun h => absurd hadm h⟩
    · by_cases hret : e.kind = .retire
      · rw [if_neg hadm, if_pos hret]
        refine ⟨⟨_, _, _, finish .., .inl rfl, fun _ => rfl⟩, others _ _, fun e' he' _ => ?_⟩
        obtain rfl : e = e' := List.head_eq_of_cons_eq (ho.symm.trans he')
        exact ⟨fun h => absurd h hadm, fun _ => ⟨by rw [finish], cells ..⟩, fun _ h => absurd hret h⟩
      · rw [if_neg hadm, if_neg hret]
        refine ⟨⟨_, _, _, rfl, .inr ha, id⟩, fun _ _ => rfl, fun e' he' _ => ?_⟩
        obtain rfl : e = e' := List.head_eq_of_cons_eq (ho.symm.trans he')
        exact ⟨fun h => absurd h hadm, fun h => absurd h hret, fun _ _ => ho⟩

@[simp] theorem finishFaulted_frame (i : SlotId) (cause : FaultCause) (v : State) :
    (finishFaulted i cause v).alloc = v.alloc ∧ (finishFaulted i cause v).power = v.power
    ∧ (finishFaulted i cause v).ports = v.ports ∧ (finishFaulted i cause v).settings = v.settings
    ∧ (finishFaulted i cause v).history = v.history ∧ (finishFaulted i cause v).work = v.work
    ∧ (finishFaulted i cause v).late = v.late := by
  simp [finishFaulted]

/-- What every fault that removes power leaves (R19, R20). -/
structure State.PowerRemoved (s : State) (i : SlotId) (cause : FaultCause) (t : State) : Prop where
  state : (t.slot i).state = .faulted
  prev : (t.slot i).prev = (s.slot i).state
  gen : (t.slot i).gen = nextGeneration (s.slot i).gen
  fault : (t.slot i).fault = some cause
  faultTime : (t.slot i).faultTime = s.time
  claim : (t.slot i).claim = 0
  retire : (t.slot i).retire = none
  latch : (t.slot i).latch = false
  read : (s.slot i).read = none → (t.slot i).read = none
  off : (t.pwr i).switchOn = false ∧ (t.pwr i).resetAsserted = true ∧ (t.pwr i).rampLimit = none
    ∧ (t.pwr i).resetHold = none ∧ (t.pwr i).minute = none
  opened : (s.pwr i).switchOn = true → (t.pwr i).deferral = none ∧ (t.pwr i).offTime = s.time
    ∧ (t.pwr i).offRef = some (after s.time 60000)
  claims : t.alloc.claims[i] = 0
  granted : t.alloc.granted + s.alloc.claims[i] = s.alloc.granted
  ports : ∀ p, nodeSlot p = i ∨ hubSlot p = i → (t.portOf p).state = .isolated ∧ (t.portOf p).gate = false
  order : ∀ e, (s.slot i).orders = [e] → (s.slot i).active = true →
    (e.kind = .admitBlade → (t.slot i).orders = [] ∧ t.cell e.cell = .finished
      ∧ t.rd8 e.cell 0x1C = cause.admitOutcome.code ∧ t.rd8 e.cell 0x1E = SlotState.faulted.code)
    ∧ (e.kind = .retire → (t.slot i).orders = [] ∧ t.cell e.cell = .finished
      ∧ t.rd8 e.cell 0x1C = OrderOutcome.done.code ∧ t.rd8 e.cell 0x1D = cause.code)
    ∧ (e.kind ≠ .admitBlade → e.kind ≠ .retire → (t.slot i).orders = [e])
  slots : OtherSlots i s t
  power : OtherPower i s t
  settings : t.settings = s.settings
  history : t.history = s.history

/-- The update counts and the engines are not looked at. -/
theorem State.PowerRemoved.congr {cause : FaultCause} (h : s.PowerRemoved i cause t)
    (hslots : ∀ j, (u.slot j).Like (t.slot j)) (hcells : CellsKept t u) (halloc : u.alloc = t.alloc)
    (hpower : u.power = t.power) (hports : u.ports = t.ports) (hsettings : u.settings = t.settings)
    (hhistory : u.history = t.history) : s.PowerRemoved i cause u := by
  have field : ∀ {α : Type} (f : Slot → α), (∀ x n, f { x with upd := n } = f x) → f (u.slot i) = f (t.slot i) :=
    fun f hf => (hf _ 0).symm.trans ((congrArg f (hslots i)).trans (hf _ 0))
  have bytes : ∀ d n, u.rd8 d n = t.rd8 d n := fun d n => by rw [State.rd8, State.rd8, hcells.2]
  have cells : ∀ d, u.cell d = t.cell d := cell_congr hcells.1
  obtain ⟨state, prev, gen, fault, faultTime, claim, retire, latch, read, off, opened, claims, granted, ports, order, slots,
    power, settings, history⟩ := h
  have orders : (u.slot i).orders = (t.slot i).orders := field Slot.orders fun _ _ => rfl
  refine ⟨?_, ?_, ?_, ?_, ?_, ?_, ?_, ?_, ?_, ?_, ?_, ?_, ?_, ?_, ?_, fun j hj => (hslots j).trans (slots j hj), fun j hj => ?_,
    hsettings.trans settings, hhistory.trans history⟩
  · rw [field Slot.state fun _ _ => rfl, state]
  · rw [field Slot.prev fun _ _ => rfl, prev]
  · rw [field Slot.gen fun _ _ => rfl, gen]
  · rw [field Slot.fault fun _ _ => rfl, fault]
  · rw [field Slot.faultTime fun _ _ => rfl, faultTime]
  · rw [field Slot.claim fun _ _ => rfl, claim]
  · rw [field Slot.retire fun _ _ => rfl, retire]
  · rw [field Slot.latch fun _ _ => rfl, latch]
  · rw [field Slot.read fun _ _ => rfl]
    exact read
  · rw [pwr_congr hpower]
    exact off
  · rw [pwr_congr hpower]
    exact opened
  · rw [halloc]
    exact claims
  · rw [halloc]
    exact granted
  · simpa only [portOf_congr hports] using ports
  · simpa only [orders, bytes, cells] using order
  · rw [pwr_congr hpower, power j hj]

/-- The removal of power by a fault stands at the end of its event, and leaves what R20 says. -/
theorem faultRemove_removes {cause : FaultCause} (hinv : Inv s) (hq : s.QuietBut i)
    (hpayload : (s.slot i).state.payloadOn = true)
    (horders : (s.slot i).orders = [] ∨ (s.slot i).active = true ∧ (s.slot i).orders.length = 1)
    (h : s.Near i u)
    (hfault : (u.slot i).fault = some cause) (htime : (u.slot i).faultTime = s.time) :
    (faultRemove i cause u).AtEnd 4096 ∧ s.PowerRemoved i cause (faultRemove i cause u) := by
  have empty : s.alloc.queue = [] := hq.queue.resolve_right fun hw => by
    rw [hw.1] at hpayload
    exact Bool.noConfusion hpayload
  obtain ⟨r, alloc⟩ := h.alloc
  have vself := changeStateOwn_slot_self u i .faulted .fault
  have vslots : ∀ j, j ≠ i → (changeStateOwn i .faulted .fault u).slot j = s.slot j := fun j hj => by
    rw [changeStateOwn_slot_ne _ _ _ _ hj, h.slots j hj]
  have valloc : (changeStateOwn i .faulted .fault u).alloc = { s.alloc with ramping := r } := by simp [alloc]
  have vframe : (changeStateOwn i .faulted .fault u).time = s.time
      ∧ (changeStateOwn i .faulted .fault u).cells = s.cells ∧ (changeStateOwn i .faulted .fault u).mem = s.mem
      ∧ (changeStateOwn i .faulted .fault u).power = u.power
      ∧ (changeStateOwn i .faulted .fault u).settings = s.settings
      ∧ (changeStateOwn i .faulted .fault u).history = s.history
      ∧ (changeStateOwn i .faulted .fault u).ports = u.ports ∧ (changeStateOwn i .faulted .fault u).work = []
      ∧ (changeStateOwn i .faulted .fault u).late = u.late := by
    simp [h.time, h.cells, h.mem, h.settings, h.history, h.work]
  have eq : u.faulted i = if u.activeKind i = some .readIdentity
      then losePayload i (changeStateOwn i .faulted .fault u)
      else endOwn i (losePayload i (changeStateOwn i .faulted .fault u)) := rfl
  generalize changeStateOwn i .faulted .fault u = v at *
  obtain ⟨vtime, vcells, vmem, vpower, vsettings, vhistory, vports, vwork, vlate⟩ := vframe
  have loss : v.LosesPayload i (losePayload i v) := losePayload_leaves (by rw [vself]; rfl)
    (by rw [valloc]; exact hq.timing) (fun p => by rw [portOf_congr vports]; exact h.ports p)
    (by rw [pwr_congr vpower]; exact h.lawful)
    (by rw [valloc]; exact ⟨hinv.alloc.granted, hinv.alloc.capacity, hinv.alloc.shelf⟩)
  generalize losePayload i v = x at *
  have ended : (∀ j, (u.faulted i).slot j = x.slot j) ∧ (∀ j, (u.faulted i).pwr j = x.pwr j)
      ∧ (u.faulted i).alloc = x.alloc ∧ (∀ p, (u.faulted i).portOf p = x.portOf p)
      ∧ (u.faulted i).cells = s.cells ∧ (u.faulted i).mem = s.mem ∧ (u.faulted i).settings = s.settings
      ∧ (u.faulted i).history = s.history ∧ (u.faulted i).work = x.work ∧ (u.faulted i).late = x.late := by
    rw [eq]
    split <;> simp [loss.cells, loss.mem, loss.settings, loss.history, vcells, vmem, vsettings, vhistory]
  rw [faultRemove_eq]
  generalize u.faulted i = y at *
  obtain ⟨yslot, ypwr, yalloc, yport, -, ymem, ysettings, yhistory, ywork, ylate⟩ := ended
  have yself : y.slot i = { (u.slot i).enter u.time .faulted with claim := 0 } := by rw [yslot, loss.slot, vself]
  have yorders : (y.slot i).orders = (s.slot i).orders ∧ (y.slot i).active = (s.slot i).active := by
    rw [yself]
    exact ⟨h.orders, h.active⟩
  obtain ⟨⟨os, b, rd, zself, hdone, hread⟩, zslots, zorder⟩ := finishFaulted_leaves (v := y) cause
    (by rw [ymem]; exact hinv.mem) (by rw [yorders.1, yorders.2]; exact horders)
  obtain ⟨zalloc, zpower, zports, zsettings, zhistory, zwork, zlate⟩ := finishFaulted_frame i cause y
  generalize finishFaulted i cause y = z at *
  have zothers : ∀ j, j ≠ i → z.slot j = s.slot j := fun j hj => by
    rw [zslots j hj, yslot, loss.slots j hj, vslots j hj]
  have zstate : (z.slot i).state = .faulted := by rw [zself, yself]; rfl
  have jobs : (testNext i z).jobs = (if s.alloc.claims[i] = 0 then [] else [.examine]) ++ [.start i, .handle i] := by
    refine (raise_jobs ..).trans (congrArg (· ++ _) ?_)
    rw [jobs_congr (zwork.trans ywork), loss.jobs, jobs_nil vwork, valloc]
    rfl
  have within : (testNext i z).LateWithin fun _ => True :=
    (loss.late (h.late.congr vlate)).congr (by simp [testNext, zlate, ylate])
  refine ⟨within.atEnd jobs (fun j hj => ?_) (fun j _ => ?_) (by split <;> simp), ?_⟩
  · rcases List.mem_append.mp hj with hj | hj
    · split at hj
      · exact absurd hj List.not_mem_nil
      · obtain rfl := List.mem_singleton.mp hj
        simp [Job.Idle, testNext, zalloc, yalloc, loss.queue, valloc, empty]
    · simp only [List.mem_cons, List.not_mem_nil, or_false] at hj
      obtain rfl | rfl := hj
      · rcases hdone with hnil | hactive
        · exact .inl (by rw [testNext, raise_slot, zself]; exact hnil)
        · exact .inr (.inr (by rw [testNext, raise_slot, zself]; exact hactive))
      · refine handleActs_elsewhere ?_ ?_
        all_goals rw [testNext, raise_slot, zstate]; exact nofun
  · by_cases hj : j = i
    · subst hj
      refine lateIdle_elsewhere ?_ ?_
      all_goals rw [testNext, raise_slot, zstate]; exact nofun
    · refine lateIdle_elsewhere ?_ ?_
      all_goals rw [testNext, raise_slot, zothers j hj]
      · exact (hq.slots j hj).1
      · exact (hq.slots j hj).2
  · have raised : CellsKept z (testNext i z) := ⟨rfl, rfl⟩
    refine ⟨zstate, ?_, ?_, ?_, ?_, ?_, ?_, ?_, fun hnone => ?_, ?_, fun hon => ?_, ?_, ?_, fun p hp => ?_, fun e he ha => ?_,
      fun j hj => ?_, fun j hj => ?_, ?_, ?_⟩
    · simp [testNext, zself, yself, Slot.enter, h.state]
    · simp [testNext, zself, yself, Slot.enter, h.gen]
    · simp [testNext, zself, yself, Slot.enter, hfault]
    · simp [testNext, zself, yself, Slot.enter, htime]
    · simp [testNext, zself, yself]
    · simp [testNext, zself, yself, Slot.enter, SlotState.endsRetirement]
    · simp [testNext, zself, yself, Slot.enter, SlotState.clearsLatch]
    · rw [testNext, raise_slot, zself]
      exact hread (by rw [yself]; exact h.read.trans hnone)
    · simpa [testNext, pwr_congr zpower, ypwr] using loss.off
    · rw [testNext, raise_pwr, pwr_congr zpower, ypwr]
      rcases h.switch hon with hstill | hgone
      · rw [loss.opened (by rw [pwr_congr vpower]; exact hstill), vtime]
        exact ⟨rfl, rfl, rfl⟩
      · rw [loss.stays (by rw [pwr_congr vpower, hgone]; rfl), pwr_congr vpower, hgone]
        exact ⟨rfl, rfl, rfl⟩
    · simpa [testNext, zalloc, yalloc] using loss.claims
    · simpa [testNext, zalloc, yalloc, valloc] using loss.granted
    · simp [testNext, portOf_congr zports, yport, loss.ports p hp, Port.isolate]
    · obtain ⟨hadm, hret, hother⟩ := zorder e (yorders.1.trans he) (yorders.2.trans ha)
      refine ⟨fun hk => ?_, fun hk => ?_, hother⟩
      · obtain ⟨none, finished⟩ := hadm hk
        have finished := finished.of_kept raised
        exact ⟨none, finished.cell, finished.code, by rw [finished.state, yself]; rfl⟩
      · obtain ⟨none, finished⟩ := hret hk
        have finished := finished.of_kept raised
        exact ⟨none, finished.cell, finished.code, finished.fault⟩
    · rw [testNext, raise_slot, zothers j hj]
      rfl
    · rw [testNext, raise_pwr, pwr_congr zpower, ypwr, loss.pwrs j hj, pwr_congr vpower, h.pwrs j hj]
    · simp [testNext, zsettings, ysettings]
    · simp [testNext, zhistory, yhistory]

/-- A fault that removes power, raised in a state near `s`. -/
theorem raiseFault_faults {cause : FaultCause} (hinv : Inv s) (hq : s.QuietBut i)
    (hpayload : (s.slot i).state.payloadOn = true)
    (horders : (s.slot i).orders = [] ∨ (s.slot i).active = true ∧ (s.slot i).orders.length = 1)
    (h : s.Near i u) (hcause : cause.isPower = true ∨ (s.slot i).policy.fault = .cut) :
    (raiseFault i cause u).AtEnd 4096 ∧ s.PowerRemoved i cause (raiseFault i cause u) := by
  rw [raiseFault_removes (by rw [h.policy]; exact hcause)]
  exact faultRemove_removes hinv hq hpayload horders (h.raised cause) (by rw [raised_slot_self])
    (by rw [raised_slot_self]; exact h.time)

theorem reportFault_payload {cause : FaultCause} (h : (u.slot i).state.payloadOn = true) :
    reportFault i cause u = raiseFault i cause u := if_pos h

theorem State.Near.refl (hinv : Inv s) (hl : s.Live) : s.Near i s where
  state := rfl
  gen := rfl
  policy := rfl
  orders := rfl
  active := rfl
  read := rfl
  slots _ _ := rfl
  lawful := hl.held ▸ hinv.power i
  switch := .inl
  pwrs _ _ := rfl
  alloc := ⟨_, rfl⟩
  ports := hinv.ports
  cells := rfl
  mem := rfl
  time := rfl
  settings := rfl
  history := rfl
  work := hl.work
  late := .of_nil hl.late

end Sys2Proof.Machine

/-! The causes of a fault that removes power, one after another (R19, R88, R90, R137, R143). -/

namespace Sys2Proof.Machine

variable {s t u v w : State} {i j : SlotId} {p q : PortId} {c d : CellId}

/-! ### The state in which each cause raises its fault -/

/-- Notices, engines and inputs are not looked at. -/
theorem State.Near.congr (h : s.Near i u) (hslots : t.slots = u.slots) (hpower : t.power = u.power)
    (halloc : t.alloc = u.alloc) (hports : t.ports = u.ports) (hcells : t.cells = u.cells) (hmem : t.mem = u.mem)
    (htime : t.time = u.time) (hsettings : t.settings = u.settings) (hhistory : t.history = u.history)
    (hwork : t.work = u.work) (hlate : t.late = u.late) : s.Near i t where
  state := by rw [slot_congr hslots]; exact h.state
  gen := by rw [slot_congr hslots]; exact h.gen
  policy := by rw [slot_congr hslots]; exact h.policy
  orders := by rw [slot_congr hslots]; exact h.orders
  active := by rw [slot_congr hslots]; exact h.active
  read := by rw [slot_congr hslots]; exact h.read
  slots j hj := by rw [slot_congr hslots]; exact h.slots j hj
  lawful := by rw [pwr_congr hpower]; exact h.lawful
  switch := by rw [pwr_congr hpower]; exact h.switch
  pwrs j hj := by rw [pwr_congr hpower]; exact h.pwrs j hj
  alloc := by rw [halloc]; exact h.alloc
  ports p := by rw [portOf_congr hports]; exact h.ports p
  cells := hcells.trans h.cells
  mem := hmem.trans h.mem
  time := htime.trans h.time
  settings := hsettings.trans h.settings
  history := hhistory.trans h.history
  work := hwork.trans h.work
  late := h.late.congr hlate

/-- The ramp limit of a slot is gone and it is out of the ramping set (R74, R88). -/
theorem near_rampSlow (hinv : Inv s) (hl : s.Live) (htiming : s.alloc.timingAtFront = false) :
    s.Near i ((rampEnded i s).modPower i fun p => { p with rampLimit := none }) := by
  rw [rampEnded_alone htiming]
  have near := State.Near.refl (i := i) hinv hl
  refine ⟨rfl, rfl, rfl, rfl, rfl, rfl, fun _ _ => rfl, ?_, fun hon => .inl ?_, fun j hj => ?_, ⟨_, rfl⟩, hinv.ports, rfl, rfl,
    rfl, rfl, rfl, near.work, near.late.congr rfl⟩
  · rw [modPower_pwr_self]
    obtain ⟨reset, -, hold, minute⟩ := near.lawful
    exact ⟨reset, fun _ _ => rfl, hold, minute⟩
  · rw [modPower_pwr_self]
    exact hon
  · rw [modPower_pwr_ne _ _ _ _ hj]
    rfl

/-- A slot whose switch a trip has opened (R90, R91). -/
theorem near_powerOff (hinv : Inv s) (hl : s.Live) (htiming : s.alloc.timingAtFront = false)
    (hon : (s.pwr i).switchOn = true) : s.Near i (powerOff i s) := by
  obtain ⟨self, others, alloc, work⟩ := powerOff_leaves (i := i) htiming
  rw [if_pos hon] at self
  have near := State.Near.refl (i := i) hinv hl
  refine ⟨?_, ?_, ?_, ?_, ?_, ?_, fun j _ => ?_, ?_, fun _ => .inr self, others, alloc, fun p => ?_, ?_, ?_, ?_, ?_, ?_,
    work.trans near.work, near.late.congr (by simp)⟩
  · simp
  · simp
  · simp
  · simp
  · simp
  · simp
  · simp
  · rw [self]
    exact ⟨fun _ => rfl, fun _ _ => rfl, fun _ _ => rfl, fun _ _ => rfl⟩
  · simpa using hinv.ports p
  all_goals simp

/-- A slot whose agent's answer is recorded (R137). -/
theorem near_recordAgent (hinv : Inv s) (hl : s.Live) (st : AgentState) (cause : Byte) :
    s.Near i (s.modSlot i (Slot.recordAgent st cause)) := by
  have near := State.Near.refl (i := i) hinv hl
  refine ⟨?_, ?_, ?_, ?_, ?_, ?_, fun j hj => modSlot_slot_ne _ _ _ _ hj, near.lawful, .inl, fun _ _ => rfl, ⟨_, rfl⟩,
    hinv.ports, rfl, rfl, rfl, rfl, rfl, near.work, near.late.congr rfl⟩
  all_goals
    rw [modSlot_slot_self]
    rfl

theorem near_handResumed (h : s.Near i u) (d : ResumedDetail) : s.Near i (handResumed i d u) := by
  refine h.congr ?_ ?_ ?_ ?_ ?_ ?_ ?_ ?_ ?_ ?_ ?_
  all_goals simp [handResumed]

/-- The link of a slot is LOST, with its queue and request gone (R143). -/
def State.unlinked (s : State) (i : SlotId) : State :=
  s.modEngine i fun e =>
    { e with out := none, queue := [], link := .lost, recovery := some (after s.time Config.recoveryInterval) }

theorem moves_resolveLoss (s : State) (i : SlotId) : s.Moves (· ∈ slotPorts i) (resolveLoss i s) := by
  refine .foldl (fun s p hp => ?_) _ s fun _ h => h
  cases isHub i
  · exact .resolveNodePort s hp
  · exact .resolveHubPort s hp

theorem kept_unlinked (hinv : Inv s) (i : SlotId) : Kept s.fixed (s.unlinked i) :=
  (Kept.refl hinv).modEngine fun _ =>
    ⟨fun _ => rfl, fun _ => rfl, nofun, (fun _ _ ho => by cases ho), nofun, fun _ ho => by cases ho⟩

/-- A slot whose lost link the coordinator has resolved (R120, R121, R143). -/
theorem near_linkLoss (hinv : Inv s) (hl : s.Live) :
    s.Near i (linkNotice i false (resolveLoss i (s.unlinked i))) := by
  have near := State.Near.refl (i := i) hinv hl
  have moves := moves_resolveLoss (s.unlinked i) i
  have kept := (kept_unlinked hinv i).resolveLoss (i := i)
  have resolved : s.Near i (resolveLoss i (s.unlinked i)) := by
    refine ⟨?_, ?_, ?_, ?_, ?_, ?_, fun j _ => ?_, ?_, ?_, fun j _ => ?_, ⟨_, moves.alloc⟩, kept.inv.ports, moves.cells,
      moves.mem, moves.time, moves.settings, moves.history, moves.work.trans near.work,
      moves.late _ (fun _ _ => ⟨trivial, trivial⟩) (near.late.congr rfl)⟩
    · rw [slot_congr moves.slots]
      rfl
    · rw [slot_congr moves.slots]
      rfl
    · rw [slot_congr moves.slots]
      rfl
    · rw [slot_congr moves.slots]
      rfl
    · rw [slot_congr moves.slots]
      rfl
    · rw [slot_congr moves.slots]
      rfl
    · rw [slot_congr moves.slots]
      rfl
    · rw [pwr_congr moves.power]
      exact near.lawful
    · rw [pwr_congr moves.power]
      exact near.switch
    · rw [pwr_congr moves.power]
      rfl
  refine resolved.congr ?_ ?_ ?_ ?_ ?_ ?_ ?_ ?_ ?_ ?_ ?_
  all_goals simp [linkNotice]

/-- A recorded answer brings nothing in FAULTED (R137). -/
theorem stateAnswer_faulted {st : AgentState} (h : (t.slot i).state = .faulted) : stateAnswer i st t = t := by
  simp only [stateAnswer, h]

/-! ### The commands -/

section
variable {cause : FaultCause} (hinv : Inv s) (hq : s.QuietBut i)
  (hpayload : (s.slot i).state.payloadOn = true)
  (horders : (s.slot i).orders = [] ∨ (s.slot i).active = true ∧ (s.slot i).orders.length = 1)
include hinv hq hpayload horders

/-- An event whose act raises a fault that removes power ends so, whatever a link's engine then does. -/
theorem event_removes {act : State → State} (h : s.Near i u)
    (hcause : cause.isPower = true ∨ (s.slot i).policy.fault = .cut)
    (hact : act v = raiseFault i cause u ∨ ∃ m, act v = (raiseFault i cause u).proceeds i m) (hv : v.Live) :
    ∃ t, liveEvent act v = t ∧ s.PowerRemoved i cause t := by
  obtain ⟨hend, removed⟩ := raiseFault_faults hinv hq hpayload horders h hcause
  rcases hact with hact | ⟨m, hact⟩
  · obtain ⟨l, b, -, he⟩ := hend.liveEvent hv hact
    refine ⟨_, he, removed.congr (fun j => ?_) (ended_cellsKept ..) ?_ ?_ ?_ ?_ ?_⟩
    · rw [(ended_reads ..).1]
      exact Slot.written_like _ _
    all_goals simp
  · obtain ⟨l, b, -, he⟩ := (hend.proceeds i m).liveEvent hv hact
    have kept : CellsKept (raiseFault i cause u) ((raiseFault i cause u).proceeds i m) := by simp [CellsKept]
    refine ⟨_, he, removed.congr (fun j => ?_) (kept.trans (ended_cellsKept ..)) ?_ ?_ ?_ ?_ ?_⟩
    · rw [(ended_reads ..).1, (proceeds_reads ..).1]
      exact Slot.written_like _ _
    all_goals simp

/-- A resumption that a fault ends stays FAULTED under CUT (R199, R200). -/
theorem resumeFault_faults (h : s.Near i u) (hcause : cause.isPower = true ∨ (s.slot i).policy.fault = .cut)
    (d : ResumedDetail) : resumeFault i cause d u = raiseFault i cause (handResumed i d u) := by
  have state := (raiseFault_faults hinv hq hpayload horders (near_handResumed h d) hcause).2.state
  exact if_neg (by rw [state]; decide)

/-- A PROBE answered FAULT removes power under CUT (R19, R20, R199). -/
theorem probeAnswer_faults (hl : s.Live) (hcut : (s.slot i).policy.fault = .cut)
    (hfirst : (s.slot i).agentFault = false ∨ (s.slot i).state = .resuming) (b : Byte) :
    ∃ u, s.Near i u ∧ probeAnswer i .fault b s = raiseFault i .agentFault u := by
  have near := near_recordAgent (i := i) hinv hl .fault b
  by_cases hres : (s.slot i).state = .resuming
  · refine ⟨_, near_handResumed near .agentFault, ?_⟩
    rw [probeAnswer, if_pos hres]
    exact resumeFault_faults hinv hq hpayload horders near (.inr hcut) .agentFault
  · refine ⟨_, near, ?_⟩
    have state := (raiseFault_faults hinv hq hpayload horders near (.inr hcut) (cause := .agentFault)).2.state
    rw [probeAnswer, if_neg hres, hfirst.resolve_right hres, if_pos ⟨rfl, rfl⟩,
      reportFault_payload (by rw [near.state]; exact hpayload), stateAnswer_faulted state]

/-- The loss of a slot's link removes power under CUT, outside STAMPING and with no page read (R20, R143). -/
theorem linkLoss_faults (hl : s.Live) (hcut : (s.slot i).policy.fault = .cut) (hstamp : (s.slot i).state ≠ .stamping)
    (hread : (s.slot i).read = none) : ∃ u, s.Near i u ∧ linkLoss i s = raiseFault i .linkLost u := by
  have near := near_linkLoss (i := i) hinv hl
  have loss : linkLoss i s = seqLinkLost i (linkNotice i false (resolveLoss i (s.unlinked i))) := rfl
  generalize linkNotice i false (resolveLoss i (s.unlinked i)) = u at *
  have survey : (s.slot i).state ≠ .surveying := fun h => by
    rw [h] at hpayload
    exact Bool.noConfusion hpayload
  have quiet : ∀ v, s.Near i v → readLost i (raiseFault i .linkLost v) = raiseFault i .linkLost v := fun v hv => by
    have read := (raiseFault_faults hinv hq hpayload horders hv (.inr hcut) (cause := .linkLost)).2.read hread
    simp only [readLost, read]
  rw [loss, seqLinkLost, stateLinkLost, near.state, if_neg survey, if_neg hstamp]
  by_cases hres : (s.slot i).state = .resuming
  · rw [if_pos hres, resumeFault_faults hinv hq hpayload horders near (.inr hcut) .linkLost]
    exact ⟨_, near_handResumed near _, quiet _ (near_handResumed near _)⟩
  · rw [if_neg hres, reportFault_payload (by rw [near.state]; exact hpayload)]
    exact ⟨_, near, quiet _ near⟩

end

/-- Settles O39. -/
theorem powerFaultRemovesPower : Obligations.PowerFaultRemovesPower := by
  intro s i c cause o f r hinv hl hq hpayload horders hc
  have removes : ∃ t, exec c s = .next t ∧ s.PowerRemoved i cause t := by
    have near := State.Near.refl (i := i) hinv hl
    have report : ∀ {u : State} {x : FaultCause}, s.Near i u → reportFault i x u = raiseFault i x u := fun h =>
      reportFault_payload (by rw [h.state]; exact hpayload)
    rcases hc with ⟨rfl, rfl, hboot, hdue⟩ | ⟨rfl, rfl, hdue⟩ | ⟨rfl, rfl, hon⟩ | ⟨rfl, rfl, hon, hramp⟩
      | ⟨rfl, rfl, hcut, hfirst, ho, hmsg, hlive, hrec, hf, hst⟩
      | ⟨rfl, rfl, hcut, hstamp, hread, hup, ho, hlive, hask, hrec, hthird, hdue⟩
    · obtain ⟨t, he, removed⟩ := event_removes hinv hq hpayload horders near (.inl rfl) (act := bootExpired i)
        (.inl ((if_pos ⟨hboot, hdue⟩).trans (report near))) hl
      exact ⟨t, congrArg Host.Outcome.next he, removed⟩
    · have slow := near_rampSlow (i := i) hinv hl hq.timing
      obtain ⟨t, he, removed⟩ := event_removes hinv hq hpayload horders slow (.inl rfl) (act := rampLimitExpired i)
        (.inl ((if_pos hdue).trans (report slow))) hl
      exact ⟨t, congrArg Host.Outcome.next he, removed⟩
    · have off := near_powerOff (i := i) hinv hl hq.timing hon
      obtain ⟨t, he, removed⟩ := event_removes hinv hq hpayload horders off (.inl (by split <;> rfl))
        (act := tripTaken i) (.inl ((if_pos hon).trans (report off))) hl
      refine ⟨t, congrArg Host.Outcome.next (Eq.trans ?_ he), removed⟩
      rw [liveEvent, event, event, unlessHeld_live _ _ hl.held, hl.held]
      rfl
    · have good := near.congr (t := s.modPins i fun p => { p with powerGood := false }) rfl rfl rfl rfl rfl rfl rfl rfl
        rfl rfl rfl
      obtain ⟨t, he, removed⟩ := event_removes hinv hq hpayload horders good (.inl rfl) (act := powerGoodLost i)
        (.inl ((if_pos (by simp [hon, hramp])).trans (report good))) (live_modPins hl _)
      exact ⟨t, congrArg Host.Outcome.next he, removed⟩
    · obtain ⟨u, hu, answer⟩ := probeAnswer_faults hinv hq hpayload horders hl hcut hfirst (byteAt r.payload 1)
      have taken := frameTaken_probe ho hmsg hlive hf hst
      rw [hrec] at taken
      obtain ⟨t, he, removed⟩ := event_removes hinv hq hpayload horders hu (.inr hcut) (act := frameTaken i f)
        (.inr ⟨.probe, taken.trans (by rw [← answer]; rfl)⟩) hl
      exact ⟨t, congrArg Host.Outcome.next he, removed⟩
    · obtain ⟨u, hu, loss⟩ := linkLoss_faults hinv hq hpayload horders hl hcut hstamp hread
      have third : failAttempt i o s = linkLoss i s := by
        rw [failAttempt, if_neg (by simp [hlive, hask]), if_neg (by simpa [Config.maxAttempts] using hthird),
          if_neg (by simp [hrec, State.linkUp, hup])]
      obtain ⟨t, he, removed⟩ := event_removes hinv hq hpayload horders hu (.inr hcut) (act := replyExpired i)
        (.inl ((replyExpired_some ho).trans ((if_pos hdue).trans (third.trans loss)))) hl
      exact ⟨t, congrArg Host.Outcome.next he, removed⟩
  obtain ⟨t, he, h⟩ := removes
  obtain ⟨off, reset, ramp, hold, minute⟩ := h.off
  exact ⟨t, he, h.state, h.prev, h.gen, h.fault, h.faultTime, h.claim, h.retire, h.latch, off, reset, ramp, hold, minute,
    h.opened, h.claims, h.granted, h.ports, h.order, h.slots, h.power, h.settings, h.history⟩

end Sys2Proof.Machine

/-! The orderly power-off (R16, R18, R92). -/

namespace Sys2Proof.Machine

variable {s t u v w : State} {i j : SlotId} {p q : PortId} {c d : CellId}

/-- Slots that are alike agree in every field but the update count. -/
theorem Slot.Like.field {x y : Slot} (h : x.Like y) {α : Type} (f : Slot → α)
    (hf : ∀ z n, f { z with upd := n } = f z) : f x = f y :=
  (hf x 0).symm.trans ((congrArg f h).trans (hf y 0))

/-! ### A line that goes on -/

/-- The engine goes on after a request: the engine of its slot alone is written. -/
theorem proceeds_eq (w : State) (i : SlotId) (m : Msg) : ∃ g, w.proceeds i m = w.modEngine i g := by
  have ask : ∃ g, (if m = .probe then alertTest i (endRequest i w) else endRequest i w) = w.modEngine i g := by
    have ended : endRequest i w = w.modEngine i fun e => { e with out := none } := rfl
    unfold alertTest askProbe enqueue
    split_ifs
    · exact ⟨_, modEngine_modEngine ..⟩
    all_goals exact ⟨_, ended⟩
  obtain ⟨g, hg⟩ := ask
  refine ⟨fun e => (g e).serve (w.modEngine i g).time, ?_⟩
  rw [State.proceeds, afterRequest, hg]
  exact modEngine_modEngine ..

/-! ### The report of an opened switch -/

/-- A state in which the switch of slot `i`, in POWERING-OFF, opens in order. -/
structure State.OpensInOrder (w : State) (i : SlotId) : Prop where
  state : (w.slot i).state = .poweringOff
  latch : (w.slot i).latch = false
  on : (w.pwr i).switchOn = true
  orders : (w.slot i).orders = [] ∨ (w.slot i).active = true ∧ (w.slot i).orders.length = 1
  timing : w.alloc.timingAtFront = false
  queue : w.alloc.queue = []
  lawful : w.alloc.Lawful
  mem : Memory.wf w.mem = true
  work : w.work = []
  late : w.late = []

/-- What the orderly power-off of a slot leaves, once its report is taken (R18, R91, R92). -/
structure State.Parks (w : State) (i : SlotId) (t : State) : Prop where
  slot : ∃ b rd, (t.slot i).Like { ({ w.slot i with claim := 0 } : Slot).enter w.time .parked with
    orders := [], active := b, read := rd }
  pwr : t.pwr i = (w.pwr i).turnOff w.time
  claims : t.alloc.claims[i] = 0
  granted : t.alloc.granted + w.alloc.claims[i] = w.alloc.granted
  order : ∀ e, (w.slot i).orders = [e] →
    t.Finished e.cell OrderOutcome.done.code 0 SlotState.parked.code (nextGeneration (w.slot i).gen)
  cells : ∀ d, (∀ e ∈ (w.slot i).orders, e.cell ≠ d) → CellStands d w t
  shelf : t.alloc.shelf = w.alloc.shelf
  slots : OtherSlots i w t
  power : OtherPower i w t
  engines : OtherEngines i w t
  ports : t.ports = w.ports
  settings : t.settings = w.settings

/-- A slot with at most one order, active when it is there, is left with none by its finish. -/
theorem finished_alone {x : Slot} (h : x.orders = [] ∨ x.active = true ∧ x.orders.length = 1) :
    ∃ b rd, x.finished = { x with orders := [], active := b, read := rd } := by
  rcases h with ho | ⟨ha, hlen⟩
  · refine ⟨x.active, x.read, ?_⟩
    have same : x.finished = x := by
      cases ha : x.active <;> simp only [Slot.finished, ha, ho]
    rw [same, ← ho]
  · obtain ⟨e, ho⟩ := List.length_eq_one_iff.mp hlen
    refine ⟨false, none, ?_⟩
    simp only [Slot.finished, ha, ho, Slot.dropHead, List.tail_cons]

/-- The state in which the report of the opened switch is taken. -/
structure State.Opened (w : State) (i : SlotId) (x : State) : Prop where
  slot : x.slot = w.slot
  pwr : x.pwr i = (w.pwr i).turnOff w.time
  power : OtherPower i w x
  alloc : ∃ r, x.alloc = { w.alloc with ramping := r }
  engines : OtherEngines i w x
  ports : x.ports = w.ports
  settings : x.settings = w.settings
  time : x.time = w.time
  cells : CellsKept w x
  work : x.work = []
  late : x.late = []

theorem State.OpensInOrder.opened (h : w.OpensInOrder i) (g : Engine → Engine) (b : Option Word16) (l : List SlotId) :
    w.Opened i ((((powerOff i w).raise [.switchOpened i]).modEngine i g).resume b l) := by
  obtain ⟨self, others, ⟨ramping, alloc⟩, work⟩ := powerOff_leaves (i := i) (s := w) h.timing
  rw [if_pos h.on] at self
  refine ⟨?_, ?_, fun j hj => ?_, ⟨ramping, ?_⟩, fun j hj => ?_, ?_, ?_, ?_, ⟨?_, ?_⟩, ?_, ?_⟩
  · funext j
    simp
  · simpa using self
  · simpa using others j hj
  · simp [alloc]
  · simp [hj]
  all_goals simp [h.late]

/-- The state that has moved to PARKED with its claim returned, when its order finishes (R18). -/
def State.parkedAt (x : State) (i : SlotId) : State := changeStateOwn i .parked .poweredOff (returnClaim i x)

theorem finishActive_empty (h : (s.slot i).orders = []) (o : OrderOutcome) (f : Option FaultCause) (l : List Byte) :
    finishActive i o f l s = s := by
  unfold finishActive
  rw [h]
  cases (s.slot i).active <;> rfl

theorem returnClaim_shelf (s : State) (i : SlotId) : (returnClaim i s).alloc.shelf = s.alloc.shelf := by
  unfold returnClaim
  dsimp only
  split <;> rfl

/-- The report of an opened switch leaves what R18 says. -/
theorem State.OpensInOrder.reports {x : State} (h : w.OpensInOrder i) (hx : w.Opened i x) :
    (switchOpened i x).jobs = (if w.alloc.claims[i] = 0 then [] else [.examine]) ++ [.start i, .handle i]
    ∧ (switchOpened i x).late = [] ∧ (switchOpened i x).alloc.queue = [] ∧ w.Parks i (switchOpened i x) := by
  obtain ⟨xslot, xpwr, xpower, ⟨ramping, xalloc⟩, xengine, xports, xsettings, xtime, xcells, xwork, xlate⟩ := hx
  have reported : switchOpened i x = testNext i (finishActive i .done none [] (x.parkedAt i)) :=
    if_pos (by rw [xslot]; exact h.state)
  obtain ⟨rclaims, rgranted, rqueue, rjobs⟩ := returnClaim_leaves (i := i) (s := x)
    (by rw [xalloc]; exact ⟨h.lawful.granted, h.lawful.capacity, h.lawful.shelf⟩)
  have cslot : (x.parkedAt i).slot i = ({ w.slot i with claim := 0 } : Slot).enter w.time .parked := by
    rw [State.parkedAt, changeStateOwn_slot_self, returnClaim_slot_self, xslot]
    simp [xtime]
  have cothers : ∀ j, j ≠ i → (x.parkedAt i).slot j = w.slot j := fun j hj => by
    rw [State.parkedAt, changeStateOwn_slot_ne _ _ _ _ hj, returnClaim_slot_ne _ _ hj, xslot]
  have cengine : ∀ j, j ≠ i → (x.parkedAt i).engine j = w.engine j := fun j hj => by
    rw [State.parkedAt, changeStateOwn_engine_ne _ _ _ _ hj, (returnClaim_reads ..).2.1, xengine j hj]
  have cjobs : (x.parkedAt i).jobs = if w.alloc.claims[i] = 0 then [] else [.examine] := by
    refine (jobs_congr (by simp [State.parkedAt])).trans (rjobs.trans ?_)
    rw [jobs_nil xwork, xalloc]
    rfl
  have cframe : (x.parkedAt i).alloc = (returnClaim i x).alloc ∧ (∀ j, (x.parkedAt i).pwr j = x.pwr j)
      ∧ (x.parkedAt i).ports = w.ports ∧ (x.parkedAt i).settings = w.settings ∧ (x.parkedAt i).cells = w.cells
      ∧ (x.parkedAt i).mem = w.mem ∧ (x.parkedAt i).late = [] := by
    simp [State.parkedAt, xports, xsettings, xlate, xcells.1, xcells.2]
  rw [reported]
  generalize x.parkedAt i = y at *
  obtain ⟨yalloc, ypwr, yports, ysettings, ycells, ymem, ylate⟩ := cframe
  have orders : (y.slot i).orders = (w.slot i).orders ∧ (y.slot i).active = (w.slot i).active := by
    rw [cslot]
    exact ⟨rfl, rfl⟩
  obtain ⟨b', rd, hfin⟩ := finished_alone (x := y.slot i) (by rw [orders.1, orders.2]; exact h.orders)
  have raised : CellsKept (finishActive i .done none [] y) (testNext i (finishActive i .done none [] y)) := ⟨rfl, rfl⟩
  have stands : CellsKept w y := ⟨ycells, ymem⟩
  have wf : Memory.wf y.mem = true := by rw [ymem]; exact h.mem
  refine ⟨?_, ?_, ?_, ⟨b', rd, ?_⟩, ?_, ?_, ?_, fun e he => ?_, fun d hd => ?_, ?_, fun j hj => ?_, fun j hj => ?_,
    fun j hj => ?_, ?_, ?_⟩
  · rw [testNext, raise_jobs, jobs_congr (t := finishActive i .done none [] y) (s := y) (by simp), cjobs]
  · simp [testNext, ylate]
  · simp [testNext, yalloc, rqueue, xalloc, h.queue]
  · rw [testNext, raise_slot, finishActive_slot_self, hfin, cslot]
    rfl
  · simpa [testNext, ypwr] using xpwr
  · simpa [testNext, yalloc] using rclaims
  · simpa [testNext, yalloc, xalloc] using rgranted
  · rcases h.orders with ho | ⟨ha, -⟩
    · exact absurd (ho.symm.trans he) (by simp)
    · have finished := (finishActive_cells wf (orders.2.trans ha) (orders.1.trans he)
        .done none []).1
      rw [cslot] at finished
      exact finished.of_kept raised
  · rcases h.orders with ho | ⟨ha, hlen⟩
    · have idle : finishActive i .done none [] y = y := finishActive_empty (orders.1.trans ho) ..
      rw [idle] at raised ⊢
      exact (stands.stands d).trans (raised.stands d)
    · obtain ⟨e, ho⟩ := List.length_eq_one_iff.mp hlen
      have other := (finishActive_cells wf (orders.2.trans ha) (orders.1.trans ho) .done none []).2
      refine (stands.stands d).trans ((other.stands ?_).trans (raised.stands d))
      exact (hd e (ho ▸ List.mem_cons_self)).symm
  · simp [testNext, yalloc, returnClaim_shelf, xalloc]
  · rw [testNext, raise_slot, finishActive_slot_ne _ _ _ _ _ hj, cothers j hj]
    rfl
  · simpa [testNext, ypwr] using xpower j hj
  · simpa [testNext] using cengine j hj
  · simp [testNext, yports]
  · simp [testNext, ysettings]

/-- What is left to do once a slot is PARKED does nothing. -/
theorem State.Parks.idle (h : w.Parks i t) (hq : t.alloc.queue = []) (hlatch : (w.slot i).latch = false) :
    ∀ x ∈ (if w.alloc.claims[i] = 0 then [] else [Job.examine]) ++ [.start i, .handle i], x.Idle t := by
  obtain ⟨b, rd, like⟩ := h.slot
  intro x hx
  rcases List.mem_append.mp hx with hx | hx
  · split at hx
    · exact absurd hx List.not_mem_nil
    · obtain rfl := List.mem_singleton.mp hx
      simp [Job.Idle, hq]
  · simp only [List.mem_cons, List.not_mem_nil, or_false] at hx
    obtain rfl | rfl := hx
    · exact .inl (congrArg Slot.orders like)
    · refine handleActs_unlatched ((congrArg Slot.latch like).trans ?_)
      show ((w.slot i).latch && !SlotState.parked.clearsLatch) = false
      rw [hlatch]
      rfl

theorem State.Parks.ended (h : w.Parks i u) (l : List SlotId) (b : Option Word16) : w.Parks i (u.ended l b) := by
  obtain ⟨⟨a, rd, like⟩, pwr, claims, granted, order, cells, shelf, slots, power, engines, ports, settings⟩ := h
  have slot : ∀ j, ((u.ended l b).slot j).Like (u.slot j) := fun j => by
    rw [(ended_reads ..).1]
    exact Slot.written_like _ _
  refine ⟨⟨a, rd, (slot i).trans like⟩, ?_, ?_, ?_, fun e he => (order e he).of_kept (ended_cellsKept ..), fun d hd =>
    (cells d hd).trans ((ended_cellsKept ..).stands d), ?_, fun j hj => (slot j).trans (slots j hj), fun j hj => ?_,
    fun j hj => ?_, ?_, ?_⟩
  · simpa using pwr
  · simpa using claims
  · simpa using granted
  · simpa using shelf
  · simpa using power j hj
  · simpa using engines j hj
  · simpa using ports
  · simpa using settings

/-- An event that opens a switch in order takes its report, and leaves what R18 says. -/
theorem State.OpensInOrder.parks (h : w.OpensInOrder i) {act : State → State} {g : Engine → Engine} (hl : s.Live)
    (hact : act s = ((powerOff i w).raise [.switchOpened i]).modEngine i g) :
    ∃ t, liveEvent act s = t ∧ w.Parks i t := by
  have jobs : (((powerOff i w).raise [.switchOpened i]).modEngine i g).jobs = [] ++ Job.switchOpened i :: [] := by
    refine (jobs_congr (s := (powerOff i w).raise [.switchOpened i]) rfl).trans ((raise_jobs ..).trans ?_)
    rw [jobs_nil ((powerOff_leaves h.timing).2.2.2.trans h.work)]
  obtain ⟨b, l, l', b', he⟩ := liveEvent_acts hl hact jobs (fun _ hx => absurd hx List.not_mem_nil)
    (brought := (if w.alloc.claims[i] = 0 then [] else [.examine]) ++ [.start i, .handle i])
    (by split <;> simp [Config.workBound]) fun b l => by
      obtain ⟨jobs, late, queue, parks⟩ := h.reports (h.opened g b l)
      exact ⟨jobs, late, by rw [List.append_nil]; exact parks.idle queue h.latch⟩
  exact ⟨_, he, (h.reports (h.opened g b l)).2.2.2.ended l' b'⟩

/-! ### The request of POWERING-OFF -/

/-- What an orderly power-off request leaves: at once while MIN-ON has passed, else at its deadline (R18, R92). -/
structure State.PowersOff (w : State) (i : SlotId) (t : State) : Prop where
  deferred : w.minOnPassed i = false → (t.slot i).Like (w.slot i)
    ∧ t.pwr i = { w.pwr i with deferral := some (after (w.pwr i).goodTime w.settings.minOn) }
    ∧ t.alloc = w.alloc ∧ CellsKept w t
  parks : w.minOnPassed i = true → w.Parks i t
  slots : OtherSlots i w t
  power : OtherPower i w t
  engines : OtherEngines i w t
  ports : t.ports = w.ports
  settings : t.settings = w.settings

/-- An event that defers a power-off ends so. -/
theorem deferred_powersOff (hl : s.Live) {act : State → State} (hact : act s = u) (hmin : w.minOnPassed i = false)
    (hslots : ∀ j, u.slot j = w.slot j)
    (hpwr : u.pwr i = { w.pwr i with deferral := some (after (w.pwr i).goodTime w.settings.minOn) })
    (hpower : OtherPower i w u) (halloc : u.alloc = w.alloc) (hengines : OtherEngines i w u) (hports : u.ports = w.ports)
    (hsettings : u.settings = w.settings) (hcells : CellsKept w u) (hwork : u.work = []) (hlate : u.late = []) :
    ∃ t, liveEvent act s = t ∧ w.PowersOff i t := by
  have hend := State.AtEnd.of_jobs (n := 4096) (jobs_nil hwork) hlate (by simp) fun _ hx => absurd hx List.not_mem_nil
  obtain ⟨l, b, -, he⟩ := hend.liveEvent hl hact
  have slot : ∀ j, ((u.ended l b).slot j).Like (w.slot j) := fun j => by
    rw [(ended_reads ..).1, hslots j]
    exact Slot.written_like _ _
  refine ⟨_, he, fun _ => ⟨slot i, ?_, ?_, hcells.trans (ended_cellsKept ..)⟩, fun h => ?_, fun j _ => slot j,
    fun j hj => ?_, fun j hj => ?_, ?_, ?_⟩
  · rw [(ended_reads ..).2.1, hpwr]
  · simp [halloc]
  · exact Bool.noConfusion (hmin.symm.trans h)
  · rw [(ended_reads ..).2.1, hpower j hj]
  · rw [(ended_reads ..).2.2.1, hengines j hj]
  · simp [hports]
  · simp [hsettings]

/-- An event that ends in the power-off request of a slot. -/
theorem powerOffRequest_powersOff (hl : s.Live) {act : State → State} {g : Engine → Engine}
    (hact : act s = (powerOffRequest i w).modEngine i g) (hwork : w.work = []) (hlate : w.late = [])
    (hopen : w.minOnPassed i = true → w.OpensInOrder i) : ∃ t, liveEvent act s = t ∧ w.PowersOff i t := by
  unfold powerOffRequest at hact
  cases hmin : w.minOnPassed i
  · rw [hmin, if_neg (by decide)] at hact
    exact deferred_powersOff hl hact hmin (fun _ => rfl) (by simp) (fun j hj => by simp [hj]) rfl
      (fun j hj => by simp [hj]) rfl rfl ⟨rfl, rfl⟩ hwork hlate
  · rw [hmin, if_pos rfl] at hact
    obtain ⟨t, he, parks⟩ := (hopen hmin).parks hl hact
    refine ⟨t, he, fun h => ?_, fun _ => parks, parks.slots, parks.power, parks.engines, parks.ports, parks.settings⟩
    rw [hmin] at h
    exact Bool.noConfusion h

/-! ### Work on one slot -/

/-- Only slot `i`, its engine and the journal differ. -/
structure State.OnSlot (s : State) (i : SlotId) (w : State) : Prop where
  slots : ∀ j, j ≠ i → w.slot j = s.slot j
  engines : OtherEngines i s w
  time : w.time = s.time
  alloc : w.alloc = s.alloc
  power : w.power = s.power
  ports : w.ports = s.ports
  settings : w.settings = s.settings
  straps : w.straps = s.straps
  cells : CellsKept s w
  work : w.work = s.work
  late : w.late = s.late

namespace State.OnSlot

theorem refl (s : State) (i : SlotId) : s.OnSlot i s :=
  ⟨fun _ _ => rfl, fun _ _ => rfl, rfl, rfl, rfl, rfl, rfl, rfl, ⟨rfl, rfl⟩, rfl, rfl⟩

theorem trans (h : s.OnSlot i t) (h' : t.OnSlot i u) : s.OnSlot i u where
  slots j hj := (h'.slots j hj).trans (h.slots j hj)
  engines j hj := (h'.engines j hj).trans (h.engines j hj)
  time := h'.time.trans h.time
  alloc := h'.alloc.trans h.alloc
  power := h'.power.trans h.power
  ports := h'.ports.trans h.ports
  settings := h'.settings.trans h.settings
  straps := h'.straps.trans h.straps
  cells := h.cells.trans h'.cells
  work := h'.work.trans h.work
  late := h'.late.trans h.late

theorem modSlot (s : State) (i : SlotId) (g : Slot → Slot) : s.OnSlot i (s.modSlot i g) :=
  ⟨fun _ hj => modSlot_slot_ne _ _ _ _ hj, fun _ _ => rfl, rfl, rfl, rfl, rfl, rfl, rfl, ⟨rfl, rfl⟩, rfl, rfl⟩

theorem modEngine (s : State) (i : SlotId) (g : Engine → Engine) : s.OnSlot i (s.modEngine i g) :=
  ⟨fun _ _ => rfl, fun _ hj => modEngine_engine_ne _ _ _ _ hj, rfl, rfl, rfl, rfl, rfl, rfl, ⟨rfl, rfl⟩, rfl, rfl⟩

theorem changeStateOwn (s : State) (i : SlotId) (n : SlotState) (d : StateDetail) :
    s.OnSlot i (changeStateOwn i n d s) := by
  refine ⟨fun j hj => changeStateOwn_slot_ne _ _ _ _ hj, fun j hj => changeStateOwn_engine_ne _ _ _ _ hj, ?_, ?_, ?_, ?_,
    ?_, ?_, ⟨?_, ?_⟩, ?_, ?_⟩
  all_goals simp

theorem handNotice (s : State) (i : SlotId) (n : Notice) : s.OnSlot i (handNotice n s) := by
  refine ⟨fun j _ => ?_, fun j _ => ?_, ?_, ?_, ?_, ?_, ?_, ?_, ⟨?_, ?_⟩, ?_, ?_⟩
  all_goals simp

theorem endOwn (s : State) (i : SlotId) : s.OnSlot i (endOwn i s) := .modEngine s i _

theorem placeOwn (s : State) (i : SlotId) (m : Msg) : s.OnSlot i (placeOwn i m s) := by
  unfold Machine.placeOwn
  split
  · exact .modEngine s i _
  · exact .refl s i

theorem askProbe (s : State) (i : SlotId) (b : Placer) : s.OnSlot i (askProbe i b s) := by
  unfold Machine.askProbe
  split
  · exact .modEngine s i _
  · exact .refl s i

theorem proceeds (s : State) (i : SlotId) (m : Msg) : s.OnSlot i (s.proceeds i m) := by
  obtain ⟨g, hg⟩ := proceeds_eq s i m
  exact hg ▸ .modEngine s i g

end State.OnSlot

/-- A slot in POWERING-OFF is ready for its orderly power-off when it was before the work on it. -/
theorem State.OnSlot.opens (h : s.OnSlot i w) (hinv : Inv s) (hl : s.Live) (hq : s.Quiet)
    (hstate : (w.slot i).state = .poweringOff) (htiming : s.alloc.timingAtFront = false)
    (hlatch : (w.slot i).latch = false) (hon : (s.pwr i).switchOn = true)
    (horders : (w.slot i).orders = [] ∨ (w.slot i).active = true ∧ (w.slot i).orders.length = 1) :
    w.OpensInOrder i where
  state := hstate
  latch := hlatch
  on := by rw [pwr_congr h.power]; exact hon
  orders := horders
  timing := by rw [h.alloc]; exact htiming
  queue := by rw [h.alloc]; exact hq.queue
  lawful := by rw [h.alloc]; exact ⟨hinv.alloc.granted, hinv.alloc.capacity, hinv.alloc.shelf⟩
  mem := h.cells.2 ▸ hinv.mem
  work := h.work.trans hl.work
  late := h.late.trans hl.late

theorem State.OnSlot.minOn (h : s.OnSlot i w) (j : SlotId) : w.minOnPassed j = s.minOnPassed j := by
  simp only [State.minOnPassed, h.time, pwr_congr h.power, h.settings]

/-! ### The retirement -/

/-- The end of a quiesce that makes no stamp asks for the power-off (R16). -/
theorem quiesceEnd_off (h : (s.slot i).retire.any (·.stamp) = false) (d : StateDetail) :
    quiesceEnd i d s = powerOffRequest i (changeStateOwn i .poweringOff d (endOwn i s)) := by
  rw [quiesceEnd, h]
  rfl

/-- The slot of a retirement that asks for its power-off. -/
theorem endOwn_poweringOff (s : State) (i : SlotId) (d : StateDetail) :
    (changeStateOwn i .poweringOff d (endOwn i s)).slot i = (s.slot i).enter s.time .poweringOff := by
  simp

theorem endOwn_onSlot (s : State) (i : SlotId) (d : StateDetail) :
    s.OnSlot i (changeStateOwn i .poweringOff d (endOwn i s)) :=
  (State.OnSlot.endOwn s i).trans (.changeStateOwn _ i _ _)

/-- An event in which the work on a slot ends with its power-off request. -/
theorem State.OnSlot.powersOff (h : s.OnSlot i w) (hinv : Inv s) (hl : s.Live) {act : State → State}
    {g : Engine → Engine} {x : Slot} (hact : act s = (powerOffRequest i w).modEngine i g)
    (hslot : w.slot i = x.enter s.time .poweringOff)
    (hopen : s.minOnPassed i = true → s.Quiet ∧ s.alloc.timingAtFront = false ∧ x.latch = false
      ∧ (s.pwr i).switchOn = true ∧ (x.orders = [] ∨ x.active = true ∧ x.orders.length = 1)) :
    ∃ t, liveEvent act s = t ∧ w.PowersOff i t := by
  refine powerOffRequest_powersOff hl hact (h.work.trans hl.work) (h.late.trans hl.late) fun hmin => ?_
  obtain ⟨hq, htiming, hlatch, hon, horders⟩ := hopen (h.minOn i ▸ hmin)
  refine h.opens hinv hl hq ?_ htiming ?_ hon ?_
  · rw [hslot]
    rfl
  · rw [hslot]
    simp [Slot.enter, hlatch]
  · rw [hslot]
    exact horders

/-- Settles O40. -/
theorem retirementPowersOff : Obligations.RetirementPowersOff := by
  intro s i c o f r hinv hl hq htiming hlatch hon horders hc
  have ends : ∃ w t, exec c s = .next t ∧ s.OnSlot i w ∧ (w.slot i).state = .poweringOff
      ∧ (w.slot i).retire = (s.slot i).retire ∧ (w.slot i).orders = (s.slot i).orders
      ∧ (c = .frameArrival i f → (w.slot i).lastAgent = some .drained ∧ (w.slot i).lastCause = 0)
      ∧ (c ≠ .deferralExpiry i → (w.slot i).prev = .quiescing ∧ w.PowersOff i t)
      ∧ (c = .deferralExpiry i → w.Parks i t) := by
    rcases hc with ⟨rfl, hstate, hdue, hstamp⟩ | ⟨rfl, hstate, hstamp, ho, hmsg, hlive, hrec, hf, hst⟩
      | ⟨rfl, hstate, hdue⟩
    · have wslot := endOwn_poweringOff s i .quiesceLimit
      have on := endOwn_onSlot s i .quiesceLimit
      have act : quiesceExpired i s = powerOffRequest i (changeStateOwn i .poweringOff .quiesceLimit (endOwn i s)) :=
        (if_pos ⟨hstate, hdue⟩).trans (quiesceEnd_off hstamp _)
      generalize changeStateOwn i .poweringOff .quiesceLimit (endOwn i s) = w at *
      obtain ⟨t, he, off⟩ := on.powersOff hinv hl (act := quiesceExpired i) (g := id)
        (act.trans (modEngine_same rfl).symm) wslot fun _ => ⟨hq, htiming, hlatch, hon, horders⟩
      refine ⟨w, t, congrArg Host.Outcome.next he, on, ?_, ?_, ?_, nofun, fun _ => ⟨?_, off⟩, nofun⟩
      · rw [wslot]
        rfl
      · rw [wslot]
        rfl
      · rw [wslot]
        rfl
      · rw [wslot]
        exact hstate
    · have taken := frameTaken_probe ho hmsg hlive hf hst
      have rslot : (s.modSlot i (Slot.recordAgent .drained (byteAt r.payload 1))).slot i =
          (s.slot i).recordAgent .drained (byteAt r.payload 1) := modSlot_slot_self ..
      have answer : probeAnswer i .drained (byteAt r.payload 1) s =
          quiesceEnd i .drained (s.modSlot i (Slot.recordAgent .drained (byteAt r.payload 1))) := by
        have state : ((s.modSlot i (Slot.recordAgent .drained (byteAt r.payload 1))).slot i).state = .quiescing := by
          rw [rslot]
          exact hstate
        rw [probeAnswer, if_neg (by rw [hstate]; decide), if_neg fun h => absurd h.1 (by decide)]
        simp only [stateAnswer, state, if_true]
      rw [hrec, if_neg (by decide), answer, quiesceEnd_off (by rw [rslot]; exact hstamp)] at taken
      have wslot := endOwn_poweringOff (s.modSlot i (Slot.recordAgent .drained (byteAt r.payload 1))) i .drained
      have on := (State.OnSlot.modSlot s i (Slot.recordAgent .drained (byteAt r.payload 1))).trans
        (endOwn_onSlot _ i .drained)
      rw [rslot] at wslot
      generalize changeStateOwn i .poweringOff .drained
        (endOwn i (s.modSlot i (Slot.recordAgent .drained (byteAt r.payload 1)))) = w at *
      obtain ⟨g, hg⟩ := proceeds_eq (powerOffRequest i w) i .probe
      obtain ⟨t, he, off⟩ := on.powersOff hinv hl (act := frameTaken i f) (taken.trans hg) wslot
        fun _ => ⟨hq, htiming, hlatch, hon, horders⟩
      refine ⟨w, t, congrArg Host.Outcome.next he, on, ?_, ?_, ?_, fun _ => ?_, fun _ => ⟨?_, off⟩, nofun⟩
      · rw [wslot]
        rfl
      · rw [wslot]
        rfl
      · rw [wslot]
        rfl
      · rw [wslot]
        exact ⟨rfl, rfl⟩
      · rw [wslot]
        exact hstate
    · have on := State.OnSlot.refl s i
      obtain ⟨t, he, parks⟩ := (on.opens hinv hl hq hstate htiming hlatch hon horders).parks hl
        (act := deferralExpired i) (g := id) ((if_pos hdue).trans (modEngine_same rfl).symm)
      exact ⟨s, t, congrArg Host.Outcome.next he, on, hstate, rfl, rfl, nofun, fun h => absurd rfl h, fun _ => parks⟩
  obtain ⟨w, t, he, on, wstate, wretire, worders, wagent, hoff, hparks⟩ := ends
  have common : OtherSlots i w t ∧ OtherPower i w t ∧ t.ports = w.ports ∧ t.settings = w.settings := by
    by_cases hc : c = .deferralExpiry i
    · exact ⟨(hparks hc).slots, (hparks hc).power, (hparks hc).ports, (hparks hc).settings⟩
    · obtain ⟨-, off⟩ := hoff hc
      exact ⟨off.slots, off.power, off.ports, off.settings⟩
  obtain ⟨slots, power, ports, settings⟩ := common
  have pwr : ∀ j, w.pwr j = s.pwr j := pwr_congr on.power
  have parked : (c ≠ .deferralExpiry i → s.minOnPassed i = true) → w.Parks i t := fun h => by
    by_cases hc : c = .deferralExpiry i
    · exact hparks hc
    · exact (hoff hc).2.parks ((on.minOn i).trans (h hc))
  have agent : (t.slot i).lastAgent = (w.slot i).lastAgent ∧ (t.slot i).lastCause = (w.slot i).lastCause := by
    by_cases hp : c ≠ .deferralExpiry i → s.minOnPassed i = true
    · obtain ⟨b, rd, like⟩ := (parked hp).slot
      exact ⟨like.field Slot.lastAgent fun _ _ => rfl, like.field Slot.lastCause fun _ _ => rfl⟩
    · simp only [Classical.not_imp, Bool.not_eq_true] at hp
      obtain ⟨like, -⟩ := (hoff hp.1).2.deferred ((on.minOn i).trans hp.2)
      exact ⟨like.field Slot.lastAgent fun _ _ => rfl, like.field Slot.lastCause fun _ _ => rfl⟩
  refine ⟨t, he, fun hc => ?_, fun hc hmin => ?_, fun h => ?_, fun j hj => ?_, fun j hj => ?_, ports.trans on.ports,
    settings.trans on.settings⟩
  · rw [agent.1, agent.2]
    exact wagent hc
  · obtain ⟨prev, off⟩ := hoff hc
    obtain ⟨like, tpwr, talloc, tcells⟩ := off.deferred ((on.minOn i).trans hmin)
    rw [pwr, on.settings] at tpwr
    exact ⟨(like.field Slot.state fun _ _ => rfl).trans wstate, (like.field Slot.prev fun _ _ => rfl).trans prev,
      (like.field Slot.retire fun _ _ => rfl).trans wretire, (like.field Slot.orders fun _ _ => rfl).trans worders, tpwr,
      talloc.trans on.alloc, on.cells.trans tcells⟩
  · obtain ⟨⟨b, rd, like⟩, tpwr, claims, granted, order, -⟩ := parked h
    rw [pwr, on.time] at tpwr
    rw [on.alloc] at granted
    rw [worders] at order
    exact ⟨like.field Slot.state fun _ _ => rfl, (like.field Slot.prev fun _ _ => rfl).trans wstate, like.field Slot.claim fun _ _ => rfl,
      like.field Slot.retire fun _ _ => rfl, like.field Slot.orders fun _ _ => rfl, tpwr, claims, granted,
      fun e he => ⟨(order e he).cell, (order e he).code, (order e he).state, (order e he).fault⟩⟩
  · exact (slots j hj).trans (congrArg (fun x : Slot => { x with upd := 0 }) (on.slots j hj))
  · exact (power j hj).trans (pwr j)

end Sys2Proof.Machine

/-! The stamp: its steps, its deadlines and its ends (R17, R156 to R160). -/

namespace Sys2Proof.Machine

variable {s t u v w : State} {i j : SlotId} {p q : PortId} {c d : CellId}

/-! ### Work on one slot -/

/-- An event whose act works on one slot alone leaves what the act leaves. -/
theorem State.OnSlot.ends (h : s.OnSlot i u) (hl : s.Live) {act : State → State} (hact : act s = u) :
    ∃ t, liveEvent act s = t ∧ (t.slot i).Like (u.slot i) ∧ t.engine i = u.engine i ∧ t.journal = u.journal
    ∧ OtherSlots i s t ∧ CellsKept s t ∧ t.alloc = s.alloc ∧ t.power = s.power ∧ t.ports = s.ports
    ∧ OtherEngines i s t := by
  have hend := State.AtEnd.of_jobs (v := u) (n := 4096) (jobs_nil (h.work.trans hl.work)) (h.late.trans hl.late)
    (by simp) fun _ hx => absurd hx List.not_mem_nil
  obtain ⟨l, b, -, he⟩ := hend.liveEvent hl hact
  have slot : ∀ j, ((u.ended l b).slot j).Like (u.slot j) := fun j => by
    rw [(ended_reads ..).1]
    exact Slot.written_like _ _
  refine ⟨_, he, slot i, ?_, ?_, fun j hj => ?_, h.cells.trans (ended_cellsKept ..), ?_, ?_, ?_, fun j hj => ?_⟩
  · rw [(ended_reads ..).2.2.1]
  · simp
  · rw [← h.slots j hj]
    exact slot j
  · simp [h.alloc]
  · simp [h.power]
  · simp [h.ports]
  · rw [(ended_reads ..).2.2.1, h.engines j hj]

theorem State.OnSlot.freed (h : s.OnSlot i u) : s.OnSlot i (u.freed i) := h.trans (.modEngine u i _)

/-! ### Probes -/

theorem Engine.Carries.probing {e : Engine} (h : e.Carries .probe) : e.probing = true := by
  obtain ⟨q, hq, hm⟩ | ⟨o, ho, hm, -⟩ := h
  · exact Bool.or_eq_true_iff.mpr (.inl (List.any_eq_true.mpr ⟨q, hq, by simp [hm]⟩))
  · simp [Engine.probing, ho, hm]

/-- A PROBE asked for on a link that is UP is queued or outstanding (R137). -/
theorem probed_probing {e : Engine} (hup : e.link = .up) (now : Time) (b : Placer) :
    (e.probed now b).probing = true := by
  unfold Engine.probed
  split
  · refine (Engine.Carries.serve now (.inl ?_)).probing
    exact ⟨_, List.mem_append_right _ List.mem_cons_self, rfl⟩
  · next h => simpa [hup] using h

/-- A PROBE asked for while another request is outstanding waits in the queue (R132, R137). -/
theorem probed_waits {e : Engine} {o : Outstanding} (hup : e.link = .up) (ho : e.out = some o) (hmsg : o.msg ≠ .probe)
    (now : Time) (b : Placer) : ∃ q ∈ (e.probed now b).queue, q.msg = .probe := by
  have probing := probed_probing hup now b
  have out : (e.probed now b).out = some o := by
    unfold Engine.probed
    split
    · rw [serve_nothing (.inr (.inl (by simp [ho])))]
      exact ho
    · exact ho
  simpa [Engine.probing, Engine.queued, out, hmsg] using probing

/-- An own request placed while another is outstanding waits in the queue (R132). -/
theorem owned_waits {e : Engine} (hup : e.link = .up) (hbusy : e.out ≠ none) (now : Time) (m : Msg) :
    e.owned now m = { e with queue := e.queue ++ [⟨m, .sequencer, none⟩] } := by
  rw [Engine.owned, if_pos hup, Engine.join, if_pos hup]
  exact serve_nothing (.inr (.inl hbusy))

/-! ### The beginning of a stamp -/

/-- A stamp under way belongs to a slot in STAMPING (R156). -/
theorem Inv.stamping (h : Inv s) {m : Stamp} (hm : (s.slot i).stamp = some m) : (s.slot i).state = .stamping :=
  (h.slots i).stamp (by rw [hm]; rfl)

/-- The service row that a stamp of a slot writes (R153). -/
def State.stampRow (s : State) (i : SlotId) (reason : Byte) : List Byte :=
  serviceRow (s.slot i).nextSeq s.straps.shelfNumber i reason (s.slot i).minutes (s.slot i).admissions

/-- A stamp begins on a link that is UP (R156). -/
theorem stampBegin_up {r : Retirement} (hr : (s.slot i).retire = some r) (hup : s.linkUp i = true) :
    stampBegin i s = placeOwn i (.rowLoad (s.slot i).nextRow (s.stampRow i r.reason))
      (s.modSlot i fun x => { x with stamp := some ⟨.load, x.nextRow, s.stampRow i r.reason, none, none⟩ }) := by
  simp only [stampBegin, hr, hup, if_true, State.stampRow]

/-- The move to STAMPING at the end of a quiesce (R16). -/
theorem stamping_onSlot (s : State) (i : SlotId) (d : StateDetail) :
    s.OnSlot i (changeStateOwn i .stamping d (endOwn i s)) :=
  (State.OnSlot.endOwn s i).trans (.changeStateOwn _ i _ _)

theorem stamping_slot (s : State) (i : SlotId) (d : StateDetail) :
    (changeStateOwn i .stamping d (endOwn i s)).slot i = (s.slot i).enter s.time .stamping := by
  simp

/-- The first part of O41, a stamp that begins. -/
theorem stamp_begins {r : Retirement} (hl : s.Live) (hstate : (s.slot i).state = .quiescing)
    (hdue : due s.time (s.slot i).quiesce = true) (hr : (s.slot i).retire = some r) (hstamp : r.stamp = true)
    (hup : s.linkUp i = true) :
    ∃ t, exec (.quiesceDeadlineExpiry i) s = .next t
    ∧ (t.slot i).state = .stamping ∧ (t.slot i).prev = .quiescing
    ∧ (t.slot i).stamp = some ⟨.load, (s.slot i).nextRow, s.stampRow i r.reason, none, none⟩
    ∧ (t.engine i).Carries (.rowLoad (s.slot i).nextRow (s.stampRow i r.reason))
    ∧ OtherSlots i s t ∧ CellsKept s t ∧ t.alloc = s.alloc ∧ t.power = s.power
    ∧ t.ports = s.ports ∧ OtherEngines i s t := by
  have act : quiesceExpired i s = stampBegin i (changeStateOwn i .stamping .quiesceLimit (endOwn i s)) := by
    rw [quiesceExpired, if_pos ⟨hstate, hdue⟩, quiesceEnd, hr]
    exact if_pos hstamp
  have wslot := stamping_slot s i .quiesceLimit
  have on := stamping_onSlot s i .quiesceLimit
  have wup : (changeStateOwn i .stamping .quiesceLimit (endOwn i s)).linkUp i = true := by
    rw [changeStateOwn_linkUp, endOwn, endMessages, modEngine_linkUp rfl]
    exact hup
  generalize changeStateOwn i .stamping .quiesceLimit (endOwn i s) = w at *
  have row : w.stampRow i r.reason = s.stampRow i r.reason := by
    rw [State.stampRow, on.straps, wslot]
    rfl
  rw [stampBegin_up (by rw [wslot]; exact hr) wup, row] at act
  have next : (w.slot i).nextRow = (s.slot i).nextRow := by
    rw [wslot]
    rfl
  rw [next] at act
  have carried := carries_placeOwn (s := w.modSlot i fun x => { x with
    stamp := some ⟨.load, x.nextRow, s.stampRow i r.reason, none, none⟩ }) (i := i) wup
    (.rowLoad (s.slot i).nextRow (s.stampRow i r.reason))
  have on' := on.trans ((State.OnSlot.modSlot w i fun x => { x with
    stamp := some ⟨.load, x.nextRow, s.stampRow i r.reason, none, none⟩ }).trans
      (.placeOwn _ i (.rowLoad (s.slot i).nextRow (s.stampRow i r.reason))))
  have uslot := (placeOwn_reads i (.rowLoad (s.slot i).nextRow (s.stampRow i r.reason)) (s := w.modSlot i fun x =>
    { x with stamp := some ⟨.load, x.nextRow, s.stampRow i r.reason, none, none⟩ })).1 i
  rw [modSlot_slot_self, wslot] at uslot
  generalize placeOwn i (.rowLoad (s.slot i).nextRow (s.stampRow i r.reason)) (w.modSlot i fun x =>
    { x with stamp := some ⟨.load, x.nextRow, s.stampRow i r.reason, none, none⟩ }) = u at *
  obtain ⟨t, he, like, engine, -, rest⟩ := on'.ends hl act
  refine ⟨t, congrArg Host.Outcome.next he, ?_, ?_, ?_, engine ▸ carried, rest⟩
  · rw [like.field Slot.state fun _ _ => rfl, uslot]
    rfl
  · rw [like.field Slot.prev fun _ _ => rfl, uslot]
    exact hstate
  · rw [like.field Slot.stamp fun _ _ => rfl, uslot]
    rfl

/-- The first part of O41, a probe pause that passes. -/
theorem stamp_pauses {m : Stamp} (hl : s.Live) (hm : (s.slot i).stamp = some m) (hdue : due s.time m.pause = true) :
    ∃ t, exec (.probePauseExpiry i) s = .next t
    ∧ (t.slot i).Like { s.slot i with stamp := some { m with pause := none } }
    ∧ (s.linkUp i = true → (t.engine i).probing = true)
    ∧ (s.linkUp i = true → (s.engine i).probing = false → t.engine i = ({ s.engine i with
      queue := (s.engine i).queue ++ [⟨.probe, .sequencer, none⟩] } : Engine).serve s.time)
    ∧ (s.linkUp i = false ∨ (s.engine i).probing = true → t.engine i = s.engine i)
    ∧ OtherSlots i s t ∧ CellsKept s t ∧ t.alloc = s.alloc ∧ t.power = s.power
    ∧ t.ports = s.ports ∧ OtherEngines i s t ∧ t.journal = s.journal := by
  have act : pauseExpired i s = askProbe i .sequencer
      (s.modSlot i fun x => { x with stamp := some { m with pause := none } }) := by
    simp only [pauseExpired, hm, hdue, if_true]
  have on := (State.OnSlot.modSlot s i fun x => { x with stamp := some { m with pause := none } }).trans
    (.askProbe _ i .sequencer)
  obtain ⟨t, he, like, engine, journal, slots, cells, alloc, power, ports, engines⟩ := on.ends hl act
  rw [(askProbe_reads ..).1, modSlot_slot_self] at like
  have probed : t.engine i = (s.engine i).probed s.time .sequencer := by
    rw [engine, askProbe_eq, modEngine_engine_self]
    rfl
  refine ⟨t, congrArg Host.Outcome.next he, like, fun hup => ?_, fun hup hnone => ?_, fun h => ?_, slots, cells, alloc, power,
    ports, engines, ?_⟩
  · rw [probed]
    exact probed_probing (of_decide_eq_true hup) ..
  · rw [probed, Engine.probed, if_pos ⟨of_decide_eq_true hup, hnone⟩]
  · rw [probed, Engine.probed, if_neg]
    rintro ⟨hup, hnone⟩
    rcases h with h | h
    · exact Bool.noConfusion (h.symm.trans (decide_eq_true hup))
    · exact Bool.noConfusion (h.symm.trans hnone)
  · rw [journal]
    simp

/-! ### The steps of a stamp -/

/-- The answer to an own request goes to the stamp under way (R157, R160). -/
theorem deliver_stamp {m : Stamp} {o : Outstanding} {r : Reply} (hm : (s.slot i).stamp = some m)
    (hown : o.msg.isOwn = true) : deliver i o r s = stampAnswer i m r s := by
  unfold deliver
  split
  case h_2 | h_3 | h_4 | h_5 => simp only [ownAnswer, hm]
  all_goals
    next h =>
      rw [h] at hown
      exact Bool.noConfusion hown

theorem own_asks {m : Msg} (h : m.isOwn = true) : m.isNotification = false ∧ m ≠ .probe := by
  cases m <;> simp_all [Msg.isOwn, Msg.isNotification]

section
variable {m : Stamp} {o : Outstanding} {f : List Byte} {r : Reply} (hl : s.Live) (hm : (s.slot i).stamp = some m)
  (hup : s.linkUp i = true) (ho : (s.engine i).out = some o) (hlive : o.live = true)
  (hf : judgeReply o.msg o.seq f = some r)

/-- The frame that answers a stamp's own request. -/
theorem frameTaken_stamp (hm : (s.slot i).stamp = some m) (ho : (s.engine i).out = some o) (hlive : o.live = true)
    (hf : judgeReply o.msg o.seq f = some r) (hown : o.msg.isOwn = true) :
    frameTaken i f s = (stampAnswer i m r s).freed i := by
  obtain ⟨hask, hprobe⟩ := own_asks hown
  rw [frameTaken_live ho hf hlive hask hprobe, deliver_stamp hm hown]

include hl hm ho hlive hf in
/-- An answer to a stamp's own request that changes the stamp, and the engine of its slot. -/
theorem stamp_answered {x : Option Stamp} {g : Engine → Engine} (hown : o.msg.isOwn = true)
    (hact : stampAnswer i m r s = (s.modSlot i fun y => { y with stamp := x }).modEngine i g) :
    ∃ t, exec (.frameArrival i f) s = .next t ∧ (t.slot i).Like { s.slot i with stamp := x }
    ∧ t.engine i = (({ g (s.engine i) with out := none } : Engine).serve s.time)
    ∧ OtherSlots i s t ∧ CellsKept s t ∧ t.alloc = s.alloc ∧ t.power = s.power
    ∧ t.ports = s.ports ∧ OtherEngines i s t ∧ t.journal = s.journal := by
  have taken := frameTaken_stamp hm ho hlive hf hown
  rw [hact] at taken
  have on := ((State.OnSlot.modSlot s i fun y => { y with stamp := x }).trans (.modEngine _ i g)).freed
  obtain ⟨t, he, like, engine, journal, slots, cells, alloc, power, ports, engines⟩ := on.ends hl taken
  refine ⟨t, congrArg Host.Outcome.next he, ?_, ?_, slots, cells, alloc, power, ports, engines, journal⟩
  · refine like.trans (congrArg (fun y : Slot => { y with upd := 0 }) ?_)
    show (s.modSlot i fun y => { y with stamp := x }).slot i = _
    exact modSlot_slot_self ..
  · rw [engine, State.freed, modEngine_engine_self, modEngine_engine_self]
    rfl

include hl hm hup ho hlive hf in
/-- The second part of O41, OK to ROW-LOAD. -/
theorem stamp_loaded (hstep : m.step = .load) (hmsg : o.msg = .rowLoad m.row m.bytes) (hok : r.answer = .ok) :
    ∃ t, exec (.frameArrival i f) s = .next t
    ∧ (t.slot i).Like { s.slot i with stamp := some { m with step := .commit, limit := none } }
    ∧ (t.engine i).Carries (.rowCommit m.row)
    ∧ OtherSlots i s t ∧ CellsKept s t ∧ t.alloc = s.alloc ∧ t.power = s.power
    ∧ t.ports = s.ports ∧ OtherEngines i s t ∧ t.journal = s.journal := by
  obtain ⟨t, he, like, engine, rest⟩ := stamp_answered hl hm ho hlive hf (by rw [hmsg]; rfl)
    (g := Engine.owned s.time (.rowCommit m.row)) (x := some { m with step := .commit, limit := none }) (by
      simp only [stampAnswer, hok, hstep]
      exact placeOwn_eq ..)
  refine ⟨t, he, like, ?_, rest⟩
  rw [engine, owned_waits (of_decide_eq_true hup) (by simp [ho])]
  refine Engine.Carries.serve _ (.inl ?_)
  exact ⟨_, List.mem_append_right _ List.mem_cons_self, rfl⟩

include hl hm hup ho hlive hf in
/-- The second part of O41, OK to ROW-COMMIT. -/
theorem stamp_committed (hstep : m.step = .commit) (hmsg : o.msg = .rowCommit m.row) (hok : r.answer = .ok) :
    ∃ t, exec (.frameArrival i f) s = .next t
    ∧ (t.slot i).Like { s.slot i with
      stamp := some { m with step := .programming, limit := some (after s.time 30) } }
    ∧ (t.engine i).probing = true
    ∧ OtherSlots i s t ∧ CellsKept s t ∧ t.alloc = s.alloc ∧ t.power = s.power
    ∧ t.ports = s.ports ∧ OtherEngines i s t ∧ t.journal = s.journal := by
  obtain ⟨t, he, like, engine, rest⟩ := stamp_answered hl hm ho hlive hf (by rw [hmsg]; rfl)
    (g := Engine.probed s.time .sequencer)
    (x := some { m with step := .programming, limit := some (after s.time Config.programLimit) }) (by
      simp only [stampAnswer, hok, hstep]
      exact askProbe_eq ..)
  refine ⟨t, he, like, ?_, rest⟩
  rw [engine]
  refine (Engine.Carries.serve _ (.inl ?_)).probing
  exact probed_waits (of_decide_eq_true hup) ho (by rw [hmsg]; exact nofun) ..

include hl hm hup ho hlive hf in
/-- The second part of O41, BUSY. -/
theorem stamp_busy (hown : o.msg.isOwn = true) (hbusy : r.answer = .busy) :
    ∃ t, exec (.frameArrival i f) s = .next t
    ∧ (t.slot i).Like { s.slot i with stamp := some { m with limit := some (m.limit.getD (after s.time 30)) } }
    ∧ t.engine i = ({ s.engine i with
      queue := (s.engine i).queue ++ [⟨o.msg, o.placer, some (after s.time 5)⟩], out := none } : Engine).serve s.time
    ∧ OtherSlots i s t ∧ CellsKept s t ∧ t.alloc = s.alloc ∧ t.power = s.power
    ∧ t.ports = s.ports ∧ OtherEngines i s t ∧ t.journal = s.journal := by
  obtain ⟨t, he, like, engine, rest⟩ := stamp_answered hl hm ho hlive hf hown
    (g := Engine.putBack (after s.time Config.busyReask)) (x := some (m.startLimit s.time)) (by
      simp only [stampAnswer, hbusy]
      rfl)
  refine ⟨t, he, like, ?_, rest⟩
  have up : (s.engine i).link = .up := of_decide_eq_true hup
  simp only [engine, Engine.putBack, ho, Engine.join, up, if_true]
  rfl

/-- A message that waits in the queue is carried when a PROBE has ended and the engine goes on (R132, R138). -/
theorem carries_proceeds {x : Msg} (h : ∃ q ∈ (w.engine i).queue, q.msg = x) :
    ((w.proceeds i .probe).engine i).Carries x := by
  have ended : ((endRequest i w).engine i).Carries x := by
    rw [endRequest, modEngine_engine_self]
    exact .inl h
  rw [State.proceeds, afterRequest, if_pos rfl, serveLink, modEngine_engine_self]
  exact (carries_alertTest ended).serve _

/-- The stamp after a PROBE answer taken while it programs (R158). -/
def Stamp.probed (now : Time) (st : AgentState) (m : Stamp) : Stamp :=
  if st = .programming then { m with pause := some (after now 5) } else { m with step := .verify, limit := none, pause := none }

/-- The state after a PROBE answer taken while a stamp programs (R158). -/
def State.stampProbed (x : State) (i : SlotId) (m : Stamp) (st : AgentState) : State :=
  (x.modSlot i fun y => { y with stamp := some (m.probed x.time st) }).modEngine i fun e =>
    if st = .programming then e else e.owned x.time (.identPage (rowPage m.row))

theorem programmingAnswer_eq {x : State} {st : AgentState} : programmingAnswer i m st x = x.stampProbed i m st := by
  unfold programmingAnswer State.stampProbed Stamp.probed
  split
  · exact (modEngine_same rfl).symm
  · exact placeOwn_eq ..

theorem stampProbed_slot_self (x : State) (st : AgentState) :
    (x.stampProbed i m st).slot i = { x.slot i with stamp := some (m.probed x.time st) } :=
  modSlot_slot_self x i fun y => { y with stamp := some (m.probed x.time st) }

theorem stampProbed_onSlot (x : State) (st : AgentState) : x.OnSlot i (x.stampProbed i m st) :=
  (State.OnSlot.modSlot x i _).trans (.modEngine _ i _)

/-- An answer other than PROGRAMMING asks for the row's page behind the PROBE (R158). -/
theorem stampProbed_asks {x : State} {st : AgentState} (hup : x.linkUp i = true) (hbusy : (x.engine i).out ≠ none)
    (hst : st ≠ .programming) : ∃ q ∈ ((x.stampProbed i m st).engine i).queue, q.msg = .identPage (rowPage m.row) := by
  rw [State.stampProbed, modEngine_engine_self, if_neg hst]
  show ∃ q ∈ ((x.engine i).owned x.time (.identPage (rowPage m.row))).queue, q.msg = _
  rw [owned_waits (of_decide_eq_true hup) hbusy]
  exact ⟨_, List.mem_append_right _ List.mem_cons_self, rfl⟩

include hl hm hup ho hlive in
/-- The second part of O41, a PROBE answered. -/
theorem stamp_probed (hinv : Inv s) {st : AgentState} (hf : judgeReply .probe o.seq f = some r)
    (hrec : o.recovery = false) (hstep : m.step = .programming)
    (hmsg : o.msg = .probe) (hst : AgentState.ofCode (byteAt r.payload 0) = some st)
    (hold : st ≠ .fault ∨ (s.slot i).agentFault = true) :
    ∃ t, exec (.frameArrival i f) s = .next t
    ∧ (t.slot i).Like { (s.slot i).recordAgent st (byteAt r.payload 1) with stamp := some (m.probed s.time st) }
    ∧ (st ≠ .programming → (t.engine i).Carries (.identPage (rowPage m.row)))
    ∧ OtherSlots i s t ∧ CellsKept s t ∧ t.alloc = s.alloc ∧ t.power = s.power
    ∧ t.ports = s.ports ∧ OtherEngines i s t ∧ t.journal = s.journal := by
  have state := hinv.stamping hm
  have taken := frameTaken_probe ho hmsg hlive hf hst
  have rslot : (s.modSlot i (Slot.recordAgent st (byteAt r.payload 1))).slot i =
      (s.slot i).recordAgent st (byteAt r.payload 1) := modSlot_slot_self ..
  have rstamp : ((s.modSlot i (Slot.recordAgent st (byteAt r.payload 1))).slot i).stamp = some m := by
    rw [rslot]
    exact hm
  have rstate : ((s.modSlot i (Slot.recordAgent st (byteAt r.payload 1))).slot i).state = .stamping := by
    rw [rslot]
    exact state
  have answer : probeAnswer i st (byteAt r.payload 1) s =
      programmingAnswer i m st (s.modSlot i (Slot.recordAgent st (byteAt r.payload 1))) := by
    rw [probeAnswer, if_neg (by rw [state]; decide), if_neg (by rcases hold with h | h <;> simp [h])]
    simp only [stateAnswer, rstate, rstamp, hstep, if_true]
  rw [hrec, if_neg (by decide), answer, programmingAnswer_eq] at taken
  have on := State.OnSlot.modSlot s i (Slot.recordAgent st (byteAt r.payload 1))
  have rup : (s.modSlot i (Slot.recordAgent st (byteAt r.payload 1))).linkUp i = true := hup
  have rbusy : ((s.modSlot i (Slot.recordAgent st (byteAt r.payload 1))).engine i).out ≠ none :=
    fun h => absurd (ho.symm.trans h) (by simp)
  have rjournal : (s.modSlot i (Slot.recordAgent st (byteAt r.payload 1))).journal = s.journal := rfl
  generalize s.modSlot i (Slot.recordAgent st (byteAt r.payload 1)) = x at *
  have on' := on.trans (stampProbed_onSlot (i := i) (m := m) x st)
  have uslot := stampProbed_slot_self (i := i) (m := m) x st
  have uasks := stampProbed_asks (m := m) (st := st) rup rbusy
  have ujournal : (x.stampProbed i m st).journal = s.journal := rjournal
  generalize x.stampProbed i m st = u at *
  obtain ⟨t, he, like, engine, journal, slots, cells, alloc, power, ports, engines⟩ :=
    (on'.trans (.proceeds u i .probe)).ends hl taken
  refine ⟨t, congrArg Host.Outcome.next he, ?_, fun hne => ?_, slots, cells, alloc, power, ports, engines, ?_⟩
  · rw [(proceeds_reads ..).1, uslot, rslot, on.time] at like
    exact like
  · rw [engine]
    exact carries_proceeds (uasks hne)
  · rw [journal, ← ujournal]
    simp

end

/-! ### The ends of a stamp -/

/-- A slot with the result of its stamp (R17, R160). -/
def Slot.stampEnded (result : StampResult) (x : Slot) : Slot :=
  { (if result = .written then x.advanceRow else x) with lastStamp := some result }

theorem stampEnded_leaves (result : StampResult) (x : Slot) :
    (x.stampEnded result).latch = x.latch ∧ (x.stampEnded result).orders = x.orders
    ∧ (x.stampEnded result).active = x.active ∧ (x.stampEnded result).state = x.state
    ∧ (x.stampEnded result).retire = x.retire ∧ (x.stampEnded result).ident = x.ident
    ∧ (x.stampEnded result).nextRow = (if result = .written then x.nextRow + 1 else x.nextRow)
    ∧ (x.stampEnded result).nextSeq = (if result = .written then x.nextSeq + 1 else x.nextSeq) := by
  unfold Slot.stampEnded
  split <;> exact ⟨rfl, rfl, rfl, rfl, rfl, rfl, rfl, rfl⟩

/-- The end of a stamp is work on its slot, and asks for the power-off (R17, R156). -/
theorem stampEnd_asks (s : State) (i : SlotId) (result : StampResult) :
    ∃ w, stampEnd i result s = powerOffRequest i w ∧ s.OnSlot i w
    ∧ w.slot i = ((s.slot i).stampEnded result).enter s.time .poweringOff := by
  have ended : (endOwn i s).slot i = s.slot i := rfl
  have on := (State.OnSlot.endOwn s i).trans (.modSlot _ i (Slot.stampEnded result))
  have slot := modSlot_slot_self (endOwn i s) i (Slot.stampEnded result)
  rw [ended] at slot
  have eq : stampEnd i result s = powerOffRequest i (changeStateOwn i .poweringOff .stamped
      (handNotice (slotNotice ((endOwn i s).modSlot i (Slot.stampEnded result)) i (.stamp result)
        (((endOwn i s).modSlot i (Slot.stampEnded result)).retireTag i))
        ((endOwn i s).modSlot i (Slot.stampEnded result)))) := rfl
  generalize (endOwn i s).modSlot i (Slot.stampEnded result) = u at *
  have on' := on.trans ((State.OnSlot.handNotice u i (slotNotice u i (.stamp result) (u.retireTag i))).trans
    (.changeStateOwn _ i .poweringOff .stamped))
  refine ⟨_, eq, on', ?_⟩
  rw [changeStateOwn_slot_self, (handNotice_reads ..).1, slot, ← on.time]
  simp

/-- What an orderly power-off leaves of a slot in its fields that a move to PARKED keeps. -/
theorem State.PowersOff.field (h : w.PowersOff i t) {α : Type} (f : Slot → α)
    (hf : ∀ x n, f { x with upd := n } = f x)
    (hpark : ∀ b rd, f { ({ w.slot i with claim := 0 } : Slot).enter w.time .parked with
      orders := [], active := b, read := rd } = f (w.slot i)) : f (t.slot i) = f (w.slot i) := by
  cases hmin : w.minOnPassed i
  · exact (h.deferred hmin).1.field f hf
  · obtain ⟨b, rd, like⟩ := (h.parks hmin).slot
    exact (like.field f hf).trans (hpark b rd)

/-- What the end of a stamp leaves, from the slot `y` that ends it in STAMPING. -/
structure State.StampEnds (s : State) (i : SlotId) (result : StampResult) (y : Slot) (t : State) : Prop where
  stamping : y.state = .stamping
  retire : y.retire = (s.slot i).retire
  orders : y.orders = (s.slot i).orders
  nextRow : y.nextRow = (s.slot i).nextRow
  nextSeq : y.nextSeq = (s.slot i).nextSeq
  ident : y.ident = (s.slot i).ident
  off : ∃ w, s.OnSlot i w ∧ w.slot i = (y.stampEnded result).enter s.time .poweringOff ∧ w.PowersOff i t

/-- An event that ends a stamp. -/
theorem stampEnd_ends {x : State} {g : Engine → Engine} {act : State → State} {result : StampResult} (hinv : Inv s)
    (hl : s.Live) (h : s.OnSlot i x) (hact : act s = (stampEnd i result x).modEngine i g)
    (hopen : s.minOnPassed i = true → s.Quiet ∧ s.alloc.timingAtFront = false ∧ (x.slot i).latch = false
      ∧ (s.pwr i).switchOn = true
      ∧ ((x.slot i).orders = [] ∨ (x.slot i).active = true ∧ (x.slot i).orders.length = 1)) :
    ∃ t, liveEvent act s = t
    ∧ ∃ w, s.OnSlot i w ∧ w.slot i = ((x.slot i).stampEnded result).enter s.time .poweringOff ∧ w.PowersOff i t := by
  obtain ⟨w, ends, on, slot⟩ := stampEnd_asks x i result
  obtain ⟨latch, orders, active, -⟩ := stampEnded_leaves result (x.slot i)
  rw [ends] at hact
  rw [h.time] at slot
  obtain ⟨t, he, off⟩ := (h.trans on).powersOff hinv hl hact slot (by rw [latch, orders, active]; exact hopen)
  exact ⟨t, he, w, h.trans on, slot, off⟩

/-- A stamp skipped at its start on a link that is not UP (R156). -/
theorem stampBegin_skips (hup : s.linkUp i = false) : stampBegin i s = stampEnd i .skipped s := by
  simp only [stampBegin, hup, Bool.false_eq_true, if_false]

/-- The commands of the third part of O41 end the stamp of their slot. -/
theorem stamp_ends {m : Stamp} {o : Outstanding} {f : List Byte} {r : Reply} {result : StampResult} {e : Instr}
    (hinv : Inv s) (hl : s.Live)
    (hc : e = .programLimitExpiry i ∧ (s.slot i).stamp = some m ∧ due s.time m.limit = true ∧ result = .failed
      ∨ e = .quiesceDeadlineExpiry i ∧ (s.slot i).state = .quiescing ∧ due s.time (s.slot i).quiesce = true
        ∧ (s.slot i).retire.any (·.stamp) = true ∧ s.linkUp i = false ∧ result = .skipped
      ∨ e = .frameArrival i f ∧ (s.slot i).stamp = some m ∧ s.linkUp i = true
        ∧ (s.engine i).out = some o ∧ o.live = true ∧ o.recovery = false ∧ judgeReply o.msg o.seq f = some r
        ∧ (m.step = .commit ∧ o.msg = .rowCommit m.row ∧ r.answer = .noLoad ∧ result = .failed
          ∨ m.step = .verify ∧ o.msg = .identPage (rowPage m.row) ∧ r.answer = .ok
            ∧ result = if rowBytes m.row r.payload = m.bytes then .written else .failed))
    (hopen : s.minOnPassed i = true → s.Quiet ∧ s.alloc.timingAtFront = false ∧ (s.slot i).latch = false
      ∧ (s.pwr i).switchOn = true
      ∧ ((s.slot i).orders = [] ∨ (s.slot i).active = true ∧ (s.slot i).orders.length = 1)) :
    ∃ t y, exec e s = .next t ∧ s.StampEnds i result y t := by
  rcases hc with ⟨rfl, hm, hdue, rfl⟩ | ⟨rfl, hstate, hdue, hstamp, hup, rfl⟩
    | ⟨rfl, hm, hup, ho, hlive, hrec, hf, hanswer⟩
  · have act : limitExpired i s = (stampEnd i .failed s).modEngine i id := by
      rw [modEngine_same rfl]
      simp only [limitExpired, hm, hdue, if_true]
    obtain ⟨t, he, off⟩ := stampEnd_ends hinv hl (.refl s i) act hopen
    exact ⟨t, s.slot i, congrArg Host.Outcome.next he, hinv.stamping hm, rfl, rfl, rfl, rfl, rfl, off⟩
  · have wslot := stamping_slot s i .quiesceLimit
    have on := stamping_onSlot s i .quiesceLimit
    have wup : (changeStateOwn i .stamping .quiesceLimit (endOwn i s)).linkUp i = false := by
      rw [changeStateOwn_linkUp, endOwn, endMessages, modEngine_linkUp rfl]
      exact hup
    have act : quiesceExpired i s =
        (stampEnd i .skipped (changeStateOwn i .stamping .quiesceLimit (endOwn i s))).modEngine i id := by
      rw [modEngine_same rfl, quiesceExpired, if_pos ⟨hstate, hdue⟩, quiesceEnd, if_pos hstamp, stampBegin_skips wup]
    generalize changeStateOwn i .stamping .quiesceLimit (endOwn i s) = w at *
    obtain ⟨t, he, off⟩ := stampEnd_ends hinv hl on act (by
      rw [wslot]
      intro hmin
      obtain ⟨hq, htiming, hlatch, hon, horders⟩ := hopen hmin
      exact ⟨hq, htiming, by simp [Slot.enter, hlatch], hon, horders⟩)
    rw [wslot] at off
    exact ⟨t, (s.slot i).enter s.time .stamping, congrArg Host.Outcome.next he, rfl, rfl, rfl, rfl, rfl, rfl, off⟩
  · have taken : frameTaken i f s = (stampEnd i result s).freed i := by
      rcases hanswer with ⟨hstep, hmsg, hans, rfl⟩ | ⟨hstep, hmsg, hans, rfl⟩
      · rw [frameTaken_stamp hm ho hlive hf (by rw [hmsg]; rfl)]
        simp only [stampAnswer, hans, hstep, if_true]
      · rw [frameTaken_stamp hm ho hlive hf (by rw [hmsg]; rfl)]
        simp only [stampAnswer, hans, hstep]
    obtain ⟨t, he, off⟩ := stampEnd_ends hinv hl (.refl s i) taken hopen
    exact ⟨t, s.slot i, congrArg Host.Outcome.next he, hinv.stamping hm, rfl, rfl, rfl, rfl, rfl, off⟩

/-- Settles O41. -/
theorem stampDeadlines : Obligations.StampDeadlines := by
  refine ⟨fun s i hinv hl => ⟨fun r hstate hdue hr hstamp hup => stamp_begins hl hstate hdue hr hstamp hup,
    fun m hm hdue => stamp_pauses hl hm hdue⟩,
    fun s i m o f r hinv hl hm hup ho hlive hrec hf =>
      ⟨stamp_loaded hl hm hup ho hlive hf, stamp_committed hl hm hup ho hlive hf, stamp_busy hl hm hup ho hlive hf,
        fun st hstep hmsg hst hold => stamp_probed hl hm hup ho hlive hinv (by rw [← hmsg]; exact hf) hrec hstep hmsg
          hst hold⟩, ?_⟩
  intro s i c m o f r result hinv hl hc hopen
  have ready : s.minOnPassed i = true → s.Quiet ∧ s.alloc.timingAtFront = false ∧ (s.slot i).latch = false
      ∧ (s.pwr i).switchOn = true
      ∧ ((s.slot i).orders = [] ∨ (s.slot i).active = true ∧ (s.slot i).orders.length = 1) :=
    fun hmin => hopen.resolve_left fun h => Bool.noConfusion (h.symm.trans hmin)
  obtain ⟨t, y, he, ends⟩ := stamp_ends hinv hl hc ready
  obtain ⟨w, on, wslot, off⟩ := ends.off
  obtain ⟨-, yorders, -, ystate, yretire, yident, yrow, yseq⟩ := stampEnded_leaves result y
  have field : ∀ {α : Type} (f : Slot → α), (∀ x n, f { x with upd := n } = f x) →
      (∀ b rd, f { ({ w.slot i with claim := 0 } : Slot).enter w.time .parked with
        orders := [], active := b, read := rd } = f (w.slot i)) →
      f (t.slot i) = f ((y.stampEnded result).enter s.time .poweringOff) := fun f hf hpark =>
    (off.field f hf hpark).trans (congrArg f wslot)
  refine ⟨t, he, ?_, ?_, ?_, ?_, ?_, fun hmin => ?_, fun hmin => ?_, fun j hj => ?_, fun j hj => ?_,
    off.ports.trans on.ports, off.settings.trans on.settings, fun j hj => (off.engines j hj).trans (on.engines j hj)⟩
  · exact field Slot.stamp (fun _ _ => rfl) fun _ _ => by rw [wslot]; rfl
  · exact field Slot.lastStamp (fun _ _ => rfl) fun _ _ => rfl
  · rw [← ends.nextRow]
    exact (field Slot.nextRow (fun _ _ => rfl) fun _ _ => rfl).trans yrow
  · rw [← ends.nextSeq]
    exact (field Slot.nextSeq (fun _ _ => rfl) fun _ _ => rfl).trans yseq
  · rw [← ends.ident]
    exact (field Slot.ident (fun _ _ => rfl) fun _ _ => rfl).trans yident
  · obtain ⟨like, tpwr, talloc, tcells⟩ := off.deferred ((on.minOn i).trans hmin)
    rw [pwr_congr on.power, on.settings] at tpwr
    rw [wslot] at like
    exact ⟨like.field Slot.state fun _ _ => rfl, (like.field Slot.prev fun _ _ => rfl).trans (ystate.trans ends.stamping),
      (like.field Slot.retire fun _ _ => rfl).trans (yretire.trans ends.retire),
      (like.field Slot.orders fun _ _ => rfl).trans (yorders.trans ends.orders), tpwr, talloc.trans on.alloc,
      on.cells.trans tcells⟩
  · obtain ⟨⟨b, rd, like⟩, tpwr, claims, granted, order, -⟩ := off.parks ((on.minOn i).trans hmin)
    rw [pwr_congr on.power, on.time] at tpwr
    rw [on.alloc] at granted
    have worders : (w.slot i).orders = (s.slot i).orders := by
      rw [wslot]
      exact yorders.trans ends.orders
    have wstate : (w.slot i).state = .poweringOff := by
      rw [wslot]
      rfl
    rw [worders] at order
    exact ⟨like.field Slot.state fun _ _ => rfl, (like.field Slot.prev fun _ _ => rfl).trans wstate,
      like.field Slot.claim fun _ _ => rfl, like.field Slot.retire fun _ _ => rfl,
      like.field Slot.orders fun _ _ => rfl, tpwr, claims, granted,
      fun e he => ⟨(order e he).cell, (order e he).code, (order e he).state, (order e he).fault⟩⟩
  · exact (off.slots j hj).trans (congrArg (fun x : Slot => { x with upd := 0 }) (on.slots j hj))
  · exact (off.power j hj).trans (pwr_congr on.power j)

end Sys2Proof.Machine

/-! The shelf orders (R57, R73, R75, R81). -/

namespace Sys2Proof.Machine

variable {s t u v w x : State} {i j : SlotId} {p q : PortId} {c d : CellId}

/-! ### A shelf order that comes to the front -/

/-- A shelf order has been put on the empty shelf order list (R40, R73). -/
def State.shelved (s : State) (c : CellId) (k : OrderKind) : State :=
  (((s.pastCell c).modAlloc fun a => { a with shelf := a.shelf ++ [⟨c, k, s.time⟩] }).setCell c .taken).touchShelf

/-- The state in which the front of the shelf order list is served. -/
def State.fronted (s : State) (c : CellId) (k : OrderKind) (b : Option Word16) (l : List SlotId) : State :=
  (s.shelved c k).resume b l

@[simp] theorem fronted_frame (s : State) (c : CellId) (k : OrderKind) (b : Option Word16) (l : List SlotId) :
    (s.fronted c k b l).time = s.time ∧ (s.fronted c k b l).mem = s.mem
    ∧ (s.fronted c k b l).cells = s.cells.set c .taken ∧ (s.fronted c k b l).slots = s.slots
    ∧ (s.fronted c k b l).power = s.power ∧ (s.fronted c k b l).settings = s.settings
    ∧ (s.fronted c k b l).ports = s.ports ∧ (s.fronted c k b l).engines = s.engines
    ∧ (s.fronted c k b l).journal = s.journal ∧ (s.fronted c k b l).work = []
    ∧ (s.fronted c k b l).late = s.late
    ∧ (s.fronted c k b l).alloc = { s.alloc with shelf := s.alloc.shelf ++ [⟨c, k, s.time⟩] } := by
  simp [State.fronted, State.shelved, State.pastCell, State.setCell]

theorem fronted_otherCells (s : State) (c : CellId) (k : OrderKind) (b : Option Word16) (l : List SlotId) :
    OtherCells c s (s.fronted c k b l) := by
  have cells : (s.fronted c k b l).cells = (s.setCell c .taken).cells := by simp [State.setCell]
  refine ⟨fun d hd => (cell_congr cells d).trans (setCell_cell_ne _ _ _ _ hd), fun a _ => ?_⟩
  rw [(fronted_frame ..).2.1]

/-- A shelf order that passes the checks is put on the list and, alone there, is served (R40, R73). -/
theorem handleKind_shelf {k : OrderKind} (ht : s.Takes c k) (hk : k.orderClass = .shelfQueued)
    (hshelf : s.alloc.shelf = []) : handleKind c k (s.pastCell c) = (s.shelved c k).raise [.serve] := by
  have none : (s.pastCell c).cellSlot c = none := by
    have checks := ht.passes
    rw [intakeRefusal_shelf ht.kind hk] at checks
    by_cases h0 : s.rd8 c 0x05 = 0
    · exact slotOfByte_eq_none.mpr (.inl h0)
    · rw [if_pos h0] at checks
      exact absurd checks (by simp)
  have queued : queueShelfOrder c k (s.pastCell c) = (s.shelved c k).raise [.serve] :=
    if_pos (by rw [show (s.pastCell c).alloc.shelf = s.alloc.shelf from rfl, hshelf]; rfl)
  unfold handleKind
  rw [none]
  cases k
  case setBudget | setTiming => exact queued
  all_goals exact absurd hk (by decide)

/-- An event that changes no record and brings one job goes on from the job. -/
theorem event_job {j : Job} {b : Option Word16} (hr : s.Ready) (hwork : u.work = [⟨j, b⟩])
    (hsame : ∀ i, u.recordView i = s.recordView i) : ∃ l,
    event (fun _ => u) s = closeEvent (drain 4095 { doJob j (u.resume b []) with changed := l })
    ∧ ((∀ i, (doJob j (u.resume b [])).recordView i = s.recordView i) → l = []) := by
  have changed : (noteRecords s u).changed = [] := by
    refine List.eq_nil_iff_forall_not_mem.mpr fun i hi => ?_
    rw [mem_changed_noteRecords, hr.changed] at hi
    rcases hi with hi | hi
    · exact absurd hi List.not_mem_nil
    · exact hi (hsame i)
  have resumed : { noteRecords s u with work := [], broughtBy := b } = u.resume b [] := by
    rw [State.resume, ← changed]
    rfl
  have worked : doWork ⟨j, b⟩ [] (noteRecords s u) =
      { doJob j (u.resume b []) with
        changed := (noteRecords (noteRecords s u) (doJob j (u.resume b []))).changed } := by
    unfold doWork
    dsimp only
    rw [resumed, List.append_nil]
    rfl
  refine ⟨(noteRecords (noteRecords s u) (doJob j (u.resume b []))).changed, ?_, fun h => ?_⟩
  · rw [event, show Config.workBound = 4095 + 1 from rfl, drain_step (s := noteRecords s u) _ _ _ hwork, worked]
  · refine List.eq_nil_iff_forall_not_mem.mpr fun i hi => ?_
    rw [mem_changed_noteRecords, changed] at hi
    rcases hi with hi | hi
    · exact absurd hi List.not_mem_nil
    · exact hi ((h i).trans (hsame i).symm)

/-- The event of a shelf order goes on from its being served; no record has changed while none shows otherwise. -/
theorem exec_take_serves {k : OrderKind} (ht : s.Takes c k) (hk : k.orderClass = .shelfQueued)
    (hshelf : s.alloc.shelf = []) : ∃ b l, exec (takeCommand (some k)) s =
      .next (closeEvent (drain 4095 { serveShelf (s.fronted c k b []) with changed := l }))
    ∧ ((∀ i, (serveShelf (s.fronted c k b [])).recordView i = s.recordView i) → l = []) := by
  have work : ((s.shelved c k).raise [.serve]).work = [⟨.serve, (s.shelved c k).broughtBy⟩] := by
    have none : (s.shelved c k).work = [] := ht.work
    rw [State.raise, none]
    rfl
  have resumed : ∀ b, ((s.shelved c k).raise [.serve]).resume b [] = s.fronted c k b [] := fun _ => rfl
  have same : ∀ i, ((s.shelved c k).raise [.serve]).recordView i = s.recordView i := fun i =>
    recordView_congr (by simp [State.shelved, State.pastCell]) (by simp [State.shelved, State.pastCell])
      (by simp [State.shelved, State.pastCell]) (by simp [State.shelved, State.pastCell]) i
  rw [exec_take_passes ht, handleKind_shelf ht hk hshelf]
  generalize (s.shelved c k).raise [.serve] = u at *
  obtain ⟨l, he, hl⟩ := event_job ht.toReady work same
  rw [resumed] at he hl
  exact ⟨_, l, congrArg Host.Outcome.next he, hl⟩

/-- The event of a shelf order whose being served changes no record and leaves nothing to do. -/
theorem exec_take_served {k : OrderKind} (ht : s.Takes c k) (hk : k.orderClass = .shelfQueued)
    (hshelf : s.alloc.shelf = [])
    (hend : ∀ b, (serveShelf (s.fronted c k b [])).AtEnd 4095
      ∧ ∀ i, (serveShelf (s.fronted c k b [])).recordView i = s.recordView i) :
    ∃ b l b', exec (takeCommand (some k)) s = .next ((serveShelf (s.fronted c k b [])).ended l b')
    ∧ ∀ i, i ∉ l := by
  obtain ⟨b, l, he, hl⟩ := exec_take_serves ht hk hshelf
  obtain ⟨⟨room, jobs, tests⟩, same⟩ := hend b
  obtain rfl := hl same
  refine ⟨b, ?_⟩
  rw [he]
  generalize serveShelf (s.fronted c k b []) = v at *
  obtain ⟨l', b', hmem, hends⟩ := closeEvent_drain_quiet (s := { v with changed := [] }) (n := 4095) room
    (fun w hw => (jobs w hw).resume v.work v.late [] v.broughtBy)
    (fun t ht => (tests t ht).resume v.work v.late [] v.broughtBy)
  exact ⟨l', b', congrArg Host.Outcome.next hends, fun i hi => absurd ((hmem i).mp hi) List.not_mem_nil⟩

/-! ### The finish of the front -/

/-- A finish of a shelf order shows its outcome, generation 0 and state NONE (R57). -/
theorem finishShelfCell_finished (hm : Memory.wf s.mem = true) (c : CellId) (o : OrderOutcome) (taken : Time) :
    (finishShelfCell c o taken s).Finished c o.code 0 0xFF 0 ∧ (finishShelfCell c o taken s).rd8 c 0x1F = 0
    ∧ OtherCells c s (finishShelfCell c o taken s) :=
  ⟨⟨writeResult_cell_self .., writeResult_code _ _ _ hm, writeResult_fault _ _ _ hm, writeResult_state _ _ _ hm,
    writeResult_gen _ _ _ hm⟩, writeResult_rd8 _ _ _ hm (k := 3) (by decide), writeResult_otherCells _ _ _ hm⟩

@[simp] theorem finishFront_frame (e : OrderEntry) (o : OrderOutcome) (s : State) :
    (finishFront e o s).time = s.time ∧ (finishFront e o s).slots = s.slots
    ∧ (finishFront e o s).power = s.power ∧ (finishFront e o s).settings = s.settings
    ∧ (finishFront e o s).ports = s.ports ∧ (finishFront e o s).engines = s.engines
    ∧ (finishFront e o s).journal = s.journal ∧ (finishFront e o s).work = s.work
    ∧ (finishFront e o s).late = s.late
    ∧ (finishFront e o s).alloc = { s.alloc with shelf := s.alloc.shelf.tail } := by
  simp [finishFront]

/-- The finish of the front shows in its cell (R57, R73). -/
theorem finishFront_cells {e : OrderEntry} (hm : Memory.wf s.mem = true) (o : OrderOutcome) :
    (finishFront e o s).Finished e.cell o.code 0 0xFF 0 ∧ (finishFront e o s).rd8 e.cell 0x1F = 0
    ∧ OtherCells e.cell s (finishFront e o s) := by
  have kept : CellsKept (finishShelfCell e.cell o e.taken s) (finishFront e o s) := by
    simp [finishFront, CellsKept]
  obtain ⟨finished, summary, others⟩ := finishShelfCell_finished hm e.cell o e.taken
  exact ⟨finished.of_kept kept, ((kept.stands _).2 _ (by decide)).trans summary, others.trans (kept.otherCells _)⟩

/-- What comes after the finish of the only shelf order does nothing with no entry queued. -/
theorem finishFront_ends {e : OrderEntry} (o : OrderOutcome) (js : List Job) (hjs : ∀ y ∈ js, y = .serve ∨ y = .examine)
    (hn : js.length ≤ 4095) (hwork : u.work = []) (hlate : u.late = []) (hshelf : u.alloc.shelf = [e])
    (hqueue : u.alloc.queue = []) : ((finishFront e o u).raise js).AtEnd 4095 := by
  refine State.AtEnd.of_jobs (js := js) ?_ (by simpa using hlate) hn fun y hy => ?_
  · rw [raise_jobs, jobs_nil (by simpa using hwork), List.nil_append]
  · obtain rfl | rfl := hjs y hy
    · simp [Job.Idle, hshelf]
    · simp [Job.Idle, hqueue]

theorem finishFront_wf {e : OrderEntry} (hm : Memory.wf s.mem = true) (o : OrderOutcome) :
    Memory.wf (finishFront e o s).mem = true := by
  rw [show (finishFront e o s).mem = (finishShelfCell e.cell o e.taken s).mem by simp [finishFront], finishShelfCell,
    writeResult_mem]
  exact Memory.wf_writeList _ _ _ hm

/-- The cell of a shelf order that finishes in its own event (R57). -/
theorem front_finishes {k : OrderKind} {b : Option Word16} (hm : Memory.wf s.mem = true)
    (hu : CellsKept (s.fronted c k b []) u) (o : OrderOutcome) :
    (finishFront ⟨c, k, s.time⟩ o u).Finished c o.code 0 0xFF 0
    ∧ (finishFront ⟨c, k, s.time⟩ o u).rd8 c 0x1F = 0 ∧ OtherCells c s (finishFront ⟨c, k, s.time⟩ o u) := by
  obtain ⟨finished, summary, others⟩ := finishFront_cells (e := ⟨c, k, s.time⟩) (s := u)
    (by rw [hu.2]; simpa using hm) o
  exact ⟨finished, summary, (fronted_otherCells s c k b []).trans ((hu.otherCells c).trans others)⟩

/-- The same at the end of the event. -/
theorem front_finished {k : OrderKind} {b b' : Option Word16} {l : List SlotId} (hm : Memory.wf s.mem = true)
    (hu : CellsKept (s.fronted c k b []) u) (o : OrderOutcome) (js : List Job) :
    (((finishFront ⟨c, k, s.time⟩ o u).raise js).ended l b').Finished c o.code 0 0xFF 0
    ∧ (((finishFront ⟨c, k, s.time⟩ o u).raise js).ended l b').rd8 c 0x1F = 0
    ∧ OtherCells c s (((finishFront ⟨c, k, s.time⟩ o u).raise js).ended l b') := by
  obtain ⟨finished, summary, others⟩ := front_finishes hm hu o
  generalize finishFront ⟨c, k, s.time⟩ o u = v at *
  have kept : CellsKept v ((v.raise js).ended l b') := by simp [CellsKept]
  exact ⟨finished.of_kept kept, ((kept.stands c).2 _ (by decide)).trans summary, others.trans (kept.otherCells c)⟩

/-- The rest of the state when a shelf order finishes in its own event and changes no record. -/
theorem front_rest {e : OrderEntry} {b : Option Word16} {l : List SlotId} (hl : ∀ i, i ∉ l) (o : OrderOutcome)
    (js : List Job) :
    (((finishFront e o u).raise js).ended l b).slots = u.slots
    ∧ (((finishFront e o u).raise js).ended l b).power = u.power
    ∧ (((finishFront e o u).raise js).ended l b).ports = u.ports
    ∧ (((finishFront e o u).raise js).ended l b).engines = u.engines
    ∧ (((finishFront e o u).raise js).ended l b).settings = u.settings
    ∧ (((finishFront e o u).raise js).ended l b).journal = u.journal
    ∧ (((finishFront e o u).raise js).ended l b).alloc = { u.alloc with shelf := u.alloc.shelf.tail } := by
  refine ⟨(ended_slots _ _ hl).trans ?_, ?_⟩ <;> simp

/-! ### SET-BUDGET -/

@[simp] theorem applyBudget_frame (c : CellId) (s : State) :
    (applyBudget c s).time = s.time ∧ (applyBudget c s).slots = s.slots ∧ (applyBudget c s).power = s.power
    ∧ (applyBudget c s).settings = s.settings ∧ (applyBudget c s).ports = s.ports
    ∧ (applyBudget c s).engines = s.engines ∧ (applyBudget c s).work = s.work ∧ (applyBudget c s).late = s.late
    ∧ (applyBudget c s).cells = s.cells ∧ (applyBudget c s).mem = s.mem
    ∧ (applyBudget c s).alloc =
      { s.alloc with capacity := s.budgetCapacity c, hubReserve := s.budgetReserve c } := by
  simp [applyBudget]

/-- A SET-BUDGET at the front with a capacity of at least the granted total applies (R75). -/
theorem serveShelf_budget {e : OrderEntry} (h : s.alloc.shelf = [e]) (hk : e.kind = .setBudget)
    (hroom : s.alloc.granted ≤ s.budgetCapacity e.cell) : serveShelf s =
      (finishFront e .done (applyBudget e.cell (s.onBehalf e.cell))).raise [.serve, .examine] := by
  simp only [serveShelf, h, hk, reduceCtorEq, if_false, if_pos hroom]

theorem serveShelf_overCommitted {e : OrderEntry} (h : s.alloc.shelf = [e]) (hk : e.kind = .setBudget)
    (hroom : ¬ s.alloc.granted ≤ s.budgetCapacity e.cell) :
    serveShelf s = (finishFront e .overCommitted s).raise [.serve] := by
  simp only [serveShelf, h, hk, reduceCtorEq, if_false, if_neg hroom]

/-- The first part of O33. -/
theorem setBudget_applies (hinv : Inv s) (hq : s.Quiet) (ht : s.Takes c .setBudget) (hshelf : s.alloc.shelf = []) :
    ∃ t, exec .setBudget s = .next t ∧ t.cell c = .finished
    ∧ (s.alloc.granted ≤ (s.rd16 c 0x0C).toNat → t.rd8 c 0x1C = OrderOutcome.done.code
        ∧ t.alloc.capacity = (s.rd16 c 0x0C).toNat ∧ t.alloc.hubReserve = (s.rd16 c 0x0E).toNat)
    ∧ (¬ s.alloc.granted ≤ (s.rd16 c 0x0C).toNat →
        t.rd8 c 0x1C = OrderOutcome.overCommitted.code ∧ t.alloc.capacity = s.alloc.capacity
        ∧ t.alloc.hubReserve = s.alloc.hubReserve ∧ t.journal = s.journal)
    ∧ t.rd16 c 0x28 = 0 ∧ t.rd8 c 0x1E = 0xFF ∧ t.rd8 c 0x1F = 0
    ∧ t.alloc.shelf = [] ∧ t.alloc.granted = s.alloc.granted ∧ t.alloc.claims = s.alloc.claims
    ∧ t.slots = s.slots ∧ t.power = s.power ∧ t.ports = s.ports ∧ t.engines = s.engines
    ∧ t.settings = s.settings ∧ OtherCells c s t := by
  have shelf : ∀ b, (s.fronted c .setBudget b []).alloc.shelf = [⟨c, .setBudget, s.time⟩] := fun b => by simp [hshelf]
  have queue : ∀ b, (s.fronted c .setBudget b []).alloc.queue = [] := fun b => by simp [hq.queue]
  have granted : ∀ b, (s.fronted c .setBudget b []).alloc.granted = s.alloc.granted := fun b => by simp
  have capacity : ∀ b, (s.fronted c .setBudget b []).budgetCapacity c = (s.rd16 c 0x0C).toNat := fun b => by
    simp [State.budgetCapacity, State.rd16, State.rd8]
  have reserve : ∀ b, (s.fronted c .setBudget b []).budgetReserve c = (s.rd16 c 0x0E).toNat := fun b => by
    simp [State.budgetReserve, State.rd16, State.rd8]
  by_cases hroom : s.alloc.granted ≤ (s.rd16 c 0x0C).toNat
  · have served := fun b => serveShelf_budget (shelf b) rfl (by rw [granted, capacity]; exact hroom)
    obtain ⟨b, l, b', he, hl⟩ := exec_take_served ht rfl hshelf fun b => by
      rw [served]
      refine ⟨finishFront_ends _ _ (by simp) (by simp) (by simp) (by simp [ht.late]) (by simp [hshelf])
        (by simp [hq.queue]), fun i => recordView_congr ?_ ?_ ?_ ?_ i⟩ <;> simp
    have kept : CellsKept (s.fronted c .setBudget b [])
        (applyBudget c ((s.fronted c .setBudget b []).onBehalf c)) := by simp [CellsKept]
    obtain ⟨finished, summary, others⟩ := front_finished (l := l) (b' := b') hinv.mem kept .done [.serve, .examine]
    obtain ⟨slots, power, ports, engines, settings, -, alloc⟩ := front_rest (e := ⟨c, .setBudget, s.time⟩) (b := b')
      (u := applyBudget c ((s.fronted c .setBudget b []).onBehalf c)) hl .done [.serve, .examine]
    rw [served] at he
    dsimp only at he
    generalize ((finishFront ⟨c, .setBudget, s.time⟩ .done (applyBudget c ((s.fronted c .setBudget b []).onBehalf c))).raise
      [.serve, .examine]).ended l b' = t at *
    refine ⟨t, he, finished.cell, fun _ => ⟨finished.code, ?_, ?_⟩, fun h => absurd hroom h, finished.gen, finished.state,
      summary, ?_, ?_, ?_, slots.trans (by simp), power.trans (by simp), ports.trans (by simp), engines.trans (by simp),
      settings.trans (by simp), others⟩
    all_goals rw [alloc]
    · simp only [applyBudget_frame]
      exact capacity b
    · simp only [applyBudget_frame]
      exact reserve b
    all_goals simp [hshelf]
  · have served := fun b => serveShelf_overCommitted (shelf b) rfl (by rw [granted, capacity]; exact hroom)
    obtain ⟨b, l, b', he, hl⟩ := exec_take_served ht rfl hshelf fun b => by
      rw [served]
      refine ⟨finishFront_ends _ _ (by simp) (by simp) (by simp) (by simp [ht.late]) (by simp [hshelf])
        (by simp [hq.queue]), fun i => recordView_congr ?_ ?_ ?_ ?_ i⟩ <;> simp
    obtain ⟨finished, summary, others⟩ := front_finished (l := l) (b' := b') hinv.mem
      (CellsKept.refl (s.fronted c .setBudget b [])) .overCommitted [.serve]
    obtain ⟨slots, power, ports, engines, settings, journal, alloc⟩ := front_rest (e := ⟨c, .setBudget, s.time⟩)
      (b := b') (u := s.fronted c .setBudget b []) hl .overCommitted [.serve]
    rw [served] at he
    generalize ((finishFront ⟨c, .setBudget, s.time⟩ .overCommitted (s.fronted c .setBudget b [])).raise
      [.serve]).ended l b' = t at *
    refine ⟨t, he, finished.cell, fun h => absurd h hroom, fun _ => ⟨finished.code, ?_, ?_, journal.trans (by simp)⟩,
      finished.gen, finished.state, summary, ?_, ?_, ?_, slots.trans (by simp), power.trans (by simp),
      ports.trans (by simp), engines.trans (by simp), settings.trans (by simp), others⟩
    all_goals rw [alloc]
    all_goals simp [hshelf]

/-! ### SET-TIMING -/

/-- The deferral of a deferred power-off moves to a MIN-ON (R81). -/
def Power.deferTo (minOn : Nat) (p : Power) : Power :=
  if p.deferral = none then p else { p with deferral := some (after p.goodTime minOn) }

theorem deferTo_times (minOn : Nat) (p : Power) : (p.deferTo minOn).goodTime = p.goodTime
    ∧ (p.deferTo minOn).offTime = p.offTime ∧ (p.deferTo minOn).onRef = p.onRef
    ∧ ((p.deferTo minOn).deferral = none ↔ p.deferral = none) := by
  unfold Power.deferTo
  split
  · exact ⟨rfl, rfl, rfl, .rfl⟩
  · next h => exact ⟨rfl, rfl, rfl, by simpa using h⟩

theorem deferTo_deferTo (minOn : Nat) (p : Power) : (p.deferTo minOn).deferTo minOn = p.deferTo minOn := by
  unfold Power.deferTo
  by_cases h : p.deferral = none
  · simp [h]
  · simp [h]

theorem modPower_same {f : Power → Power} (h : f (s.pwr i) = s.pwr i) : s.modPower i f = s := by
  unfold State.modPower State.pwr at *
  rw [h]
  simp

theorem modPower_congr {f g : Power → Power} (h : f (s.pwr i) = g (s.pwr i)) : s.modPower i f = s.modPower i g := by
  rw [State.modPower, h]
  rfl

/-- A slot with no deferral, or one whose MIN-ON has not passed, has its deferral moved (R81). -/
theorem retestDeferral_defers (h : (s.pwr i).deferral ≠ none → s.minOnPassed i = false) :
    retestDeferral s i = s.modPower i (Power.deferTo s.settings.minOn) := by
  unfold retestDeferral
  by_cases hd : (s.pwr i).deferral = none
  · rw [if_neg (by simp [hd])]
    exact (modPower_same (f := Power.deferTo s.settings.minOn) (if_pos hd)).symm
  · rw [if_pos (Option.isSome_iff_ne_none.mpr hd), h hd, if_neg Bool.noConfusion]
    exact modPower_congr (if_neg hd).symm

/-- While no deferred MIN-ON has passed the tests move the deferrals (R81). -/
theorem retests_defer : ∀ (l : List SlotId) (s : State),
    (∀ i, (s.pwr i).deferral ≠ none → s.minOnPassed i = false) →
    l.foldl retestDeferral s = l.foldl (fun s i => s.modPower i (Power.deferTo s.settings.minOn)) s
  | [], _, _ => rfl
  | i :: l, s, h => by
    rw [List.foldl_cons, List.foldl_cons, retestDeferral_defers (h i)]
    refine retests_defer l _ fun j hj => ?_
    by_cases hji : j = i
    · subst hji
      rw [modPower_pwr_self] at hj
      obtain ⟨good, -, ref, none⟩ := deferTo_times s.settings.minOn (s.pwr j)
      have passed := h j fun hn => hj (none.mpr hn)
      simpa [State.minOnPassed, good, ref] using passed
    · rw [modPower_pwr_ne _ _ _ _ hji] at hj
      have passed := h j hj
      simpa [State.minOnPassed, hji] using passed

/-- The power of a slot after the deferrals have moved. -/
theorem deferrals_pwr : ∀ (l : List SlotId) (s : State) (j : SlotId),
    (l.foldl (fun s i => s.modPower i (Power.deferTo s.settings.minOn)) s).pwr j =
      if j ∈ l then (s.pwr j).deferTo s.settings.minOn else s.pwr j
  | [], _, _ => rfl
  | i :: l, s, j => by
    rw [List.foldl_cons, deferrals_pwr l]
    by_cases hji : j = i
    · subst hji
      rw [modPower_pwr_self, if_pos List.mem_cons_self]
      split
      · exact deferTo_deferTo ..
      · rfl
    · rw [modPower_pwr_ne _ _ _ _ hji]
      simp [hji]

theorem deferrals_eq : ∀ (l : List SlotId) (s : State),
    ∃ pw, l.foldl (fun s i => s.modPower i (Power.deferTo s.settings.minOn)) s = { s with power := pw }
  | [], s => ⟨s.power, rfl⟩
  | i :: l, s => by
    obtain ⟨pw, he⟩ := deferrals_eq l (s.modPower i (Power.deferTo s.settings.minOn))
    exact ⟨pw, he⟩

/-- The settings of a SET-TIMING are in force, and the deferrals tested (R81). -/
def State.timed (s : State) (c : CellId) : State :=
  allSlots.foldl retestDeferral { s.onBehalf c with settings := s.settingsParam c }

/-- The state that a SET-TIMING has applied in, its SETTINGS notice handed. -/
def State.announced (u : State) (tag : Word16) : State :=
  handNotice (shelfNotice u (.settings true) (some tag)) u.touchShelf

@[simp] theorem announced_frame (u : State) (tag : Word16) :
    (u.announced tag).time = u.time ∧ (u.announced tag).slots = u.slots ∧ (u.announced tag).power = u.power
    ∧ (u.announced tag).settings = u.settings ∧ (u.announced tag).ports = u.ports
    ∧ (u.announced tag).engines = u.engines ∧ (u.announced tag).work = u.work
    ∧ (u.announced tag).late = u.late ∧ (u.announced tag).cells = u.cells ∧ (u.announced tag).mem = u.mem
    ∧ (u.announced tag).alloc = u.alloc := by
  simp [State.announced]

/-- A SET-TIMING at the front applies while no slot is ramping (R73, R81). -/
theorem serveShelf_timing {e : OrderEntry} (h : s.alloc.shelf = [e]) (hk : e.kind = .setTiming)
    (hramp : s.alloc.ramping = []) : serveShelf s =
      (finishFront e .done ((s.timed e.cell).announced (s.cellTag e.cell))).raise [.serve, .examine] := by
  simp only [serveShelf, h, hk, if_true, hramp, List.isEmpty_nil]
  rfl

theorem serveShelf_waits {e : OrderEntry} (h : s.alloc.shelf = [e]) (hk : e.kind = .setTiming)
    (hramp : s.alloc.ramping ≠ []) : serveShelf s = s.raise [.examine] := by
  simp only [serveShelf, h, hk, if_true, List.isEmpty_iff, hramp, if_false]

theorem mem_allSlots (j : SlotId) : j ∈ allSlots := by revert j; decide

/-- While no MIN-ON has passed, a SET-TIMING changes settings and deferrals alone (R81). -/
theorem timed_defers (h : ∀ i, (s.pwr i).deferral ≠ none →
    refPassed s.time (s.pwr i).onRef (s.pwr i).goodTime (s.settingsParam c).minOn = false) :
    (∃ pw, s.timed c = { s.onBehalf c with settings := s.settingsParam c, power := pw })
    ∧ ∀ j, (s.timed c).pwr j = (s.pwr j).deferTo (s.settingsParam c).minOn := by
  rw [State.timed, retests_defer _ _ h]
  refine ⟨deferrals_eq .., fun j => ?_⟩
  rw [deferrals_pwr, if_pos (mem_allSlots j)]
  rfl

/-- A record shows the power-good and the power-off time of its slot's power, no deadline (R2). -/
theorem recordView_of_times (hslots : t.slots = s.slots) (hengines : t.engines = s.engines) (hports : t.ports = s.ports)
    (hpower : ∀ j, (t.pwr j).goodTime = (s.pwr j).goodTime ∧ (t.pwr j).offTime = (s.pwr j).offTime) (i : SlotId) :
    t.recordView i = s.recordView i := by
  unfold State.recordView State.mirrorPort
  simp only [slot_congr hslots, engine_congr hengines, portOf_congr hports, hpower]

theorem fronted_settingsParam (k : OrderKind) (b : Option Word16) (l : List SlotId) :
    (s.fronted c k b l).settingsParam c = s.settingsParam c := by
  simp [State.settingsParam, State.rd8, State.rd16, State.rd32]

/-- A SET-TIMING that no deferred MIN-ON passes (R57, R73, R81). -/
theorem setTiming_defers (hinv : Inv s) (hq : s.Quiet) (ht : s.Takes c .setTiming) (hshelf : s.alloc.shelf = [])
    (hramp : s.alloc.ramping = []) (h : ∀ i, (s.pwr i).deferral ≠ none →
      refPassed s.time (s.pwr i).onRef (s.pwr i).goodTime (s.settingsParam c).minOn = false) :
    ∃ t, exec .setTiming s = .next t ∧ t.settings = s.settingsParam c
    ∧ t.cell c = .finished ∧ t.rd8 c 0x1C = OrderOutcome.done.code ∧ t.alloc.shelf = []
    ∧ (∀ i, t.pwr i = (s.pwr i).deferTo (s.settingsParam c).minOn)
    ∧ t.slots = s.slots ∧ t.ports = s.ports ∧ t.engines = s.engines ∧ OtherCells c s t := by
  have param := fun b => fronted_settingsParam (s := s) (c := c) .setTiming b []
  have fpwr : ∀ b j, (s.fronted c .setTiming b []).pwr j = s.pwr j := fun b => pwr_congr (by simp)
  have served := fun b => serveShelf_timing (s := s.fronted c .setTiming b []) (e := ⟨c, .setTiming, s.time⟩)
    (by simp [hshelf]) rfl (by simp [hramp])
  have timed : ∀ b, _ ∧ _ := fun b => timed_defers (s := s.fronted c .setTiming b []) (c := c) fun i => by
    rw [fpwr, param, (fronted_frame ..).1]
    exact h i
  have frame : ∀ b, ((s.fronted c .setTiming b []).timed c).slots = s.slots
      ∧ ((s.fronted c .setTiming b []).timed c).ports = s.ports
      ∧ ((s.fronted c .setTiming b []).timed c).engines = s.engines
      ∧ ((s.fronted c .setTiming b []).timed c).settings = s.settingsParam c
      ∧ ((s.fronted c .setTiming b []).timed c).work = [] ∧ ((s.fronted c .setTiming b []).timed c).late = []
      ∧ ((s.fronted c .setTiming b []).timed c).alloc.shelf = [⟨c, .setTiming, s.time⟩]
      ∧ ((s.fronted c .setTiming b []).timed c).alloc.queue = []
      ∧ CellsKept (s.fronted c .setTiming b []) ((s.fronted c .setTiming b []).timed c) := fun b => by
    obtain ⟨pw, he⟩ := (timed b).1
    simp [he, ht.late, hshelf, hq.queue, param, CellsKept]
  have pwr : ∀ b j, ((s.fronted c .setTiming b []).timed c).pwr j = (s.pwr j).deferTo (s.settingsParam c).minOn :=
    fun b j => by rw [(timed b).2, fpwr, param]
  obtain ⟨b, l, b', he, hl⟩ := exec_take_served ht rfl hshelf fun b => by
    rw [served]
    dsimp only
    obtain ⟨slots, ports, engines, settings, work, late, shelf, queue, -⟩ := frame b
    have pwr := pwr b
    generalize (s.fronted c .setTiming b []).timed c = y at *
    refine ⟨finishFront_ends _ _ (by simp) (by simp) (by simp [work]) (by simp [late]) (by simp [shelf])
      (by simp [queue]), recordView_of_times (by simp [slots]) (by simp [engines]) (by simp [ports]) fun j => ?_⟩
    rw [raise_pwr, pwr_congr (t := finishFront _ _ _) (s := y) (by simp), pwr]
    obtain ⟨good, off, -⟩ := deferTo_times (s.settingsParam c).minOn (s.pwr j)
    exact ⟨good, off⟩
  obtain ⟨slots, ports, engines, settings, -, -, shelf, -, kept⟩ := frame b
  have pwr := pwr b
  rw [served] at he
  dsimp only at he
  generalize (s.fronted c .setTiming b []).cellTag c = tag at *
  generalize (s.fronted c .setTiming b []).timed c = y at *
  have kept' : CellsKept (s.fronted c .setTiming b []) (y.announced tag) := kept.trans (by simp [CellsKept])
  obtain ⟨finished, -, others⟩ := front_finished (l := l) (b' := b') hinv.mem kept' .done [.serve, .examine]
  obtain ⟨tslots, tpower, tports, tengines, tsettings, -, talloc⟩ := front_rest (e := ⟨c, .setTiming, s.time⟩) (b := b')
    (u := y.announced tag) hl .done [.serve, .examine]
  generalize ((finishFront ⟨c, .setTiming, s.time⟩ .done (y.announced tag)).raise [.serve, .examine]).ended l b' = t at *
  refine ⟨t, he, tsettings.trans (by simp [settings]), finished.cell, finished.code, ?_, fun j => ?_,
    tslots.trans (by simp [slots]), tports.trans (by simp [ports]), tengines.trans (by simp [engines]), others⟩
  · rw [talloc]
    simp [shelf]
  · rw [pwr_congr (tpower.trans (announced_frame y tag).2.2.1), pwr]

/-- A SET-TIMING that waits for the end of a ramp (R73). -/
theorem setTiming_waits (hq : s.Quiet) (ht : s.Takes c .setTiming) (hshelf : s.alloc.shelf = [])
    (hramp : s.alloc.ramping ≠ []) : ∃ t, exec .setTiming s = .next t
    ∧ t.cell c = .taken ∧ t.settings = s.settings ∧ t.alloc.shelf = [⟨c, .setTiming, s.time⟩] ∧ t.mem = s.mem
    ∧ t.slots = s.slots ∧ t.power = s.power ∧ t.journal = s.journal ∧ OtherCells c s t ∧ t.ports = s.ports := by
  have served := fun b => serveShelf_waits (s := s.fronted c .setTiming b []) (e := ⟨c, .setTiming, s.time⟩)
    (by simp [hshelf]) rfl (by simpa using hramp)
  obtain ⟨b, l, b', he, hl⟩ := exec_take_served ht rfl hshelf fun b => by
    rw [served]
    refine ⟨.of_jobs (js := [.examine]) ?_ (by simp [ht.late]) (by simp) fun y hy => ?_,
      fun i => recordView_congr ?_ ?_ ?_ ?_ i⟩
    · rw [raise_jobs, jobs_nil (by simp), List.nil_append]
    · obtain rfl := List.mem_singleton.mp hy
      simp [Job.Idle, hq.queue]
    all_goals simp
  rw [served] at he
  have cell : (s.fronted c .setTiming b []).cell c = .taken :=
    (cell_congr (t := s.fronted c .setTiming b []) (s := s.setCell c .taken) (by simp [State.setCell]) c).trans
      (setCell_cell_self ..)
  have others := fronted_otherCells s c .setTiming b []
  obtain ⟨-, mem, -, slots, power, settings, ports, -, journal, -, -, alloc⟩ := fronted_frame s c .setTiming b []
  generalize s.fronted c .setTiming b [] = v at *
  refine ⟨_, he, ?_, ?_, ?_, ?_, (ended_slots _ _ hl).trans ?_, ?_, ?_, ?_, ?_⟩
  · simpa using cell
  · simpa using settings
  · simp [alloc, hshelf]
  · simpa using mem
  · simpa using slots
  · simpa using power
  · simpa using journal
  · exact others.trans (CellsKept.otherCells (CellsKept.trans ⟨rfl, rfl⟩ (ended_cellsKept ..)) c)
  · simpa using ports

/-! ### A SET-TIMING that opens a switch -/

/-- A slot with no deferral is not tested (R81). -/
theorem retests_none : ∀ (l : List SlotId) {s : State}, (∀ i, (s.pwr i).deferral = none) →
    l.foldl retestDeferral s = s
  | [], _, _ => rfl
  | i :: l, s, h => by
    have stands : retestDeferral s i = s := if_neg (by simp [h i])
    rw [List.foldl_cons, stands]
    exact retests_none l h

/-- With no slot ramping, an opening switch is of its slot's power alone (R91). -/
theorem powerOff_unramped (hon : (s.pwr i).switchOn = true) (hramp : s.alloc.ramping = []) :
    powerOff i s = s.modPower i (Power.turnOff s.time) := by
  have stands : rampEnded i s = s := if_neg (by simp [hramp])
  rw [powerOff, if_pos hon, stands, ite_self]

/-- The one slot whose deferred MIN-ON has passed opens its switch (R81, R92). -/
theorem retests_opens (hdef : (s.pwr i).deferral ≠ none) (hpassed : s.minOnPassed i = true)
    (hothers : ∀ j, j ≠ i → (s.pwr j).deferral = none) (hon : (s.pwr i).switchOn = true)
    (hramp : s.alloc.ramping = []) : ∀ (l : List SlotId), i ∈ l →
    l.foldl retestDeferral s = (s.modPower i (Power.turnOff s.time)).raise [.switchOpened i]
  | [], h => absurd h List.not_mem_nil
  | j :: l, h => by
    rw [List.foldl_cons]
    by_cases hj : j = i
    · subst hj
      have opens : retestDeferral s j = (s.modPower j (Power.turnOff s.time)).raise [.switchOpened j] := by
        rw [retestDeferral, if_pos (Option.isSome_iff_ne_none.mpr hdef), if_pos hpassed, powerOff_unramped hon hramp]
      rw [opens]
      refine retests_none l fun k => ?_
      rw [raise_pwr]
      by_cases hk : k = j
      · subst hk
        rw [modPower_pwr_self]
        rfl
      · rw [modPower_pwr_ne _ _ _ _ hk]
        exact hothers k hk
    · have stands : retestDeferral s j = s := if_neg (by simp [hothers j hj])
      rw [stands]
      exact retests_opens hdef hpassed hothers hon hramp l ((List.mem_cons.mp h).resolve_left fun e => hj e.symm)

/-- A state in which a SET-TIMING has applied and finished, and has opened the switch of slot `i`. -/
structure State.TimingOpens (s : State) (c : CellId) (i : SlotId) (v : State) : Prop where
  jobs : v.jobs = [.switchOpened i, .serve, .examine]
  late : v.late = []
  slots : v.slots = s.slots
  pwr : v.pwr i = (s.pwr i).turnOff s.time
  power : OtherPower i s v
  alloc : v.alloc = { s.alloc with shelf := [] }
  engines : v.engines = s.engines
  ports : v.ports = s.ports
  settings : v.settings = s.settingsParam c
  time : v.time = s.time
  mem : Memory.wf v.mem = true
  finished : v.Finished c OrderOutcome.done.code 0 0xFF 0
  cells : OtherCells c s v

section
variable (hinv : Inv s) (ht : s.Takes c .setTiming) (hshelf : s.alloc.shelf = []) (hramp : s.alloc.ramping = [])
  (hdef : (s.pwr i).deferral ≠ none)
  (hpassed : refPassed s.time (s.pwr i).onRef (s.pwr i).goodTime (s.settingsParam c).minOn = true)
  (hothers : ∀ j, j ≠ i → (s.pwr j).deferral = none) (hon : (s.pwr i).switchOn = true)
include hinv ht hshelf hramp hdef hpassed hothers hon

/-- A SET-TIMING that is served opens the switch of the slot whose deferred MIN-ON has passed (R81). -/
theorem serveShelf_opens (b : Option Word16) : s.TimingOpens c i (serveShelf (s.fronted c .setTiming b [])) := by
  have fpwr : ∀ j, (s.fronted c .setTiming b []).pwr j = s.pwr j := pwr_congr (by simp)
  have param := fronted_settingsParam (s := s) (c := c) .setTiming b []
  have served := serveShelf_timing (s := s.fronted c .setTiming b []) (e := ⟨c, .setTiming, s.time⟩)
    (by simp [hshelf]) rfl (by simp [hramp])
  obtain ⟨time, mem, cells, slots, power, settings, ports, engines, journal, work, late, alloc⟩ :=
    fronted_frame s c .setTiming b []
  have finish := front_finishes (k := .setTiming) (b := b) (c := c)
    (u := ((s.fronted c .setTiming b []).timed c).announced ((s.fronted c .setTiming b []).cellTag c)) hinv.mem
  dsimp only at served
  rw [served]
  generalize s.fronted c .setTiming b [] = x at *
  have timed : x.timed c = (({ x.onBehalf c with settings := x.settingsParam c } : State).modPower i
      (Power.turnOff x.time)).raise [.switchOpened i] := by
    refine retests_opens (s := { x.onBehalf c with settings := x.settingsParam c }) ?_ ?_ (fun j hj => ?_) ?_ ?_ _
      (mem_allSlots i)
    · exact fpwr i ▸ hdef
    · show refPassed x.time (x.pwr i).onRef (x.pwr i).goodTime (x.settingsParam c).minOn = true
      rw [fpwr, time, param]
      exact hpassed
    · exact (congrArg Power.deferral (fpwr j)).trans (hothers j hj)
    · exact (congrArg Power.switchOn (fpwr i)).trans hon
    · exact (congrArg Allocator.ramping alloc).trans hramp
  have kept : CellsKept x ((x.timed c).announced (x.cellTag c)) := by simp [timed, CellsKept]
  obtain ⟨finished, -, others⟩ := finish kept .done
  have wf := finishFront_wf (e := ⟨c, .setTiming, s.time⟩) (s := (x.timed c).announced (x.cellTag c))
    (by rw [kept.2, mem]; exact hinv.mem) .done
  have tpwr : (x.timed c).pwr i = (s.pwr i).turnOff s.time ∧ ∀ j, j ≠ i → (x.timed c).pwr j = s.pwr j := by
    rw [timed]
    refine ⟨?_, fun j hj => ?_⟩
    · rw [raise_pwr, modPower_pwr_self, time]
      exact congrArg (Power.turnOff s.time) (fpwr i)
    · rw [raise_pwr, modPower_pwr_ne _ _ _ _ hj]
      exact fpwr j
  have tjobs : (x.timed c).jobs = [.switchOpened i] := by
    rw [timed, raise_jobs]
    exact congrArg (· ++ _) (jobs_nil work)
  have frame : (x.timed c).slots = s.slots ∧ (x.timed c).engines = s.engines ∧ (x.timed c).ports = s.ports
      ∧ (x.timed c).settings = s.settingsParam c ∧ (x.timed c).time = s.time ∧ (x.timed c).late = []
      ∧ (x.timed c).alloc = { s.alloc with shelf := [⟨c, .setTiming, s.time⟩] } := by
    simp [timed, slots, engines, ports, param, time, late, ht.late, alloc, hshelf]
  generalize x.timed c = y at *
  obtain ⟨yslots, yengines, yports, ysettings, ytime, ylate, yalloc⟩ := frame
  obtain ⟨ztime, zslots, zpower, zsettings, zports, zengines, -, zwork, zlate, zalloc⟩ :=
    finishFront_frame ⟨c, .setTiming, s.time⟩ .done (y.announced (x.cellTag c))
  generalize finishFront ⟨c, .setTiming, s.time⟩ .done (y.announced (x.cellTag c)) = z at *
  have raised : CellsKept z (z.raise [.serve, .examine]) := ⟨rfl, rfl⟩
  have zpwr : ∀ j, z.pwr j = y.pwr j := pwr_congr (zpower.trans (announced_frame ..).2.2.1)
  refine ⟨?_, ?_, ?_, ?_, fun j hj => ?_, ?_, ?_, ?_, ?_, ?_, wf, finished.of_kept raised,
    others.trans (raised.otherCells c)⟩
  · rw [raise_jobs, jobs_congr (t := z) (s := y) (by simp [zwork]), tjobs]
    rfl
  · simp [zlate, ylate]
  · simp [zslots, yslots]
  · rw [raise_pwr, zpwr, tpwr.1]
  · rw [raise_pwr, zpwr, tpwr.2 j hj]
  · simp [zalloc, yalloc]
  · simp [zengines, yengines]
  · simp [zports, yports]
  · simp [zsettings, ysettings]
  · simp [ztime, ytime]

end

/-- The state from which the switch has opened. -/
theorem State.TimingOpens.opened {v : State} (h : s.TimingOpens c i v) (b : Option Word16) (l : List SlotId) :
    ((v.resume none []).modPower i fun _ => s.pwr i).Opened i (v.resume b l) where
  slot := rfl
  pwr := by
    rw [modPower_pwr_self, (resume_reads ..).2.1, h.pwr, ← h.time]
    rfl
  power j hj := by
    rw [modPower_pwr_ne _ _ _ _ hj]
    rfl
  alloc := ⟨_, rfl⟩
  engines _ _ := rfl
  ports := rfl
  settings := rfl
  time := rfl
  cells := ⟨rfl, rfl⟩
  work := rfl
  late := h.late

theorem State.TimingOpens.ready {v : State} (h : s.TimingOpens c i v) (hinv : Inv s) (hq : s.Quiet)
    (hstate : (s.slot i).state = .poweringOff) (hlatch : (s.slot i).latch = false) (hon : (s.pwr i).switchOn = true)
    (horders : (s.slot i).orders = [] ∨ (s.slot i).active = true ∧ (s.slot i).orders.length = 1) :
    ((v.resume none []).modPower i fun _ => s.pwr i).OpensInOrder i := by
  have slot : ((v.resume none []).modPower i fun _ => s.pwr i).slot i = s.slot i := slot_congr h.slots i
  have alloc : ((v.resume none []).modPower i fun _ => s.pwr i).alloc = { s.alloc with shelf := [] } := h.alloc
  refine ⟨?_, ?_, ?_, ?_, ?_, ?_, ?_, h.mem, rfl, h.late⟩
  · rw [slot, hstate]
  · rw [slot, hlatch]
  · rw [modPower_pwr_self, hon]
  · rw [slot]
    exact horders
  · rw [alloc]
    rfl
  · rw [alloc]
    exact hq.queue
  · rw [alloc]
    exact ⟨hinv.alloc.granted, hinv.alloc.capacity, by simp⟩

/-- The third part of O33, a switch that opens. -/
theorem setTiming_opens (hinv : Inv s) (hq : s.Quiet) (ht : s.Takes c .setTiming) (hshelf : s.alloc.shelf = [])
    (hramp : s.alloc.ramping = []) (hdef : (s.pwr i).deferral ≠ none)
    (hpassed : refPassed s.time (s.pwr i).onRef (s.pwr i).goodTime (s.settingsParam c).minOn = true)
    (hothers : ∀ j, j ≠ i → (s.pwr j).deferral = none) (hstate : (s.slot i).state = .poweringOff)
    (hlatch : (s.slot i).latch = false) (hon : (s.pwr i).switchOn = true)
    (horders : (s.slot i).orders = [] ∨ (s.slot i).active = true ∧ (s.slot i).orders.length = 1)
    (hcells : ∀ e ∈ (s.slot i).orders, e.cell ≠ c) :
    ∃ t, exec .setTiming s = .next t ∧ t.settings = s.settingsParam c
    ∧ t.cell c = .finished ∧ t.rd8 c 0x1C = OrderOutcome.done.code ∧ t.alloc.shelf = []
    ∧ (t.slot i).state = .parked ∧ (t.slot i).prev = .poweringOff ∧ (t.slot i).claim = 0
    ∧ (t.slot i).retire = none ∧ (t.slot i).orders = []
    ∧ t.pwr i = (s.pwr i).turnOff s.time
    ∧ t.alloc.claims[i] = 0 ∧ t.alloc.granted + s.alloc.claims[i] = s.alloc.granted
    ∧ (∀ e, (s.slot i).orders = [e] → t.cell e.cell = .finished
      ∧ t.rd8 e.cell 0x1C = OrderOutcome.done.code
      ∧ t.rd8 e.cell 0x1E = SlotState.parked.code ∧ t.rd8 e.cell 0x1D = 0)
    ∧ OtherSlots i s t ∧ OtherPower i s t ∧ t.ports = s.ports := by
  obtain ⟨b, l, he, -⟩ := exec_take_serves ht rfl hshelf
  have opens := serveShelf_opens hinv ht hshelf hramp hdef hpassed hothers hon b
  generalize serveShelf (s.fronted c .setTiming b []) = v at *
  have ready := opens.ready hinv hq hstate hlatch hon horders
  have reports := fun b' l' => ready.reports (opens.opened b' l')
  have wslot : ∀ j, ((v.resume none []).modPower i fun _ => s.pwr i).slot j = s.slot j := slot_congr opens.slots
  have walloc : ((v.resume none []).modPower i fun _ => s.pwr i).alloc = { s.alloc with shelf := [] } := opens.alloc
  obtain ⟨b', l1, l2, b'', hends⟩ := drain_acts_ends (s := { v with changed := l }) (n := 4095) (pre := [])
    (brought := (if s.alloc.claims[i] = 0 then [] else [.examine]) ++ [.start i, .handle i]) opens.jobs
    (fun _ hx => absurd hx List.not_mem_nil) (by split <;> simp) fun b' l' => by
      obtain ⟨jobs, late, queue, parks⟩ := reports b' l'
      rw [walloc] at jobs
      refine ⟨jobs, late, fun y hy => ?_⟩
      rcases List.mem_append.mp hy with hy | hy
      · refine parks.idle queue (by rw [wslot]; exact hlatch) y ?_
        rw [walloc]
        exact hy
      · simp only [List.mem_cons, List.not_mem_nil, or_false] at hy
        obtain rfl | rfl := hy
        · exact parks.shelf.trans (congrArg Allocator.shelf walloc)
        · exact queue
  have parks := (reports b' l1).2.2.2.ended l2 b''
  have wcells : CellsKept v ((v.resume none []).modPower i fun _ => s.pwr i) := ⟨rfl, rfl⟩
  have wports : ((v.resume none []).modPower i fun _ => s.pwr i).ports = s.ports := opens.ports
  have wsettings : ((v.resume none []).modPower i fun _ => s.pwr i).settings = s.settingsParam c := opens.settings
  have wtime : ((v.resume none []).modPower i fun _ => s.pwr i).time = s.time := opens.time
  have wself : ((v.resume none []).modPower i fun _ => s.pwr i).pwr i = s.pwr i := modPower_pwr_self ..
  have wpower : ∀ j, j ≠ i → ((v.resume none []).modPower i fun _ => s.pwr i).pwr j = s.pwr j := fun j hj =>
    (modPower_pwr_ne _ _ _ _ hj).trans (opens.power j hj)
  have finished := opens.finished.of_kept wcells
  refine ⟨(switchOpened i (v.resume b' l1)).ended l2 b'', he.trans (congrArg Host.Outcome.next hends), ?_⟩
  generalize (switchOpened i (v.resume b' l1)).ended l2 b'' = t at *
  generalize (v.resume none []).modPower i (fun _ => s.pwr i) = w at *
  obtain ⟨⟨a, rd, like⟩, pwr, claims, granted, order, cells, shelf, slots, power, -, ports, settings⟩ := parks
  have done := finished.of_stands (cells c (by rw [wslot]; exact hcells))
  rw [walloc] at shelf granted
  rw [wslot] at like order
  rw [wself, wtime] at pwr
  refine ⟨settings.trans wsettings, done.cell, done.code, shelf, like.field Slot.state fun _ _ => rfl,
    (like.field Slot.prev fun _ _ => rfl).trans hstate, like.field Slot.claim fun _ _ => rfl,
    like.field Slot.retire fun _ _ => rfl, like.field Slot.orders fun _ _ => rfl, pwr, claims, granted,
    fun e he => ⟨(order e he).cell, (order e he).code, (order e he).state, (order e he).fault⟩, fun j hj => ?_,
    fun j hj => (power j hj).trans (wpower j hj), ports.trans wports⟩
  rw [← wslot j]
  exact slots j hj

theorem refPassed_iff {now time : Time} {ref : Option Time} {limit : Nat} :
    refPassed now ref time limit = true ↔ ref = none ∨ limit ≤ (now - time).toNat := by
  rw [refPassed, Bool.or_eq_true, decide_eq_true_eq, Option.isNone_iff_eq_none]

/-- Settles O33. -/
theorem shelfOrdersApply : Obligations.ShelfOrdersApply := by
  refine ⟨fun s c hinv hq ht hshelf => setBudget_applies hinv hq ht hshelf, fun s c hinv hq ht hshelf => ?_,
    fun s c hinv hq ht hshelf hramp => ⟨fun h => ?_, fun i hdef hpassed hothers hstate hlatch hon horders hcells => ?_⟩⟩
  · by_cases hramp : s.alloc.ramping = []
    · by_cases hdef : ∀ i, (s.pwr i).deferral = none
      · obtain ⟨t, he, settings, cell, code, shelf, pwr, slots, ports, engines, cells⟩ :=
          setTiming_defers hinv hq ht hshelf hramp fun i h => absurd (hdef i) h
        refine ⟨t, he, fun _ _ => ⟨cell, code, shelf, settings, slots, ?_, cells⟩, fun h => absurd hramp h, fun _ => ports⟩
        exact Vector.ext fun k hk => (pwr ⟨k, hk⟩).trans (if_pos (hdef _))
      · exact ⟨_, exec_take_passes ht, fun _ h => absurd h hdef, fun h => absurd hramp h, fun h =>
          absurd h (by simp [hramp, hdef])⟩
    · obtain ⟨t, he, cell, settings, shelf, mem, slots, power, journal, cells, ports⟩ := setTiming_waits hq ht hshelf hramp
      exact ⟨t, he, fun h => absurd h hramp, fun _ => ⟨cell, settings, shelf, mem, slots, power, journal, cells⟩,
        fun _ => ports⟩
  · exact setTiming_defers hinv hq ht hshelf hramp fun i hi =>
      Bool.eq_false_iff.mpr fun passed => h i hi (refPassed_iff.mp passed)
  · exact setTiming_opens hinv hq ht hshelf hramp hdef (refPassed_iff.mpr hpassed) hothers hstate hlatch hon horders
      hcells

end Sys2Proof.Machine

/-! The deadlines of a port (R110, R116, R118). -/

namespace Sys2Proof.Machine

variable {s t u v : State} {i j : SlotId} {p q : PortId} {M : PortId → Prop}

/-! ### Events on one port -/

/-- A move of a port that keeps the course of its slots ends no join and no leave. -/
theorem State.KeepsCourse.lateIdle (h : s.KeepsCourse p) (hports : ∀ q, q ≠ p → t.portOf q = s.portOf q)
    (hslots : t.slots = s.slots) (hj : j = nodeSlot p ∨ j = hubSlot p) : LateIdle t j := by
  have mem : j ∈ [nodeSlot p, hubSlot p] := by rcases hj with rfl | rfl <;> simp
  rw [LateIdle, slot_congr hslots]
  refine ⟨fun ⟨hstate, hdone⟩ => ?_, fun ⟨hstate, hdone⟩ => ?_⟩
  · obtain ⟨q, hq, hne, hcourse⟩ := h.joining j mem hstate
    have done := List.all_eq_true.mp hdone q hq
    rw [hports q hne] at done
    rcases hcourse with hcourse | hcourse <;> simp [hcourse] at done
  · obtain ⟨q, hq, hne, hcourse⟩ := h.leaving j mem hstate
    have done := List.all_eq_true.mp hdone q hq
    rw [hports q hne] at done
    exact hcourse (of_decide_eq_true done)

/-- An act on ports that brings no join and no leave to its end stands at the end of its event. -/
theorem State.Moves.atEnd (h : s.Moves M u) (hl : s.Live)
    (hidle : ∀ j, (∃ p, M p ∧ (j = nodeSlot p ∨ j = hubSlot p)) → LateIdle u j) : u.AtEnd 4096 := by
  have within := h.late (fun j => ∃ p, M p ∧ (j = nodeSlot p ∨ j = hubSlot p))
    (fun p hp => ⟨⟨p, hp, .inl rfl⟩, ⟨p, hp, .inr rfl⟩⟩) (.of_nil hl.late)
  exact within.atEnd (js := []) (jobs_nil (h.work.trans hl.work)) (fun _ hx => absurd hx List.not_mem_nil) hidle
    (by simp)

/-- What the end of an event leaves of a state that differs from `s` in ports, engines and notices alone. -/
structure State.PortsMoved (s u t : State) : Prop where
  ports : ∀ q, t.portOf q = u.portOf q
  engines : ∀ j, t.engine j = u.engine j
  journal : t.journal = u.journal
  slots : ∀ j, (t.slot j).Like (s.slot j)
  cells : CellsKept s t
  alloc : t.alloc = s.alloc
  power : t.power = s.power

/-- The event of an act on ports. -/
theorem State.Moves.ends (h : s.Moves M u) (hend : u.AtEnd 4096) (hl : s.Live) {act : State → State}
    (hact : act s = u) : ∃ t, liveEvent act s = t ∧ s.PortsMoved u t := by
  obtain ⟨l, b, -, he⟩ := hend.liveEvent hl hact
  refine ⟨_, he, (ended_reads ..).2.2.2.2.1, (ended_reads ..).2.2.1, by simp, fun j => ?_,
    CellsKept.trans ⟨h.cells, h.mem⟩ (ended_cellsKept ..), by simp [h.alloc], by simp [h.power]⟩
  rw [(ended_reads ..).1, ← slot_congr h.slots j]
  exact Slot.written_like _ _

/-- The event of a reply that is taken by an act on ports. -/
theorem State.Moves.ends_freed (h : s.Moves M u) (hend : u.AtEnd 4096) (hl : s.Live) {act : State → State}
    (hact : act s = u.freed i) : ∃ t, liveEvent act s = t ∧ s.PortsMoved (u.freed i) t := by
  obtain ⟨l, b, -, he⟩ := hend.freed.liveEvent hl hact
  have freed : (u.freed i).slots = u.slots ∧ CellsKept u (u.freed i) ∧ (u.freed i).alloc = u.alloc
      ∧ (u.freed i).power = u.power := ⟨rfl, ⟨rfl, rfl⟩, rfl, rfl⟩
  obtain ⟨fslots, fcells, falloc, fpower⟩ := freed
  generalize u.freed i = v at *
  refine ⟨_, he, (ended_reads ..).2.2.2.2.1, (ended_reads ..).2.2.1, by simp, fun j => ?_,
    CellsKept.trans ⟨h.cells, h.mem⟩ (fcells.trans (ended_cellsKept ..)), by simp [falloc, h.alloc],
    by simp [fpower, h.power]⟩
  rw [(ended_reads ..).1, ← slot_congr (fslots.trans h.slots) j]
  exact Slot.written_like _ _

theorem hubSlot_ne_nodeSlot (p q : PortId) : hubSlot p ≠ nodeSlot q := fun h => nodeSlot_ne_hubSlot q p h.symm

/-- A DROP undoes the ADMIT of its node (R134). -/
theorem drop_undoes (p : PortId) : Msg.undoes (.drop p.node) = fun m => decide (m = .admitNode p.node) := by
  funext m
  cases m <;> simp [Msg.undoes, eq_comm]

theorem withdraw_undoes (p : PortId) : Msg.undoes (.withdraw p.node) = fun m => decide (m = .admitNode p.node) := by
  funext m
  cases m <;> simp [Msg.undoes, eq_comm]

theorem pathOpen_undoes (p : PortId) : Msg.undoes (.pathOpen p.hub) = fun _ => false := by
  funext m
  cases m <;> rfl

theorem pathLost_undoes (p : PortId) : Msg.undoes (.pathLost p.hub) = fun _ => false := by
  funext m
  cases m <;> rfl

theorem admit_undoes (p : PortId) : Msg.undoes (.admitNode p.node) = fun _ => false := by
  funext m
  cases m <;> rfl

/-! ### An offer that lapses -/

/-- The state in which a lapsed offer is taken back (R110). -/
def State.lapsed (s : State) (p : PortId) : State :=
  let v := s.modPort p fun x => { x.isolate with declined := true }
  if (v.engine (hubSlot p)).queued (fun m => decide (m = .admitNode p.node)) then v
  else endMessages (hubSlot p) (fun m => decide (m = .admitNode p.node)) v

theorem moves_lapsed (s : State) (p : PortId) : s.Moves (· = p) (s.lapsed p) := by
  unfold State.lapsed
  dsimp only
  split
  · exact .modPort s (M := (· = p)) (p := p) rfl _
  · exact (State.Moves.modPort s (M := (· = p)) (p := p) rfl _).trans
      (.endMessage _ (M := (· = p)) (p := p) (m := .admitNode p.node) rfl (.inr ⟨rfl, rfl⟩))

/-- What a lapsed offer leaves of the hub's engine (R110). -/
theorem lapsed_engine (s : State) (p : PortId) :
    (∀ f, (s.engine (hubSlot p)).queued f = false → ((s.lapsed p).engine (hubSlot p)).queued f = false)
    ∧ ((s.engine (hubSlot p)).queued (fun m => decide (m = .admitNode p.node)) = true →
      (s.lapsed p).engine (hubSlot p) = s.engine (hubSlot p))
    ∧ ∀ j, j ≠ hubSlot p → (s.lapsed p).engine j = s.engine j := by
  have moved : ∀ j, (s.modPort p fun x => { x.isolate with declined := true }).engine j = s.engine j := fun _ => rfl
  unfold State.lapsed
  dsimp only
  generalize s.modPort p (fun x => { x.isolate with declined := true }) = v at *
  rw [← moved (hubSlot p)]
  split
  · exact ⟨fun _ h => h, fun _ => rfl, fun j _ => moved j⟩
  · next hq =>
    refine ⟨fun f h => ?_, fun h => absurd h hq, fun j hj => (modEngine_engine_ne _ _ _ _ hj).trans (moved j)⟩
    rw [endMessages, modEngine_engine_self]
    exact List.any_eq_false.mpr fun q hq => List.any_eq_false.mp h q (List.mem_of_mem_filter hq)

/-- The queued messages that a placed message undoes are gone, and the line is as it was (R134). -/
theorem placePort_undoing {m : Msg} (h : (s.engine i).queued m.undoes = true) :
    ((placePort i m s).engine i).queued m.undoes = false ∧ ((placePort i m s).engine i).out = (s.engine i).out := by
  rw [placePort_eq, modEngine_engine_self, Engine.ported, if_pos h]
  refine ⟨List.any_eq_false.mpr fun q hq => ?_, rfl⟩
  simpa using (List.mem_filter.mp hq).2

/-- The offer deadline of an OFFERED port passes (R110). -/
theorem offerExpired_eq (hstate : (s.portOf p).state = .offered) (hdue : due s.time (s.portOf p).deadline = true) :
    offerExpired p s = portNotice p .offerTimeout .isolated
      (if (s.lapsed p).linkUp (hubSlot p) then placePort (hubSlot p) (.drop p.node) (s.lapsed p) else s.lapsed p) :=
  if_pos ⟨hstate, hdue⟩

/-- The first part of O47. -/
theorem offer_lapses (hl : s.Live) (hstate : (s.portOf p).state = .offered)
    (hdue : due s.time (s.portOf p).deadline = true) (hcourse : s.KeepsCourse p) :
    ∃ t, exec (.offerDeadlineExpiry p) s = .next t
    ∧ t.portOf p = ⟨.isolated, true, (s.portOf p).attempts, none, false⟩
    ∧ (s.linkUp (hubSlot p) = true →
      ((s.engine (hubSlot p)).queued (fun m => decide (m = .admitNode p.node)) = true →
        (t.engine (hubSlot p)).queued (fun m => decide (m = .admitNode p.node)) = false
        ∧ (t.engine (hubSlot p)).out = (s.engine (hubSlot p)).out)
      ∧ ((s.engine (hubSlot p)).queued (fun m => decide (m = .admitNode p.node)) = false →
        (t.engine (hubSlot p)).Carries (.drop p.node)))
    ∧ (∀ q, q ≠ p → t.portOf q = s.portOf q) ∧ (∀ j, (t.slot j).Like (s.slot j))
    ∧ CellsKept s t ∧ t.alloc = s.alloc ∧ t.power = s.power ∧ OtherEngines (hubSlot p) s t := by
  have act := offerExpired_eq hstate hdue
  have moves := moves_lapsed s p
  obtain ⟨queued, same, others⟩ := lapsed_engine s p
  have port : (s.lapsed p).portOf p = ⟨.isolated, true, (s.portOf p).attempts, none, false⟩ := by
    unfold State.lapsed
    dsimp only
    split <;> simp [Port.isolate]
  generalize s.lapsed p = v at *
  have moves' : s.Moves (· = p)
      (if v.linkUp (hubSlot p) then placePort (hubSlot p) (.drop p.node) v else v) := by
    split
    · exact moves.trans (.placePort v (M := (· = p)) (p := p) rfl (.inr ⟨rfl, rfl⟩))
    · exact moves
  have port' : (if v.linkUp (hubSlot p) then placePort (hubSlot p) (.drop p.node) v else v).portOf p =
      ⟨.isolated, true, (s.portOf p).attempts, none, false⟩ := by
    split
    · simpa using port
    · exact port
  have engines' : ∀ j, j ≠ hubSlot p →
      (if v.linkUp (hubSlot p) then placePort (hubSlot p) (.drop p.node) v else v).engine j = s.engine j :=
    fun j hj => by
      split
      · simpa [hj] using others j hj
      · exact others j hj
  have up : s.linkUp (hubSlot p) = true → (if v.linkUp (hubSlot p) then placePort (hubSlot p) (.drop p.node) v else v) =
      placePort (hubSlot p) (.drop p.node) v := fun hup => if_pos ((moves.links _).trans hup)
  have hub : s.linkUp (hubSlot p) = true →
      ((s.engine (hubSlot p)).queued (fun m => decide (m = .admitNode p.node)) = true →
        ((placePort (hubSlot p) (.drop p.node) v).engine (hubSlot p)).queued
          (fun m => decide (m = .admitNode p.node)) = false
        ∧ ((placePort (hubSlot p) (.drop p.node) v).engine (hubSlot p)).out = (s.engine (hubSlot p)).out)
      ∧ ((s.engine (hubSlot p)).queued (fun m => decide (m = .admitNode p.node)) = false →
        ((placePort (hubSlot p) (.drop p.node) v).engine (hubSlot p)).Carries (.drop p.node)) := fun hup => by
    refine ⟨fun hq => ?_, fun hq => carries_placePort ((moves.links _).trans hup) ?_⟩
    · have undoing := placePort_undoing (s := v) (i := hubSlot p) (m := .drop p.node)
        (by rw [drop_undoes, same hq]; exact hq)
      rw [drop_undoes, same hq] at undoing
      exact undoing
    · rw [drop_undoes]
      exact queued _ hq
  generalize (if v.linkUp (hubSlot p) then placePort (hubSlot p) (.drop p.node) v else v) = w at *
  have all := moves'.trans (.portNotice (p := p) w .offerTimeout .isolated)
  have hend := all.atEnd hl fun j ⟨p', hp', hj⟩ => by
    subst hp'
    exact hcourse.lateIdle all.ports all.slots hj
  obtain ⟨t, he, moved⟩ := all.ends hend hl act
  refine ⟨t, congrArg Host.Outcome.next he, ?_, fun hup => ?_, fun q hq => ?_, moved.slots, moved.cells, moved.alloc,
    moved.power, fun j hj => ?_⟩
  · rw [moved.ports]
    simpa using port'
  · have hub := hub hup
    rw [moved.engines, show (portNotice p .offerTimeout .isolated w).engine (hubSlot p) = w.engine (hubSlot p) by simp,
      up hup]
    exact hub
  · rw [moved.ports, all.ports q hq]
  · rw [moved.engines, show (portNotice p .offerTimeout .isolated w).engine j = w.engine j by simp, engines' j hj]

/-! ### A drain that is not over in time -/

theorem notified_engine_ne {m : Msg} (loss : Option SlotId) (h : j ≠ i) : (s.notified i m loss).engine j = s.engine j := by
  unfold State.notified
  split
  · simp [h]
  · rfl

/-- A slot that may be notified of an abrupt isolation is (R118 step 3). -/
theorem carries_notified {m : Msg} (hslot : (s.slot i).state ≠ .vacant) (hup : s.linkUp i = true)
    (hq : (s.engine i).queued m.undoes = false) : ((s.notified i m none).engine i).Carries m := by
  rw [State.notified, if_pos (by simp [State.mayNotify, hslot, hup])]
  exact carries_placePort hup hq

/-- No ADMIT of a port that is cut off is queued (R118 step 1). -/
theorem cutOff_queued (s : State) (p : PortId) :
    ((s.cutOff p).engine (hubSlot p)).queued (fun m => decide (m = .admitNode p.node)) = false := by
  have cut : (s.cutOff p).engine (hubSlot p) =
      (s.engine (hubSlot p)).endMessages (Msg.handshakeFor (some (p.node.val + 1))) := by
    simp [State.cutOff, toIsolated, endMessages, hubSlot_ne_nodeSlot]
  rw [cut]
  refine List.any_eq_false.mpr fun q hq => ?_
  have kept := (List.mem_filter.mp hq).2
  intro hm
  rw [of_decide_eq_true hm] at kept
  simp [Msg.handshakeFor, Msg.far, Msg.isNotification] at kept

/-- An abrupt isolation notifies the slots of its port (R118 step 3). -/
theorem isolatePort_notifies (h : (s.portOf p).state ≠ .isolated) :
    ((s.slot (hubSlot p)).state ≠ .vacant → s.linkUp (hubSlot p) = true →
      ((isolatePort p none false s).engine (hubSlot p)).Carries (.drop p.node))
    ∧ ((s.slot (nodeSlot p)).state ≠ .vacant → s.linkUp (nodeSlot p) = true →
      ((isolatePort p none false s).engine (nodeSlot p)).Carries (.pathLost p.hub)) := by
  have eq : isolatePort p none false s =
      ((s.cutOff p).notified (hubSlot p) (.drop p.node) none).notified (nodeSlot p) (.pathLost p.hub) none := by
    rw [isolatePort_eq, if_neg h]
    rfl
  have cut := State.Moves.cutOff s (M := (· = p)) (p := p) rfl
  have told := cut.trans (.notified _ (M := (· = p)) (p := p) (m := .drop p.node) rfl (.inr ⟨rfl, rfl⟩) none)
  rw [eq]
  refine ⟨fun hslot hup => ?_, fun hslot hup => ?_⟩
  · rw [notified_engine_ne _ (hubSlot_ne_nodeSlot p p)]
    refine carries_notified (by rw [slot_congr cut.slots]; exact hslot) ((cut.links _).trans hup) ?_
    rw [drop_undoes]
    exact cutOff_queued s p
  · refine carries_notified (by rw [slot_congr told.slots]; exact hslot) ((told.links _).trans hup) ?_
    rw [pathLost_undoes]
    exact List.any_eq_false.mpr fun _ _ => Bool.noConfusion

/-- An abrupt isolation that hands no notice. -/
theorem isolatePort_journal (s : State) (p : PortId) : (isolatePort p none false s).journal = s.journal := by
  have notified : ∀ (v : State) (i : SlotId) (m : Msg), (v.notified i m none).journal = v.journal := fun v i m => by
    unfold State.notified
    split <;> simp
  rw [isolatePort_eq]
  split
  · rfl
  · simp [notified, State.cutOff, toIsolated]

/-- A drain deadline that passes isolates its port when no withdrawal is abandoned (R116). -/
theorem drainExpired_isolates (hstate : (s.portOf p).state = .closing ∨ (s.portOf p).state = .withdrawing)
    (hdue : due s.time (s.portOf p).deadline = true)
    (hkeep : s.leavingSlots p = [] ∨ ∃ j ∈ s.leavingSlots p, s.gentle j = false) :
    drainExpired p s = offerTest p (isolatePort p none false
      (portNotice p .drainTimeout (s.portOf p).state s)) := by
  have stays : (!(s.leavingSlots p).isEmpty && (s.leavingSlots p).all s.gentle) = false := by
    rcases hkeep with h | ⟨j, hj, hg⟩
    · simp [h]
    · rw [Bool.and_eq_false_iff]
      exact .inr (List.all_eq_false.mpr ⟨j, hj, by simp [hg]⟩)
  unfold drainExpired
  dsimp only
  rw [if_pos ⟨hstate, hdue⟩, stays, if_neg Bool.noConfusion]

/-- A port that has both slots in service and is not declined is alone offered again (R104). -/
theorem offerHolds_stands (hstay : s.bothOffering p = false ∨ (s.portOf p).declined = true)
    (hslots : t.slots = s.slots) (hdeclined : (t.portOf p).declined = (s.portOf p).declined) :
    t.offerHolds p = false := by
  have both : t.bothOffering p = s.bothOffering p := by simp only [State.bothOffering, slot_congr hslots]
  unfold State.offerHolds
  rw [both, hdeclined]
  rcases hstay with h | h <;> simp [h]

/-- The second part of O47. -/
theorem drain_isolates (hinv : Inv s) (hl : s.Live)
    (hstate : (s.portOf p).state = .closing ∨ (s.portOf p).state = .withdrawing)
    (hdue : due s.time (s.portOf p).deadline = true) (hcourse : s.KeepsCourse p)
    (hkeep : s.leavingSlots p = [] ∨ ∃ j ∈ s.leavingSlots p, s.gentle j = false)
    (hstay : s.bothOffering p = false ∨ (s.portOf p).declined = true) :
    ∃ t, exec (.drainDeadlineExpiry p) s = .next t
    ∧ t.portOf p = ⟨.isolated, (s.portOf p).declined, (s.portOf p).attempts, none, false⟩
    ∧ ((s.slot (hubSlot p)).state ≠ .vacant → s.linkUp (hubSlot p) = true →
      (t.engine (hubSlot p)).Carries (.drop p.node))
    ∧ ((s.slot (nodeSlot p)).state ≠ .vacant → s.linkUp (nodeSlot p) = true →
      (t.engine (nodeSlot p)).Carries (.pathLost p.hub))
    ∧ (s.port.run = true → s.journal.full = false → s.journal.gapPending = false →
      t.journal.writeCount = s.journal.writeCount + 1
      ∧ (t.journal.entries[(entryOf s.journal.writeCount).val]'(entryOf s.journal.writeCount).isLt)
        = some (slotNotice s (nodeSlot p) (.port .drainTimeout p.hub (s.portOf p).state) none))
    ∧ (∀ q, q ≠ p → t.portOf q = s.portOf q) ∧ (∀ j, (t.slot j).Like (s.slot j))
    ∧ CellsKept s t ∧ t.alloc = s.alloc ∧ t.power = s.power := by
  have noticed : s.Moves (· = p) (portNotice p .drainTimeout (s.portOf p).state s) := .portNotice (p := p) s _ _
  have port : (portNotice p .drainTimeout (s.portOf p).state s).portOf p = s.portOf p := by simp
  have journal : (portNotice p .drainTimeout (s.portOf p).state s).journal =
      (handNotice (slotNotice s (nodeSlot p) (.port .drainTimeout p.hub (s.portOf p).state) none) s).journal := by
    rw [portNotice, hl.broughtBy]
  have act := drainExpired_isolates hstate hdue hkeep
  generalize portNotice p .drainTimeout (s.portOf p).state s = w at *
  have wstate : (w.portOf p).state ≠ .isolated := by
    rw [port]
    rcases hstate with h | h <;> simp [h]
  have moves := noticed.trans (.isolatePort w (M := (· = p)) (p := p) rfl none false)
  have isolated := isolatePort_portOf (p := p) (s := w) (by rw [port]; exact hinv.ports p) none false
  have notifies := isolatePort_notifies wstate
  have quiet := isolatePort_journal w p
  rw [slot_congr noticed.slots, slot_congr noticed.slots, noticed.links, noticed.links] at notifies
  rw [port] at isolated
  generalize isolatePort p none false w = v at *
  rw [offerTest_none (offerHolds_stands hstay moves.slots (by rw [isolated]; rfl))] at act
  have hend := moves.atEnd hl fun j ⟨p', hp', hj⟩ => by
    subst hp'
    exact hcourse.lateIdle moves.ports moves.slots hj
  obtain ⟨t, he, moved⟩ := moves.ends hend hl act
  refine ⟨t, congrArg Host.Outcome.next he, ?_, ?_, ?_, fun hrun hfull hgap => ?_, fun q hq => ?_, moved.slots, moved.cells,
    moved.alloc, moved.power⟩
  · rw [moved.ports, isolated]
    rfl
  · rw [moved.engines]
    exact notifies.1
  · rw [moved.engines]
    exact notifies.2
  · rw [moved.journal, quiet, journal]
    exact handNotice_entry _ ⟨hrun, hfull, hgap⟩
  · rw [moved.ports, moves.ports q hq]

/-- Settles O47. -/
theorem portDeadlinesIsolate : Obligations.PortDeadlinesIsolate := by
  intro s p hinv hl
  refine ⟨fun hstate hdue hcourse => offer_lapses hl hstate hdue hcourse,
    fun hstate hdue hcourse hkeep hstay => drain_isolates hinv hl hstate hdue hcourse hkeep hstay, fun h => ?_, fun h => ?_⟩
  · refine congrArg Host.Outcome.next (liveEvent_nothing hl (if_neg ?_))
    rcases h with h | h <;> simp [h]
  · refine congrArg Host.Outcome.next (liveEvent_nothing hl (if_neg ?_))
    rcases h with ⟨h, h'⟩ | h <;> simp [*]

end Sys2Proof.Machine

/-! The answers of the handshakes (R108 to R114, R131). -/

namespace Sys2Proof.Machine

variable {s t u v : State} {i j : SlotId} {p q : PortId} {M : PortId → Prop}

/-! ### Answers to port messages -/

/-- A reply carries one of the answers its request can have (R127, R205). -/
theorem judgeReply_answer {m : Msg} {seq : BitVec 4} {f : List Byte} {r : Reply} (h : judgeReply m seq f = some r) :
    r.answer ∈ m.answers := by
  unfold judgeReply at h
  split at h
  · cases h
  · split at h
    · cases h
    · split at h
      · cases h
      · split at h
        · next hans =>
          obtain rfl := Option.some.inj h
          exact hans.1
        · cases h

theorem hub_of_hubSlot (p : PortId) : (if (hubSlot p).val = 14 then (0 : HubId) else 1) = p.hub := by
  obtain ⟨n, h⟩ := p
  show (if 14 + h.val = 14 then (0 : HubId) else 1) = h
  revert h
  decide

theorem node_of_nodeSlot (p : PortId) : (Fin.ofNat 14 (nodeSlot p).val : NodeId) = p.node :=
  Fin.ext (Nat.mod_eq_of_lt p.node.isLt)

section
variable (s p) (a : Answer)

theorem portAnswer_admit (h : (s.portOf p).state = .offered) : portAnswer (hubSlot p) (.admitNode p.node) a s =
    match a with
    | .accept => takeAccept p s
    | .refuse => takeRefuse p s
    | .later => takeLater p s
    | .ok | .busy | .noLoad | .pending | .clear | .report => s := by
  simp only [portAnswer, hub_of_hubSlot]
  exact if_pos h

theorem portAnswer_withdraw (h : (s.portOf p).state = .withdrawing) :
    portAnswer (hubSlot p) (.withdraw p.node) a s =
    match a with
    | .clear => offerTest p (toIsolated p s)
    | .pending => putBack (hubSlot p) Config.pendingReask s
    | .ok | .busy | .noLoad | .accept | .refuse | .later | .report => s := by
  simp only [portAnswer, hub_of_hubSlot]
  exact if_pos h

theorem portAnswer_open (h : (s.portOf p).state = .opening) :
    portAnswer (nodeSlot p) (.pathOpen p.hub) .ok s = s.modPort p fun x => { x with state := .opened } := by
  simp only [portAnswer, node_of_nodeSlot]
  exact if_pos ⟨h, trivial⟩

theorem portAnswer_close (h : (s.portOf p).state = .closing) : portAnswer (nodeSlot p) (.pathClose p.hub) a s =
    match a with
    | .ok => toWithdrawing p false false s
    | .pending => putBack (nodeSlot p) Config.pendingReask s
    | .busy | .noLoad | .accept | .refuse | .later | .clear | .report => s := by
  simp only [portAnswer, node_of_nodeSlot]
  exact if_pos h

end

/-- The answer to a port message goes to the coordinator (R130). -/
theorem frameTaken_port {o : Outstanding} {f : List Byte} {r : Reply} (ho : (s.engine i).out = some o)
    (hf : judgeReply o.msg o.seq f = some r) (hlive : o.live = true)
    (hport : o.msg = .admitNode p.node ∨ o.msg = .withdraw p.node ∨ o.msg = .pathOpen p.hub
      ∨ o.msg = .pathClose p.hub) : frameTaken i f s = (portAnswer i o.msg r.answer s).freed i := by
  have taken := frameTaken_live ho hf hlive (by rcases hport with h | h | h | h <;> rw [h] <;> rfl)
    (by rcases hport with h | h | h | h <;> rw [h] <;> exact nofun)
  have delivered : deliver i o r s = portAnswer i o.msg r.answer s := by
    rcases hport with h | h | h | h <;> simp only [deliver, h]
  rw [taken, delivered]

/-- What the end of a reply leaves, when it is taken by an act on one port. -/
theorem State.Moves.answers (h : s.Moves (· = p) u) (hl : s.Live) (hidle : ∀ j, j = nodeSlot p ∨ j = hubSlot p → LateIdle u j)
    {f : List Byte} (hact : frameTaken i f s = u.freed i) :
    ∃ t, exec (.frameArrival i f) s = .next t ∧ t.portOf p = u.portOf p
    ∧ (∀ j m, j ≠ i → (u.engine j).Carries m → (t.engine j).Carries m) ∧ t.journal = u.journal
    ∧ (∀ q, q ≠ p → t.portOf q = s.portOf q) ∧ (∀ j, (t.slot j).Like (s.slot j))
    ∧ CellsKept s t ∧ t.alloc = s.alloc ∧ t.power = s.power := by
  have hend := h.atEnd hl fun j ⟨p', hp', hj⟩ => hidle j (hp' ▸ hj)
  obtain ⟨t, he, moved⟩ := h.ends_freed hend hl hact
  refine ⟨t, congrArg Host.Outcome.next he, moved.ports p, fun j m hj hm => ?_, moved.journal, fun q hq => ?_,
    moved.slots, moved.cells, moved.alloc, moved.power⟩
  · rw [moved.engines, State.freed, modEngine_engine_ne _ _ _ _ hj]
    exact hm
  · rw [moved.ports]
    exact h.ports q hq

theorem bothOffering_congr (h : t.slots = s.slots) : t.bothOffering p = s.bothOffering p := by
  simp only [State.bothOffering, slot_congr h]

/-- While a port is OFFERED or OPENING, its slots in service end no join and no leave (R107, R115). -/
theorem lateIdle_offering (hboth : s.bothOffering p = true)
    (hport : (s.portOf p).state = .offered ∨ (s.portOf p).state = .opening) (hj : j = nodeSlot p ∨ j = hubSlot p) :
    LateIdle s j := by
  have offering : (s.slot j).state.offering = true := by
    obtain ⟨hnode, hhub⟩ := Bool.and_eq_true_iff.mp hboth
    rcases hj with rfl | rfl
    · exact hnode
    · exact hhub
  refine ⟨fun ⟨_, hdone⟩ => ?_, fun ⟨hstate, _⟩ => ?_⟩
  · have done := List.all_eq_true.mp hdone p (mem_slotPorts.mpr (hj.imp Eq.symm Eq.symm))
    rcases hport with h | h <;> simp [h] at done
  · rw [hstate] at offering
    exact Bool.noConfusion offering

/-- BUSY to an own request of a slot with no stamp (R131). -/
theorem deliver_busy {o : Outstanding} {r : Reply} (hown : o.msg.isOwn = true) (hstamp : (s.slot i).stamp = none)
    (hans : r.answer = .busy) : deliver i o r s = putBack i Config.busyReask s := by
  unfold deliver
  split
  case h_2 | h_3 | h_4 | h_5 => simp only [ownAnswer, hstamp, hans]
  all_goals
    next h =>
      rw [h] at hown
      exact Bool.noConfusion hown

section
variable {o : Outstanding} {f : List Byte} {r : Reply} (hl : s.Live) (hlive : o.live = true)
  (hf : judgeReply o.msg o.seq f = some r)
include hl hlive hf

/-- ACCEPT (R108). -/
theorem accept_opens (hmsg : o.msg = .admitNode p.node) (ho : (s.engine (hubSlot p)).out = some o)
    (hstate : (s.portOf p).state = .offered) (hans : r.answer = .accept) (hboth : s.bothOffering p = true)
    (hup : s.linkUp (nodeSlot p) = true) :
    ∃ t, exec (.frameArrival (hubSlot p) f) s = .next t
    ∧ t.portOf p = ⟨.opening, (s.portOf p).declined, (s.portOf p).attempts, none, true⟩
    ∧ (t.engine (nodeSlot p)).Carries (.pathOpen p.hub)
    ∧ (∀ q, q ≠ p → t.portOf q = s.portOf q) ∧ (∀ j, (t.slot j).Like (s.slot j))
    ∧ CellsKept s t ∧ t.alloc = s.alloc ∧ t.power = s.power ∧ t.journal = s.journal := by
  have taken := frameTaken_port (p := p) ho hf hlive (.inl hmsg)
  rw [hmsg, portAnswer_admit _ _ _ hstate, hans] at taken
  have moves := State.Moves.takeAccept s (M := (· = p)) (p := p) rfl
  have accepted : takeAccept p s = placePort (nodeSlot p) (.pathOpen p.hub) (s.modPort p fun x =>
      { x with state := .opening, gate := true, deadline := none }) := by
    rw [takeAccept, if_pos hboth, if_pos hup]
  have port : (takeAccept p s).portOf p = ⟨.opening, (s.portOf p).declined, (s.portOf p).attempts, none, true⟩ := by
    simp [accepted]
  have carries : ((takeAccept p s).engine (nodeSlot p)).Carries (.pathOpen p.hub) := by
    rw [accepted]
    refine carries_placePort hup ?_
    rw [pathOpen_undoes]
    exact List.any_eq_false.mpr fun _ _ => Bool.noConfusion
  have journal : (takeAccept p s).journal = s.journal := by simp [accepted]
  dsimp only at taken
  generalize takeAccept p s = u at *
  obtain ⟨t, he, tport, tcarries, tjournal, ports, slots, cells, alloc, power⟩ := moves.answers hl
    (fun j hj => lateIdle_offering (by rw [bothOffering_congr moves.slots]; exact hboth) (.inr (by rw [port])) hj) taken
  exact ⟨t, he, tport.trans port, tcarries _ _ (nodeSlot_ne_hubSlot p p) carries, ports, slots, cells, alloc, power,
    tjournal.trans journal⟩

/-- REFUSE (R109). -/
theorem refuse_declines (hmsg : o.msg = .admitNode p.node) (ho : (s.engine (hubSlot p)).out = some o)
    (hstate : (s.portOf p).state = .offered) (hans : r.answer = .refuse) (hcourse : s.KeepsCourse p) :
    ∃ t, exec (.frameArrival (hubSlot p) f) s = .next t
    ∧ t.portOf p = ⟨.isolated, true, (s.portOf p).attempts, none, false⟩
    ∧ (∀ q, q ≠ p → t.portOf q = s.portOf q) ∧ (∀ j, (t.slot j).Like (s.slot j))
    ∧ CellsKept s t ∧ t.alloc = s.alloc ∧ t.power = s.power := by
  have taken := frameTaken_port (p := p) ho hf hlive (.inl hmsg)
  rw [hmsg, portAnswer_admit _ _ _ hstate, hans] at taken
  have moves := State.Moves.takeRefuse s (M := (· = p)) (p := p) rfl
  have port : (takeRefuse p s).portOf p = ⟨.isolated, true, (s.portOf p).attempts, none, false⟩ := by
    rw [takeRefuse, offerTest_none (by simp [State.offerHolds])]
    simp [Port.isolate]
  dsimp only at taken
  generalize takeRefuse p s = u at *
  obtain ⟨t, he, tport, -, -, rest⟩ := moves.answers hl (fun j hj => hcourse.lateIdle moves.ports moves.slots hj) taken
  exact ⟨t, he, tport.trans port, rest⟩

/-- OK to PATH-OPEN (R111). -/
theorem path_opens (hmsg : o.msg = .pathOpen p.hub) (ho : (s.engine (nodeSlot p)).out = some o)
    (hstate : (s.portOf p).state = .opening) (hcourse : s.KeepsCourse p) :
    ∃ t, exec (.frameArrival (nodeSlot p) f) s = .next t
    ∧ t.portOf p = { s.portOf p with state := .opened }
    ∧ (∀ q, q ≠ p → t.portOf q = s.portOf q) ∧ (∀ j, (t.slot j).Like (s.slot j))
    ∧ CellsKept s t ∧ t.alloc = s.alloc ∧ t.power = s.power ∧ t.journal = s.journal := by
  have ok : r.answer = .ok := by
    rw [hmsg] at hf
    exact List.mem_singleton.mp (judgeReply_answer hf)
  have taken := frameTaken_port (p := p) ho hf hlive (.inr (.inr (.inl hmsg)))
  rw [hmsg, ok, portAnswer_open _ _ hstate] at taken
  have moves := State.Moves.modPort s (M := (· = p)) (p := p) rfl fun x => { x with state := .opened }
  obtain ⟨t, he, tport, -, journal, ports, slots, cells, alloc, power⟩ :=
    moves.answers hl (fun j hj => hcourse.lateIdle moves.ports moves.slots hj) taken
  exact ⟨t, he, tport.trans (modPort_portOf_self ..), ports, slots, cells, alloc, power, journal⟩

/-- OK to PATH-CLOSE (R113). -/
theorem path_closes (hmsg : o.msg = .pathClose p.hub) (ho : (s.engine (nodeSlot p)).out = some o)
    (hstate : (s.portOf p).state = .closing) (hans : r.answer = .ok) (hup : s.linkUp (hubSlot p) = true)
    (hcourse : s.KeepsCourse p) :
    ∃ t, exec (.frameArrival (nodeSlot p) f) s = .next t
    ∧ t.portOf p = { s.portOf p with state := .withdrawing }
    ∧ ((s.engine (hubSlot p)).queued (fun m => decide (m = .admitNode p.node)) = false →
      (t.engine (hubSlot p)).Carries (.withdraw p.node))
    ∧ (∀ q, q ≠ p → t.portOf q = s.portOf q) ∧ (∀ j, (t.slot j).Like (s.slot j))
    ∧ CellsKept s t ∧ t.alloc = s.alloc ∧ t.power = s.power ∧ t.journal = s.journal := by
  have taken := frameTaken_port (p := p) ho hf hlive (.inr (.inr (.inr hmsg)))
  rw [hmsg, portAnswer_close _ _ _ hstate, hans] at taken
  have moves := State.Moves.toWithdrawing s (M := (· = p)) (p := p) rfl false false
  have drawn : toWithdrawing p false false s =
      placePort (hubSlot p) (.withdraw p.node) (s.modPort p fun x => { x with state := .withdrawing }) := by
    rw [toWithdrawing, if_pos hup]
    rfl
  have port : (toWithdrawing p false false s).portOf p = { s.portOf p with state := .withdrawing } := by simp [drawn]
  have carries : (s.engine (hubSlot p)).queued (fun m => decide (m = .admitNode p.node)) = false →
      ((toWithdrawing p false false s).engine (hubSlot p)).Carries (.withdraw p.node) := fun hq => by
    rw [drawn]
    refine carries_placePort hup ?_
    rw [withdraw_undoes]
    exact hq
  have journal : (toWithdrawing p false false s).journal = s.journal := by simp [drawn]
  dsimp only at taken
  generalize toWithdrawing p false false s = u at *
  obtain ⟨t, he, tport, tcarries, tjournal, ports, slots, cells, alloc, power⟩ :=
    moves.answers hl (fun j hj => hcourse.lateIdle moves.ports moves.slots hj) taken
  exact ⟨t, he, tport.trans port, fun hq => tcarries _ _ (hubSlot_ne_nodeSlot p p) (carries hq), ports, slots, cells, alloc,
    power, tjournal.trans journal⟩

/-- CLEAR to WITHDRAW (R114). -/
theorem withdraw_clears (hmsg : o.msg = .withdraw p.node) (ho : (s.engine (hubSlot p)).out = some o)
    (hstate : (s.portOf p).state = .withdrawing) (hans : r.answer = .clear) (hcourse : s.KeepsCourse p)
    (hstay : s.bothOffering p = false ∨ (s.portOf p).declined = true) :
    ∃ t, exec (.frameArrival (hubSlot p) f) s = .next t
    ∧ t.portOf p = ⟨.isolated, (s.portOf p).declined, (s.portOf p).attempts, none, false⟩
    ∧ (∀ q, q ≠ p → t.portOf q = s.portOf q) ∧ (∀ j, (t.slot j).Like (s.slot j))
    ∧ CellsKept s t ∧ t.alloc = s.alloc ∧ t.power = s.power ∧ t.journal = s.journal := by
  have taken := frameTaken_port (p := p) ho hf hlive (.inr (.inl hmsg))
  have port : (toIsolated p s).portOf p = (s.portOf p).isolate := modPort_portOf_self ..
  have moves := State.Moves.toIsolated s (M := (· = p)) (p := p) rfl
  have journal : (toIsolated p s).journal = s.journal := rfl
  rw [hmsg, portAnswer_withdraw _ _ _ hstate, hans] at taken
  dsimp only at taken
  generalize toIsolated p s = u at *
  rw [offerTest_none (offerHolds_stands hstay moves.slots (by rw [port]; rfl))] at taken
  obtain ⟨t, he, tport, -, tjournal, ports, slots, cells, alloc, power⟩ :=
    moves.answers hl (fun j hj => hcourse.lateIdle moves.ports moves.slots hj) taken
  exact ⟨t, he, tport.trans port, ports, slots, cells, alloc, power, tjournal.trans journal⟩

omit hlive hf in
/-- A request that is put back joins the tail again, and the engine goes on (R131). -/
theorem request_waits (ho : (s.engine i).out = some o) (hup : s.linkUp i = true) {ms : Nat}
    (hact : frameTaken i f s = (putBack i ms s).freed i) :
    exec (.frameArrival i f) s = .next (s.modEngine i fun e => ({ e with
      queue := e.queue ++ [⟨o.msg, o.placer, some (after s.time ms)⟩], out := none } : Engine).serve s.time) := by
  have up : (s.engine i).link = .up := of_decide_eq_true hup
  have eq : (putBack i ms s).freed i = s.modEngine i fun e => ({ e with
      queue := e.queue ++ [⟨o.msg, o.placer, some (after s.time ms)⟩], out := none } : Engine).serve s.time := by
    refine (modEngine_modEngine ..).trans (modEngine_congr ?_)
    simp only [Engine.putBack, ho, Engine.join, up, if_true]
    rfl
  rw [eq] at hact
  have unseen : Unseen s (frameTaken i f s) := by
    rw [hact]
    exact unseen_modEngine (serve_link ..)
  exact congrArg Host.Outcome.next ((liveEvent_unseen hl unseen).trans hact)

end

/-- Settles O50. -/
theorem handshakeAnswers : Obligations.HandshakeAnswers := by
  intro s p o f r hinv hl hlive hf
  refine ⟨fun hmsg ho hstate => ⟨fun hans hboth hup _ => accept_opens hl hlive hf hmsg ho hstate hans hboth hup,
      fun hans hcourse => refuse_declines hl hlive hf hmsg ho hstate hans hcourse⟩,
    fun hmsg ho hstate hcourse => path_opens hl hlive hf hmsg ho hstate hcourse,
    fun hmsg ho hstate hans hup hcourse => path_closes hl hlive hf hmsg ho hstate hans hup hcourse,
    fun hmsg ho hstate hans hcourse hstay => withdraw_clears hl hlive hf hmsg ho hstate hans hcourse hstay,
    fun i ms ho hup h => ?_⟩
  rcases h with ⟨hmsg, rfl, hstate, hans, rfl, hboth, hnode⟩ | ⟨hmsg, rfl, hstate, hans, rfl⟩
    | ⟨hmsg, rfl, hstate, hans, rfl⟩ | ⟨hown, hans, rfl, hstamp⟩
  · refine request_waits hl ho hup ?_
    rw [frameTaken_port (p := p) ho hf hlive (.inl hmsg), hmsg, portAnswer_admit _ _ _ hstate, hans]
    dsimp only
    rw [takeLater, if_pos (by simp [hboth, hnode, hup])]
    rfl
  · refine request_waits hl ho hup ?_
    rw [frameTaken_port (p := p) ho hf hlive (.inr (.inr (.inr hmsg))), hmsg, portAnswer_close _ _ _ hstate, hans]
    rfl
  · refine request_waits hl ho hup ?_
    rw [frameTaken_port (p := p) ho hf hlive (.inr (.inl hmsg)), hmsg, portAnswer_withdraw _ _ _ hstate, hans]
    rfl
  · refine request_waits hl ho hup ?_
    obtain ⟨hask, hprobe⟩ := own_asks hown
    rw [frameTaken_live ho hf hlive hask hprobe, deliver_busy hown hstamp hans]
    rfl

end Sys2Proof.Machine

/-! A gentle retirement whose drain is not over in time (R15, R116, R117). -/

namespace Sys2Proof.Machine

variable {s t u v w : State} {i j : SlotId} {p q : PortId} {M : PortId → Prop} {c d : CellId}

/-! ### The ports of an abandoned withdrawal -/

/-- A port of an abandoning slot returns to service as far as it can (R117). -/
theorem abortPort_portOf {slots : List SlotId}
    (hother : ∀ j, j = nodeSlot p ∨ j = hubSlot p → (s.slot j).state = .leaving → j ∈ slots) :
    ((s.portOf p).state = .closing →
      (abortPort i slots s p).portOf p = { s.portOf p with state := .opening, deadline := none })
    ∧ ((s.portOf p).state = .withdrawing →
      (abortPort i slots s p).portOf p = { s.portOf p with deadline := s.drainDeadline }) := by
  have goes : ∀ j, j = nodeSlot p ∨ j = hubSlot p → ¬ ((s.slot j).state = .leaving ∧ j ∉ slots) :=
    fun j hj ⟨hl, hn⟩ => hn (hother j hj hl)
  have other : (if nodeSlot p = i then hubSlot p else nodeSlot p) = nodeSlot p
      ∨ (if nodeSlot p = i then hubSlot p else nodeSlot p) = hubSlot p := by
    split
    · exact .inr rfl
    · exact .inl rfl
  unfold abortPort
  dsimp only
  rw [if_neg (goes _ other)]
  refine ⟨fun h => ?_, fun h => ?_⟩
  · simp [h]
  · simp [h]

/-- A port that stands in no ISOLATED state is not offered by the tests of a slot's ports. -/
theorem offerTests_portOf (h : (s.portOf p).state ≠ .isolated) (i : SlotId) :
    (offerTests (slotPorts i) s).portOf p = s.portOf p := by
  by_cases hp : p ∈ slotPorts i
  · obtain ⟨v, before, after⟩ := foldl_turn (f := fun s p => offerTest p s)
      (fun s p => State.Moves.offerTest s (M := (· = p)) (p := p) rfl) _ s (slotPorts_nodup i) hp
    have here : v.portOf p = s.portOf p := before.ports p fun h => h.2 rfl
    have none : offerTest p v = v := offerTest_none (by simp [State.offerHolds, here, h])
    have turned : (offerTests (slotPorts i) s).portOf p = (offerTest p v).portOf p := after.ports p fun h => h.2 rfl
    rw [turned, none, here]
  · exact (State.Moves.offerTests s (M := (· ∈ slotPorts i)) _ fun _ h => h).ports p hp

/-- The state in which the ports of an abandoned withdrawal have been returned. -/
def State.abandoned (s : State) (p : PortId) : State :=
  (slotPorts (nodeSlot p)).foldl (abortPort (nodeSlot p) [nodeSlot p])
    (portNotice p .drainTimeout (s.portOf p).state s)

theorem moves_abandoned (s : State) (p : PortId) : s.Moves (fun q => q.node = p.node) (s.abandoned p) := by
  have mine : ∀ q ∈ slotPorts (nodeSlot p), q.node = p.node := fun q hq => by
    rcases mem_slotPorts.mp hq with h | h
    · exact Fin.ext (by simpa [nodeSlot] using congrArg Fin.val h)
    · exact absurd h (hubSlot_ne_nodeSlot q p)
  exact (State.Moves.portNotice (p := p) s _ _).trans
    (.foldl (fun s q hq => .abortPort s (p := q) hq _ _) _ _ mine)

/-- The port whose drain was not over in time, with the withdrawal of its node abandoned (R117). -/
theorem abandoned_portOf (hhub : (s.slot (hubSlot p)).state = .inService) :
    ((s.portOf p).state = .closing →
      (s.abandoned p).portOf p = { s.portOf p with state := .opening, deadline := none })
    ∧ ((s.portOf p).state = .withdrawing →
      (s.abandoned p).portOf p = { s.portOf p with deadline := s.drainDeadline }) := by
  have noticed := State.Moves.portNotice (p := p) (M := (· = p)) s .drainTimeout (s.portOf p).state
  have port : (portNotice p .drainTimeout (s.portOf p).state s).portOf p = s.portOf p := by simp
  obtain ⟨v, before, after⟩ := foldl_turn (f := abortPort (nodeSlot p) [nodeSlot p])
    (fun s q => State.Moves.abortPort s (M := (· = q)) (p := q) rfl _ _) _
    (portNotice p .drainTimeout (s.portOf p).state s) (slotPorts_nodup (nodeSlot p)) (mem_slotPorts.mpr (.inl rfl))
  have here : v.portOf p = s.portOf p := (before.ports p fun h => h.2 rfl).trans port
  have slot : ∀ j, v.slot j = s.slot j := fun j => by rw [slot_congr before.slots, slot_congr noticed.slots]
  have turned : (s.abandoned p).portOf p = (abortPort (nodeSlot p) [nodeSlot p] v p).portOf p :=
    after.ports p fun h => h.2 rfl
  obtain ⟨closing, withdrawing⟩ := abortPort_portOf (s := v) (p := p) (i := nodeSlot p) (slots := [nodeSlot p])
    fun j hj hleaving => by
      rcases hj with rfl | rfl
      · exact List.mem_singleton_self _
      · rw [slot, hhub] at hleaving
        exact absurd hleaving (by decide)
  have deadline : v.drainDeadline = s.drainDeadline := by
    simp only [State.drainDeadline, before.time, before.settings, noticed.time, noticed.settings]
  rw [here] at closing withdrawing
  rw [deadline] at withdrawing
  rw [turned]
  exact ⟨closing, withdrawing⟩

/-- A drain deadline that passes for a slot in a GENTLE retirement abandons its withdrawal (R15, R116). -/
theorem drainExpired_abandons {r : Retirement} (hleaving : (s.slot (nodeSlot p)).state = .leaving)
    (hhub : (s.slot (hubSlot p)).state = .inService) (hr : (s.slot (nodeSlot p)).retire = some r)
    (hgentle : r.gentle = true) (hstate : (s.portOf p).state = .closing ∨ (s.portOf p).state = .withdrawing)
    (hdue : due s.time (s.portOf p).deadline = true) :
    drainExpired p s = drainAbort (s.abandoned p) (nodeSlot p) := by
  have slots : s.leavingSlots p = [nodeSlot p] := by simp [State.leavingSlots, hleaving, hhub]
  unfold drainExpired
  dsimp only
  rw [if_pos ⟨hstate, hdue⟩, slots, if_pos (by simp [State.gentle, hr, hgentle])]
  rfl

/-! ### The drain abort -/

/-- The state in which the drain abort has finished its RETIRE (R15). -/
def State.abortedAt (u : State) (i : SlotId) : State :=
  finishActiveIf .retire i .drainTimeout none [] (changeStateOwn i .inService .drainAbort u)

theorem drainAbort_eq (u : State) (i : SlotId) :
    drainAbort u i = testInService i (offerTests (slotPorts i) (u.abortedAt i)) := rfl

/-- What a drain abort makes of its slot and of the cell of its RETIRE (R15). -/
theorem abortedAt_leaves {e : OrderEntry} (hm : Memory.wf u.mem = true) (horders : (u.slot i).orders = [e])
    (hactive : (u.slot i).active = true) (hkind : e.kind = .retire) :
    (u.abortedAt i).slot i =
      { (u.slot i).enter u.time .inService with orders := [], active := false, read := none }
    ∧ (∀ j, j ≠ i → (u.abortedAt i).slot j = u.slot j)
    ∧ (u.abortedAt i).Finished e.cell OrderOutcome.drainTimeout.code 0 SlotState.inService.code
        (nextGeneration (u.slot i).gen)
    ∧ OtherCells e.cell u (u.abortedAt i) := by
  have vslot := changeStateOwn_slot_self u i .inService .drainAbort
  have vslots : ∀ j, j ≠ i → (changeStateOwn i .inService .drainAbort u).slot j = u.slot j := fun j hj =>
    changeStateOwn_slot_ne _ _ _ _ hj
  have kept : CellsKept u (changeStateOwn i .inService .drainAbort u) := by simp [CellsKept]
  unfold State.abortedAt
  generalize changeStateOwn i .inService .drainAbort u = v at *
  have orders : (v.slot i).orders = [e] ∧ (v.slot i).active = true := by
    rw [vslot]
    exact ⟨horders, hactive⟩
  rw [finishActiveIf, if_pos ((activeKind_head orders.2 orders.1).trans (congrArg some hkind))]
  obtain ⟨finished, others⟩ := finishActive_cells (by rw [kept.2]; exact hm) orders.2 orders.1 .drainTimeout none []
  refine ⟨?_, fun j hj => ?_, ?_, (kept.otherCells _).trans others⟩
  · rw [finishActive_slot_self, ← vslot]
    simp only [Slot.finished, orders.2, orders.1, Slot.dropHead, List.tail_cons]
  · rw [finishActive_slot_ne _ _ _ _ _ hj, vslots j hj]
  · rw [vslot] at finished
    exact finished

@[simp] theorem abortedAt_frame (u : State) (i : SlotId) :
    (u.abortedAt i).alloc = u.alloc ∧ (u.abortedAt i).power = u.power ∧ (u.abortedAt i).ports = u.ports
    ∧ (u.abortedAt i).work = u.work ∧ (u.abortedAt i).late = u.late := by
  simp [State.abortedAt]

/-- Settles O48. -/
theorem gentleDrainAborts : Obligations.GentleDrainAborts := by
  intro s p e r hinv hl hq hleaving hhub horders hactive hkind hlatch hr hgentle hstate hdue
  have act := drainExpired_abandons hleaving hhub hr hgentle hstate hdue
  have moves := moves_abandoned s p
  obtain ⟨closing, withdrawing⟩ := abandoned_portOf hhub
  generalize s.abandoned p = u at *
  have uslot : ∀ j, u.slot j = s.slot j := slot_congr moves.slots
  have within := moves.late (fun _ => True) (fun _ _ => ⟨trivial, trivial⟩) (.of_nil hl.late)
  obtain ⟨vslot, vslots, finished, others⟩ := abortedAt_leaves (u := u) (i := nodeSlot p) (by rw [moves.mem]; exact hinv.mem)
    (by rw [uslot]; exact horders) (by rw [uslot]; exact hactive) hkind
  obtain ⟨valloc, vpower, vports, vwork, vlate⟩ := abortedAt_frame u (nodeSlot p)
  have vport : ∀ q, (u.abortedAt (nodeSlot p)).portOf q = u.portOf q := portOf_congr vports
  rw [drainAbort_eq] at act
  generalize u.abortedAt (nodeSlot p) = v at *
  have tests := State.Moves.offerTests v (M := (· ∈ slotPorts (nodeSlot p))) _ fun _ h => h
  have tport := fun h => offerTests_portOf (s := v) (p := p) h (nodeSlot p)
  have wlate := tests.late (fun _ => True) (fun _ _ => ⟨trivial, trivial⟩) (within.congr vlate)
  generalize offerTests (slotPorts (nodeSlot p)) v = w at *
  have wslot : ∀ j, w.slot j = v.slot j := slot_congr tests.slots
  have node : isHub (nodeSlot p) = false := by
    have := p.node.isLt
    exact decide_eq_false (by simp only [nodeSlot]; omega)
  have jobs : (testInService (nodeSlot p) w).jobs = [.start (nodeSlot p), .handle (nodeSlot p)] := by
    rw [testInService, node, if_neg Bool.noConfusion, raise_jobs,
      jobs_nil (tests.work.trans (vwork.trans (moves.work.trans hl.work)))]
    rfl
  have tslot : ∀ j, (testInService (nodeSlot p) w).slot j = v.slot j := wslot
  have talloc : (testInService (nodeSlot p) w).alloc = s.alloc := tests.alloc.trans (valloc.trans moves.alloc)
  have tpower : (testInService (nodeSlot p) w).power = s.power := tests.power.trans (vpower.trans moves.power)
  have tports : ∀ q, (testInService (nodeSlot p) w).portOf q = w.portOf q := fun _ => rfl
  have kept : CellsKept v (testInService (nodeSlot p) w) := ⟨tests.cells, tests.mem⟩
  have tlate := wlate.congr (t := testInService (nodeSlot p) w) rfl
  generalize testInService (nodeSlot p) w = x at *
  have hend := tlate.atEnd (n := 4096) jobs (fun y hy => by
      simp only [List.mem_cons, List.not_mem_nil, or_false] at hy
      obtain rfl | rfl := hy
      · exact .inl (by rw [tslot, vslot])
      · exact handleActs_unlatched (by rw [tslot, vslot]; simp [Slot.enter, uslot, hlatch]))
    (fun j _ => by
      by_cases hj : j = nodeSlot p
      · subst hj
        refine lateIdle_elsewhere ?_ ?_
        all_goals rw [tslot, vslot]; exact nofun
      · refine lateIdle_elsewhere ?_ ?_
        all_goals rw [tslot, vslots j hj, uslot]
        · exact (hq.slots j hj).1
        · exact (hq.slots j hj).2) (by simp)
  obtain ⟨l, b, -, he⟩ := hend.liveEvent hl act
  have like : ∀ j, ((x.ended l b).slot j).Like (v.slot j) := fun j => by
    rw [(ended_reads ..).1, tslot]
    exact Slot.written_like _ _
  have done := finished.of_kept (kept.trans (ended_cellsKept x l b))
  have port : (x.ended l b).portOf p = w.portOf p := ((ended_reads ..).2.2.2.2.1 p).trans (tports p)
  refine ⟨_, congrArg Host.Outcome.next he, ?_, ?_, ?_, ?_, done.cell, done.code, done.state, fun h => ?_, fun h => ?_,
    fun q hq => ?_, fun j hj => ?_, ?_, ?_, ?_⟩
  · rw [(like _).field Slot.state fun _ _ => rfl, vslot]
    rfl
  · rw [(like _).field Slot.prev fun _ _ => rfl, vslot]
    exact (congrArg Slot.state (uslot _)).trans hleaving
  · rw [(like _).field Slot.retire fun _ _ => rfl, vslot]
    rfl
  · rw [(like _).field Slot.orders fun _ _ => rfl, vslot]
  · have gate := ((hinv.ports p).closing h).1
    have moved := (vport p).trans (closing h)
    rw [port, tport (by rw [moved]; exact nofun), moved]
    exact ⟨rfl, gate, rfl⟩
  · have moved := (vport p).trans (withdrawing h)
    rw [port, tport (by rw [moved]; simp [h]), moved]
    exact ⟨h, rfl⟩
  · have away : q ∉ slotPorts (nodeSlot p) := fun hmem => by
      rcases mem_slotPorts.mp hmem with h | h
      · exact hq (Fin.ext (by simpa [nodeSlot] using congrArg Fin.val h))
      · exact hubSlot_ne_nodeSlot q p h
    rw [(ended_reads ..).2.2.2.2.1, tports, tests.ports q away, vport, moves.ports q hq]
  · rw [← uslot, ← vslots j hj]
    exact like j
  · exact ((CellsKept.otherCells ⟨moves.cells, moves.mem⟩ _).trans others).trans
      ((kept.trans (ended_cellsKept x l b)).otherCells _)
  · simp [talloc]
  · simp [tpower]

end Sys2Proof.Machine

/-! The loss of a link: the notices of an act, and what becomes of the ports (R120, R121, R143). -/

namespace Sys2Proof.Machine

variable {s t u v w : State} {i j : SlotId} {p q : PortId} {M : PortId → Prop} {c d : CellId}

/-! ### Notices one after another -/

/-- The notices `l` have been written since `s`, which had room for sixteen and no gap (R168). -/
structure State.Wrote (s : State) (l : List Notice) (t : State) : Prop where
  run : t.port.run = true
  gap : t.journal.gapPending = false
  read : t.journal.readCount = s.journal.readCount
  count : t.journal.writeCount = s.journal.writeCount + BitVec.ofNat 16 l.length
  entries : ∀ (k : Nat) (hk : k < l.length),
    t.journal.entries[(entryOf (s.journal.writeCount + BitVec.ofNat 16 k)).val]'
      (entryOf (s.journal.writeCount + BitVec.ofNat 16 k)).isLt = some l[k]

/-- An act hands the notices `l`, one after another, and no other. -/
def State.Says (s : State) (l : List Notice) (t : State) : Prop :=
  ∀ (base : State) (old : List Notice), (base.journal.writeCount - base.journal.readCount).toNat ≤ 112 →
    base.Wrote old s → old.length + l.length ≤ 16 → base.Wrote (old ++ l) t

theorem writeNotice_run (n : Notice) (s : State) : (writeNotice n s).port.run = s.port.run := by
  unfold writeNotice State.latch State.updatePort
  dsimp only
  split <;> rfl

theorem State.Wrote.refl (hrun : s.port.run = true) (hgap : s.journal.gapPending = false) : s.Wrote [] s :=
  ⟨hrun, hgap, rfl, by simp, fun _ hk => absurd hk (Nat.not_lt_zero _)⟩

namespace State.Says

theorem silent (hport : t.port = s.port) (hjournal : t.journal = s.journal) : s.Says [] t := fun base old _ h _ => by
  rw [List.append_nil]
  refine ⟨by rw [hport]; exact h.run, by rw [hjournal]; exact h.gap, by rw [hjournal]; exact h.read,
    by rw [hjournal]; exact h.count, fun k hk => ?_⟩
  simp only [hjournal]
  exact h.entries k hk

theorem trans {l l' : List Notice} (h : s.Says l t) (h' : t.Says l' u) : s.Says (l ++ l') u := fun base old hroom ho hn => by
  rw [List.length_append] at hn
  rw [← List.append_assoc]
  exact h' base (old ++ l) hroom (h base old hroom ho (by omega)) (by rw [List.length_append]; omega)

/-- Sixteen entries in a row are apart. -/
theorem entryOf_apart {w : Word16} {k n : Nat} (hk : k < n) (hn : n < 16) :
    (entryOf (w + BitVec.ofNat 16 n)).val ≠ (entryOf (w + BitVec.ofNat 16 k)).val := by
  have wide : ∀ m, m < 16 → (entryOf (w + BitVec.ofNat 16 m)).val = (w.toNat + m) % 128 := fun m hm => by
    simp only [entryOf, Fin.val_ofNat, BitVec.toNat_add, BitVec.toNat_ofNat]
    omega
  rw [wide n hn, wide k (by omega)]
  omega

theorem hand (n : Notice) (s : State) : s.Says [n] (handNotice n s) := fun base old hroom h hn => by
  have len : old.length < 16 := by simp at hn; omega
  have room : s.journal.full = false := by
    refine decide_eq_false fun hfull => ?_
    rw [h.count, h.read] at hfull
    have := congrArg BitVec.toNat hfull
    simp only [BitVec.toNat_sub, BitVec.toNat_add, BitVec.toNat_ofNat, show (128 : Word16).toNat = 128 from rfl] at this hroom
    omega
  rw [handNotice_writes n ⟨h.run, room, h.gap⟩]
  refine ⟨(writeNotice_run n s).trans h.run, h.gap, h.read, ?_, fun k hk => ?_⟩
  · show s.journal.writeCount + 1 = _
    rw [h.count, List.length_append, List.length_singleton]
    bv_omega
  · simp only [writeNotice_journal, h.count]
    by_cases hlast : k = old.length
    · subst hlast
      rw [Vector.getElem_set_self]
      simp
    · have before : k < old.length := by simp at hk; omega
      rw [Vector.getElem_set_ne _ _ (entryOf_apart before len), List.getElem_append_left before]
      exact h.entries k before

/-- A notice handed after changes of other parts of the state. -/
theorem then_hand (hport : t.port = s.port) (hjournal : t.journal = s.journal) (n : Notice) :
    s.Says [n] (handNotice n t) := (silent hport hjournal).trans (.hand n t)

end State.Says

/-! ### One port of a lost link -/

/-- A port of a hub whose link is lost (R121). -/
def Port.hubLost (x : Port) : Port :=
  if x.state = .offered then ⟨.isolated, true, x.attempts, none, false⟩
  else if x.state = .withdrawing then ⟨.isolated, x.declined, x.attempts, none, false⟩ else x

/-- A port of a node whose link is lost: its ADMIT is still queued or not, its hub's link is UP or not, and a fresh
drain deadline would be `deadline` (R120). -/
def Port.nodeLost (asked up : Bool) (deadline : Option Time) (x : Port) : Port :=
  if x.state = .offered then if asked then ⟨.isolated, x.declined, x.attempts, none, false⟩ else x
  else if x.state = .opening ∨ x.state = .closing then
    if up then { x with state := .withdrawing, deadline := if x.state = .closing then x.deadline else deadline }
    else ⟨.isolated, x.declined, x.attempts, none, false⟩
  else x

/-- An act that resolves one port: the port becomes `n`, and a move hands one notice (R103). -/
structure State.PortStep (s : State) (p : PortId) (n : Port) (t : State) : Prop where
  moves : s.Moves (· = p) t
  same : n = s.portOf p → t = s
  port : t.portOf p = n
  hands : n ≠ s.portOf p → s.Says [slotNotice s (nodeSlot p) (.port .link p.hub n.state) s.broughtBy] t

theorem State.PortStep.stays (s : State) (p : PortId) : s.PortStep p (s.portOf p) s :=
  ⟨.refl, fun _ => rfl, rfl, fun h => absurd rfl h⟩

/-- A change of one port, of messages about it and a PORT notice with detail LINK make a step. -/
theorem State.PortStep.of_notice {n : Port} (hmoves : s.Moves (· = p) u) (hport : u.portOf p = n)
    (hne : n.state ≠ (s.portOf p).state) (hreg : u.port = s.port) (hjournal : u.journal = s.journal) :
    s.PortStep p n (portNotice p .link n.state u) where
  moves := hmoves.trans (.portNotice (p := p) u _ _)
  same h := absurd (congrArg Port.state h) hne
  port := by simpa using hport
  hands _ := by
    have notice : slotNotice u (nodeSlot p) (.port .link p.hub n.state) u.broughtBy =
        slotNotice s (nodeSlot p) (.port .link p.hub n.state) s.broughtBy := by
      simp only [slotNotice, slot_congr hmoves.slots, hmoves.time, hmoves.broughtBy]
    rw [portNotice, notice]
    exact .then_hand hreg hjournal _

/-- With a link of the port not UP it is not offered (R104). -/
theorem offerHolds_down (h : s.linkUp (nodeSlot p) = false ∨ s.linkUp (hubSlot p) = false) : s.offerHolds p = false := by
  rcases h with h | h <;> simp [State.offerHolds, h]

/-- The resolution of a hub's port (R121). -/
theorem resolveHubPort_step (hdown : s.linkUp (hubSlot p) = false) :
    s.PortStep p (s.portOf p).hubLost (resolveHubPort s p)
    ∧ ∀ j, (resolveHubPort s p).engine j = s.engine j := by
  have isolated := State.Moves.toIsolated s (M := (· = p)) (p := p) rfl
  unfold resolveHubPort
  split
  · next h =>
    rw [Port.hubLost, if_pos h]
    have step : s.PortStep p ⟨.isolated, true, (s.portOf p).attempts, none, false⟩
        (portNotice p .link .isolated ((toIsolated p s).modPort p fun x => { x with declined := true })) :=
      .of_notice (n := ⟨.isolated, true, (s.portOf p).attempts, none, false⟩)
        (isolated.trans (.modPort (M := (· = p)) _ (p := p) rfl _)) (by simp [toIsolated, Port.isolate]) (by simp [h])
        (by simp [toIsolated]) (by simp [toIsolated])
    exact ⟨step, fun j => by simp [toIsolated]⟩
  · next h =>
    rw [Port.hubLost, if_neg (by simp [h]), if_pos h]
    have step : s.PortStep p ⟨.isolated, (s.portOf p).declined, (s.portOf p).attempts, none, false⟩
        (portNotice p .link .isolated (toIsolated p s)) :=
      .of_notice (n := ⟨.isolated, (s.portOf p).declined, (s.portOf p).attempts, none, false⟩) isolated
        (by simp [toIsolated, Port.isolate]) (by simp [h]) (by simp [toIsolated]) (by simp [toIsolated])
    rw [offerTest_none (offerHolds_down (.inr ((step.moves.links _).trans hdown)))]
    exact ⟨step, fun j => by simp [toIsolated]⟩
  all_goals
    next h =>
      rw [Port.hubLost, if_neg (by simp [h]), if_neg (by simp [h])]
      exact ⟨.stays s p, fun _ => rfl⟩

/-- A port of a slot whose link is lost goes to WITHDRAWING, or to ISOLATED when its hub's link is not UP (R114, R120). -/
theorem toWithdrawing_step (hmoving : (s.portOf p).state = .opening ∨ (s.portOf p).state = .closing) (asked : Bool) :
    s.PortStep p ((s.portOf p).nodeLost asked (s.linkUp (hubSlot p)) s.drainDeadline)
      (toWithdrawing p (decide ((s.portOf p).state = .opening)) true s)
    ∧ (∀ j, j ≠ hubSlot p → (toWithdrawing p (decide ((s.portOf p).state = .opening)) true s).engine j = s.engine j)
    ∧ (s.linkUp (hubSlot p) = true → (s.engine (hubSlot p)).queued (fun m => decide (m = .admitNode p.node)) = false →
      ((toWithdrawing p (decide ((s.portOf p).state = .opening)) true s).engine (hubSlot p)).Carries
        (.withdraw p.node)) := by
  have still : (s.portOf p).state ≠ .offered := by rcases hmoving with h | h <;> simp [h]
  rw [Port.nodeLost, if_neg still, if_pos hmoving, Machine.toWithdrawing]
  by_cases hup : s.linkUp (hubSlot p) = true
  · rw [if_pos hup, if_pos hup, if_pos rfl]
    refine ⟨.of_notice (n := { s.portOf p with
        state := .withdrawing, deadline := if (s.portOf p).state = .closing then _ else _ })
      ((State.Moves.modPort s (M := (· = p)) rfl _).trans (.placePort _ (p := p) rfl (.inr ⟨rfl, rfl⟩))) ?_ ?_
      (by simp) (by simp), fun j hj => ?_, fun _ hfree => ?_⟩
    · rcases hmoving with h | h <;> simp [h]
    · rcases hmoving with h | h <;> simp [h]
    · simp [placePort_engine_ne hj]
    · rw [show ∀ x : State, (portNotice p .link .withdrawing x).engine = x.engine from fun _ => by ext; simp]
      refine carries_placePort (by simpa using hup) ?_
      rw [withdraw_undoes]
      simpa using hfree
  · rw [if_neg hup, if_neg hup]
    have step : s.PortStep p ⟨.isolated, (s.portOf p).declined, (s.portOf p).attempts, none, false⟩
        (portNotice p .link .isolated (toIsolated p s)) :=
      .of_notice (n := ⟨.isolated, (s.portOf p).declined, (s.portOf p).attempts, none, false⟩)
        (.toIsolated s (M := (· = p)) rfl) (by simp [toIsolated, Port.isolate])
        (by rcases hmoving with h | h <;> simp [h]) (by simp [toIsolated]) (by simp [toIsolated])
    rw [offerTest_none (offerHolds_down (.inr ((step.moves.links _).trans (by simpa using hup))))]
    exact ⟨step, fun j _ => by simp [toIsolated], fun h => absurd h hup⟩

/-- The resolution of a node's port (R120). -/
theorem resolveNodePort_step (hdown : s.linkUp (nodeSlot p) = false) :
    let asked := (s.engine (hubSlot p)).queued fun m => decide (m = .admitNode p.node)
    let n := (s.portOf p).nodeLost asked (s.linkUp (hubSlot p)) s.drainDeadline
    s.PortStep p n (resolveNodePort s p)
    ∧ (∀ j, j ≠ hubSlot p → (resolveNodePort s p).engine j = s.engine j)
    ∧ (n.state = .withdrawing → (s.portOf p).state ≠ .withdrawing → asked = false →
      ((resolveNodePort s p).engine (hubSlot p)).Carries (.withdraw p.node))
    ∧ ((s.portOf p).state = .offered →
      ((resolveNodePort s p).engine (hubSlot p)).queued (fun m => decide (m = .admitNode p.node)) = false) := by
  intro asked n
  have moving (hm : (s.portOf p).state = .opening ∨ (s.portOf p).state = .closing) := toWithdrawing_step hm asked
  unfold resolveNodePort
  split
  · next h =>
    have n_eq : n = s.portOf p := by simp [n, Port.nodeLost, h]
    exact ⟨n_eq ▸ .stays s p, fun _ _ => rfl, fun hn => by simp [n_eq, h] at hn, fun hn => by simp [h] at hn⟩
  · next h =>
    split
    · next hasked =>
      have n_eq : n = ⟨.isolated, (s.portOf p).declined, (s.portOf p).attempts, none, false⟩ := by
        simp [n, Port.nodeLost, h, asked, hasked]
      have step : s.PortStep p ⟨.isolated, (s.portOf p).declined, (s.portOf p).attempts, none, false⟩
          (portNotice p .link .isolated (toIsolated p
            (endMessages (hubSlot p) (fun m => decide (m = .admitNode p.node)) s))) :=
        .of_notice (n := ⟨.isolated, (s.portOf p).declined, (s.portOf p).attempts, none, false⟩)
          ((State.Moves.endMessage s (M := (· = p)) (p := p) (m := .admitNode p.node) rfl (.inr ⟨rfl, rfl⟩)).trans
            (.toIsolated _ (M := (· = p)) rfl))
          (by simp [toIsolated, Port.isolate]) (by simp [h]) (by simp [toIsolated]) (by simp [toIsolated])
      rw [offerTest_none (offerHolds_down (.inl ((step.moves.links _).trans hdown))), n_eq]
      refine ⟨step, fun j hj => by simp [toIsolated, endMessages_engine_ne hj], nofun, fun _ => ?_⟩
      have ended : (portNotice p .link .isolated (toIsolated p
          (endMessages (hubSlot p) (fun m => decide (m = .admitNode p.node)) s))).engine (hubSlot p) =
          (s.engine (hubSlot p)).endMessages fun m => decide (m = .admitNode p.node) := by
        simp [toIsolated, endMessages]
      rw [ended]
      exact List.any_eq_false.mpr fun q hq => by simpa using (List.mem_filter.mp hq).2
    · next hasked =>
      have n_eq : n = s.portOf p := by simp [n, Port.nodeLost, h, asked, hasked]
      exact ⟨n_eq ▸ .stays s p, fun _ _ => rfl, fun hn => by simp [n_eq, h] at hn, fun _ => by simpa using hasked⟩
  · next h =>
    obtain ⟨step, engines, asks⟩ := moving (.inl h)
    rw [h] at step engines asks
    refine ⟨step, engines, fun hn _ hfree => asks ?_ hfree, fun hn => by simp [h] at hn⟩
    by_contra hup
    simp [n, Port.nodeLost, h, hup] at hn
  · next h =>
    have n_eq : n = s.portOf p := by simp [n, Port.nodeLost, h]
    exact ⟨n_eq ▸ .stays s p, fun _ _ => rfl, fun hn => by simp [n_eq, h] at hn, fun hn => by simp [h] at hn⟩
  · next h =>
    obtain ⟨step, engines, asks⟩ := moving (.inr h)
    rw [h] at step engines asks
    refine ⟨step, engines, fun hn _ hfree => asks ?_ hfree, fun hn => by simp [h] at hn⟩
    by_contra hup
    simp [n, Port.nodeLost, h, hup] at hn
  · next h =>
    have n_eq : n = s.portOf p := by simp [n, Port.nodeLost, h]
    exact ⟨n_eq ▸ .stays s p, fun _ _ => rfl, fun _ hn => absurd h hn, fun hn => by simp [h] at hn⟩

/-! ### The ports of a lost link -/

theorem State.Moves.slotNotice (h : s.Moves M t) (i : SlotId) (body : NoticeBody) :
    slotNotice t i body t.broughtBy = slotNotice s i body s.broughtBy := by
  simp only [Machine.slotNotice, slot_congr h.slots, h.time, h.broughtBy]

/-- An act that resolves the ports `ps`, each once: every port becomes what `R` says, and each port that moves hands a
PORT notice with detail LINK (R103). -/
structure State.PortsStep (s : State) (ps : List PortId) (R : PortId → Port) (t : State) : Prop where
  moves : s.Moves (fun q => q ∈ ps ∧ R q ≠ s.portOf q) t
  ports : ∀ p ∈ ps, t.portOf p = R p
  hands : ∃ l : List Notice, l.length ≤ ps.length ∧ s.Says l t
    ∧ ∀ p ∈ ps, R p ≠ s.portOf p → slotNotice s (nodeSlot p) (.port .link p.hub (R p).state) s.broughtBy ∈ l

/-- Ports that are resolved one after another, none by the step of another. -/
theorem State.PortsStep.foldl {f : State → PortId → State} {R : PortId → Port} : ∀ (ps : List PortId) (s : State),
    ps.Nodup → (∀ v, ∀ p ∈ ps, s.Moves (fun q => q ∈ ps ∧ q ≠ p) v → v.PortStep p (R p) (f v p)) →
    s.PortsStep ps R (ps.foldl f s)
  | [], s, _, _ => ⟨.refl, nofun, [], Nat.le_refl _, .silent rfl rfl, nofun⟩
  | p :: ps, s, hps, hf => by
    obtain ⟨hp, hps⟩ := List.nodup_cons.mp hps
    have first := hf s p List.mem_cons_self .refl
    have apart : ∀ q ∈ ps, q ≠ p := fun q hq h => hp (h ▸ hq)
    have kept : ∀ q ∈ ps, (f s p).portOf q = s.portOf q := fun q hq => first.moves.ports q (apart q hq)
    have rest : (f s p).PortsStep ps R (ps.foldl f (f s p)) := foldl ps (f s p) hps fun v q hq hv =>
      hf v q (List.mem_cons_of_mem _ hq)
        ((first.moves.mono fun _ h => ⟨h ▸ List.mem_cons_self, h ▸ (apart q hq).symm⟩).trans
          (hv.mono fun _ h => ⟨List.mem_cons_of_mem _ h.1, h.2⟩))
    have later : (f s p).Moves (fun q => q ∈ p :: ps ∧ R q ≠ s.portOf q) (ps.foldl f (f s p)) :=
      rest.moves.mono fun q h => ⟨List.mem_cons_of_mem _ h.1, kept q h.1 ▸ h.2⟩
    have at_p : (ps.foldl f (f s p)).portOf p = R p := (rest.moves.ports p fun h => hp h.1).trans first.port
    obtain ⟨l, hlen, hl, hmem⟩ := rest.hands
    rw [List.foldl_cons]
    have ports : ∀ q ∈ p :: ps, (ps.foldl f (f s p)).portOf q = R q := fun q hq => by
      rcases List.mem_cons.mp hq with rfl | hq
      · exact at_p
      · exact rest.ports q hq
    by_cases hsame : R p = s.portOf p
    · have same := first.same hsame
      rw [same] at later hl hmem
      rw [same] at ports ⊢
      refine ⟨later, ports, l, by simp; omega, hl, fun q hq hne => ?_⟩
      rcases List.mem_cons.mp hq with rfl | hq
      · exact absurd hsame hne
      · exact hmem q hq hne
    · refine ⟨(first.moves.mono fun q h => by subst h; exact ⟨List.mem_cons_self, hsame⟩).trans later, ports,
        _, ?_, (first.hands hsame).trans hl, fun q hq hne => ?_⟩
      · simp; omega
      · rcases List.mem_cons.mp hq with rfl | hq
        · exact List.mem_append_left _ List.mem_cons_self
        · have told := hmem q hq (kept q hq ▸ hne)
          rw [first.moves.slotNotice] at told
          exact List.mem_append_right _ told

/-- What becomes of a port when the link of slot `i` is lost (R120, R121). -/
def State.lostPort (s : State) (i : SlotId) (p : PortId) : Port :=
  if hubSlot p = i then (s.portOf p).hubLost
  else if nodeSlot p = i then
    (s.portOf p).nodeLost ((s.engine (hubSlot p)).queued fun m => decide (m = .admitNode p.node))
      (s.linkUp (hubSlot p)) s.drainDeadline
  else s.portOf p

/-- A hub's lost link brings no port to WITHDRAWING (R121). -/
theorem lostPort_withdrawing (h : (s.lostPort i p).state = .withdrawing) (h' : (s.portOf p).state ≠ .withdrawing) :
    nodeSlot p = i := by
  by_contra hne
  rw [State.lostPort, if_neg hne] at h
  split at h
  · rw [Port.hubLost, if_neg h'] at h
    split at h
    · exact absurd h nofun
    · exact h' h
  · exact h' h

theorem isHub_hubSlot (p : PortId) : isHub (hubSlot p) = true := by simp [isHub, hubSlot]

theorem isHub_nodeSlot (p : PortId) : isHub (nodeSlot p) = false :=
  decide_eq_false (Nat.not_le.mpr p.node.isLt)

theorem hub_of_mem (hhub : isHub i = true) (hp : p ∈ slotPorts i) : hubSlot p = i := by
  obtain ⟨n, h⟩ := p
  revert i n h
  decide +kernel

theorem node_of_mem (hnode : isHub i = false) (hp : p ∈ slotPorts i) : nodeSlot p = i := by
  obtain ⟨n, h⟩ := p
  revert i n h
  decide +kernel

/-- The ports of a node are on different hubs. -/
theorem hubSlot_apart (hp : nodeSlot p = i) (hq : nodeSlot q = i) (hne : q ≠ p) : hubSlot p ≠ hubSlot q := by
  obtain ⟨n, h⟩ := p
  obtain ⟨m, g⟩ := q
  revert i n h m g
  decide +kernel

/-- The other ports of a node leave the engine of a port's hub. -/
theorem State.Moves.hub_apart (hnode : isHub i = false) (hp : p ∈ slotPorts i)
    (h : s.Moves (fun q => q ∈ slotPorts i ∧ q ≠ p) v) : v.engine (hubSlot p) = s.engine (hubSlot p) :=
  h.engines _ fun q hq => ⟨hubSlot_ne_nodeSlot p q,
    hubSlot_apart (node_of_mem hnode hp) (node_of_mem hnode hq.1) hq.2⟩

/-- The ports of a slot whose link is lost (R120, R121). -/
theorem resolveLoss_ports (hdown : s.linkUp i = false) : s.PortsStep (slotPorts i) (s.lostPort i) (resolveLoss i s) := by
  refine .foldl _ s (slotPorts_nodup i) fun v p hp hv => ?_
  have port : v.portOf p = s.portOf p := hv.ports p fun h => h.2 rfl
  have down : v.linkUp i = false := (hv.links i).trans hdown
  by_cases hhub : isHub i = true
  · have at_hub := hub_of_mem hhub hp
    have step := (resolveHubPort_step (s := v) (p := p) (at_hub ▸ down)).1
    rw [if_pos hhub, State.lostPort, if_pos at_hub, ← port]
    exact step
  · have hnode : isHub i = false := by simpa using hhub
    have at_node := node_of_mem hnode hp
    have off_hub : hubSlot p ≠ i := at_node ▸ hubSlot_ne_nodeSlot p p
    have step := (resolveNodePort_step (s := v) (p := p) (at_node ▸ down)).1
    have drain : v.drainDeadline = s.drainDeadline := by simp only [State.drainDeadline, hv.time, hv.settings]
    rw [port, hv.hub_apart hnode hp, hv.links, drain] at step
    rw [if_neg hhub, State.lostPort, if_neg off_hub, if_pos at_node]
    exact step

/-- The engines when a link is lost: those of the hubs of a node alone take part (R112, R120). -/
theorem resolveLoss_engines (hdown : s.linkUp i = false) {j : SlotId} (hj : isHub j = false ∨ isHub i = true) :
    (resolveLoss i s).engine j = s.engine j := by
  have fold : ∀ ps : List PortId, (∀ p ∈ ps, p ∈ slotPorts i) → ∀ v : State, v.linkUp i = false →
      (ps.foldl (if isHub i then resolveHubPort else resolveNodePort) v).engine j = v.engine j := by
    intro ps
    induction ps with
    | nil => exact fun _ _ _ => rfl
    | cons p ps ih =>
      intro hps v hv
      have hp := hps p List.mem_cons_self
      rw [List.foldl_cons]
      by_cases hhub : isHub i = true
      · obtain ⟨step, engines⟩ := resolveHubPort_step (s := v) (p := p) (hub_of_mem hhub hp ▸ hv)
        have rest := ih (fun q hq => hps q (List.mem_cons_of_mem _ hq)) (resolveHubPort v p) ((step.moves.links i).trans hv)
        rw [if_pos hhub] at rest ⊢
        exact rest.trans (engines j)
      · have hnode : isHub i = false := by simpa using hhub
        obtain ⟨step, engines, -⟩ := resolveNodePort_step (s := v) (p := p) (node_of_mem hnode hp ▸ hv)
        have rest := ih (fun q hq => hps q (List.mem_cons_of_mem _ hq)) (resolveNodePort v p) ((step.moves.links i).trans hv)
        rw [if_neg hhub] at rest ⊢
        refine rest.trans (engines j fun h => ?_)
        rw [h, isHub_hubSlot] at hj
        exact hj.elim nofun hhub
  exact fold _ (fun _ h => h) s hdown

/-- What the loss of a node's link places and ends on the link of a port's hub (R112, R120). -/
theorem resolveLoss_hub (hdown : s.linkUp i = false) (hp : nodeSlot p = i) :
    ((s.lostPort i p).state = .withdrawing → (s.portOf p).state ≠ .withdrawing →
      (s.engine (hubSlot p)).queued (fun m => decide (m = .admitNode p.node)) = false →
      ((resolveLoss i s).engine (hubSlot p)).Carries (.withdraw p.node))
    ∧ ((s.portOf p).state = .offered →
      ((resolveLoss i s).engine (hubSlot p)).queued (fun m => decide (m = .admitNode p.node)) = false) := by
  have hnode : isHub i = false := hp ▸ isHub_nodeSlot p
  have hmem : p ∈ slotPorts i := mem_slotPorts.mpr (.inl hp)
  have off_hub : hubSlot p ≠ i := hp ▸ hubSlot_ne_nodeSlot p p
  obtain ⟨v, before, after⟩ := foldl_turn (f := resolveNodePort) (fun s q => .resolveNodePort s (M := (· = q)) rfl)
    (slotPorts i) s (slotPorts_nodup i) hmem
  have resolve : (slotPorts i).foldl resolveNodePort s = resolveLoss i s := by rw [resolveLoss, if_neg (by simp [hnode])]
  rw [resolve] at after
  obtain ⟨-, -, asks, drops⟩ := resolveNodePort_step (s := v) (p := p) (hp ▸ (before.links i).trans hdown)
  have drain : v.drainDeadline = s.drainDeadline := by simp only [State.drainDeadline, before.time, before.settings]
  rw [before.ports p fun h => h.2 rfl, before.hub_apart hnode hmem, before.links, drain] at asks
  rw [before.ports p fun h => h.2 rfl] at drops
  rw [after.hub_apart hnode hmem, State.lostPort, if_neg off_hub, if_pos hp]
  exact ⟨asks, drops⟩

/-! ### The sequencer takes the loss -/

/-- The slot with the fault that a lost link raises in it (R19, R143). -/
def State.lossSlot (s : State) (i : SlotId) : Slot :=
  if (s.slot i).state = .inService then { s.slot i with fault := some .linkLost, faultTime := s.time } else s.slot i

/-- A fault that is no power cause is kept and handed alone under NOTIFY (R20, R21). -/
theorem raiseFault_notes {cause : FaultCause} (hcause : cause.isPower = false) (h : (u.slot i).policy.fault = .notify) :
    raiseFault i cause u = u.raised i cause :=
  if_neg (by simp [hcause, h])

theorem raised_says (u : State) (i : SlotId) (cause : FaultCause) :
    ∃ n, u.Says [n] (u.raised i cause) :=
  ⟨_, .then_hand (s := u) (t := u.modSlot i fun x => { x with fault := some cause, faultTime := u.time }) rfl rfl _⟩

/-- A lost link that brings no removal of power is handed as a notice and, in IN-SERVICE, kept in the fault field
(R19, R143). -/
theorem seqLinkLost_notes (hread : (u.slot i).read = none)
    (hstate : (u.slot i).state = .parked ∨ (u.slot i).state = .inService ∧ (u.slot i).policy.fault = .notify) :
    ∃ l, l.length ≤ 2 ∧ u.Says l (seqLinkLost i (linkNotice i false u))
    ∧ (seqLinkLost i (linkNotice i false u)).slot i = u.lossSlot i
    ∧ (∀ j, j ≠ i → (seqLinkLost i (linkNotice i false u)).slot j = u.slot j)
    ∧ (∀ p, (seqLinkLost i (linkNotice i false u)).portOf p = u.portOf p)
    ∧ (∀ j, (seqLinkLost i (linkNotice i false u)).engine j = u.engine j)
    ∧ (seqLinkLost i (linkNotice i false u)).late = u.late ∧ (seqLinkLost i (linkNotice i false u)).work = u.work
    ∧ CellsKept u (seqLinkLost i (linkNotice i false u)) ∧ (seqLinkLost i (linkNotice i false u)).alloc = u.alloc
    ∧ (seqLinkLost i (linkNotice i false u)).power = u.power := by
  have told : u.Says [slotNotice u i (.link false) (u.activeTag i)] (linkNotice i false u) := .hand _ u
  have unread : ∀ v : State, (v.slot i).read = none → readLost i v = v := fun v h => by simp only [readLost, h]
  rcases hstate with hparked | ⟨hin, hnotify⟩
  · have act : seqLinkLost i (linkNotice i false u) = linkNotice i false u := by
      rw [seqLinkLost, stateLinkLost]
      simp only [linkNotice_reads, hparked, reduceCtorEq, if_false]
      rw [reportFault, if_neg (by simp [hparked, SlotState.payloadOn])]
      exact unread _ (by simpa using hread)
    rw [act]
    refine ⟨_, by simp, told, ?_, ?_, ?_, ?_, ?_, ?_, ?_, ?_, ?_⟩ <;> simp [State.lossSlot, hparked, CellsKept]
  · have act : seqLinkLost i (linkNotice i false u) = (linkNotice i false u).raised i .linkLost := by
      rw [seqLinkLost, stateLinkLost]
      simp only [linkNotice_reads, hin, reduceCtorEq, if_false]
      rw [reportFault_payload (by simp [hin, SlotState.payloadOn]), raiseFault_notes rfl (by simpa using hnotify)]
      exact unread _ (by rw [raised_slot_self]; simpa using hread)
    obtain ⟨n, raised⟩ := raised_says (linkNotice i false u) i .linkLost
    rw [act]
    refine ⟨_, ?_, told.trans raised, ?_, fun j hj => ?_, ?_, ?_, ?_, ?_, ?_, ?_, ?_⟩
    · simp
    · simp [raised_slot_self, State.lossSlot, hin]
    · simp [State.raised, hj]
    all_goals simp [State.raised, CellsKept]

theorem unlinked_facts (s : State) (i : SlotId) : (s.unlinked i).linkUp i = false
    ∧ (∀ j, j ≠ i → (s.unlinked i).engine j = s.engine j)
    ∧ (s.unlinked i).engine i = { s.engine i with
        link := .lost, queue := [], out := none, recovery := some (after s.time 1000) } := by
  refine ⟨?_, fun j hj => modEngine_engine_ne _ _ _ _ hj, modEngine_engine_self ..⟩
  rw [State.linkUp, State.unlinked, modEngine_engine_self]
  rfl

/-- What becomes of the ports is not a matter of the lost link's own state. -/
theorem unlinked_lostPort (s : State) (i : SlotId) (p : PortId) : (s.unlinked i).lostPort i p = s.lostPort i p := by
  have ports : ∀ q, (s.unlinked i).portOf q = s.portOf q := fun _ => rfl
  have drain : (s.unlinked i).drainDeadline = s.drainDeadline := rfl
  by_cases hub : hubSlot p = i
  · rw [State.lostPort, if_pos hub, State.lostPort, if_pos hub, ports]
  · have engine := (unlinked_facts s i).2.1 _ hub
    have link : (s.unlinked i).linkUp (hubSlot p) = s.linkUp (hubSlot p) := by rw [State.linkUp, engine]; rfl
    rw [State.lostPort, if_neg hub, State.lostPort, if_neg hub, ports, engine, link, drain]

/-- Two slots have at most one port between them. -/
theorem port_unique (hij : j ≠ i) (hp : p ∈ slotPorts i) (hp' : p ∈ slotPorts j) (hq : q ∈ slotPorts i)
    (hq' : q ∈ slotPorts j) : q = p := by
  rw [mem_slotPorts] at *
  obtain ⟨n, h⟩ := p
  obtain ⟨m, g⟩ := q
  have node : nodeSlot ⟨n, h⟩ = nodeSlot ⟨m, g⟩ → n = m := fun e =>
    Fin.ext (by simpa [nodeSlot] using congrArg Fin.val e)
  have hub : hubSlot ⟨n, h⟩ = hubSlot ⟨m, g⟩ → h = g := fun e => Fin.ext (by simpa [hubSlot] using congrArg Fin.val e)
  have apart := nodeSlot_ne_hubSlot ⟨n, h⟩ ⟨m, g⟩
  have apart' := nodeSlot_ne_hubSlot ⟨m, g⟩ ⟨n, h⟩
  have h1 := nodeSlot_ne_hubSlot ⟨n, h⟩ ⟨n, h⟩
  have h2 := nodeSlot_ne_hubSlot ⟨m, g⟩ ⟨m, g⟩
  have both : nodeSlot ⟨n, h⟩ = nodeSlot ⟨m, g⟩ ∧ hubSlot ⟨n, h⟩ = hubSlot ⟨m, g⟩ := by
    grind
  rw [node both.1, hub both.2]

/-- A move of a port of slot `i` that keeps the course of its slots ends no join and no leave of another slot, though the
other ports of slot `i` move with it. -/
theorem State.KeepsCourse.lateIdle_beside (h : s.KeepsCourse p) (hp : p ∈ slotPorts i)
    (hports : ∀ q, q ∉ slotPorts i → t.portOf q = s.portOf q) (hij : j ≠ i) (hslot : t.slot j = s.slot j)
    (hj : j = nodeSlot p ∨ j = hubSlot p) : LateIdle t j := by
  have mem : j ∈ [nodeSlot p, hubSlot p] := by rcases hj with rfl | rfl <;> simp
  have ends : p ∈ slotPorts j := mem_slotPorts.mpr (hj.imp Eq.symm Eq.symm)
  have still : ∀ q ∈ slotPorts j, q ≠ p → t.portOf q = s.portOf q := fun q hq hne =>
    hports q fun hmem => hne (port_unique hij hp ends hmem hq)
  rw [LateIdle, hslot]
  refine ⟨fun ⟨hstate, hdone⟩ => ?_, fun ⟨hstate, hdone⟩ => ?_⟩
  · obtain ⟨q, hq, hne, hcourse⟩ := h.joining j mem hstate
    have done := List.all_eq_true.mp hdone q hq
    rw [still q hq hne] at done
    rcases hcourse with hcourse | hcourse <;> simp [hcourse] at done
  · obtain ⟨q, hq, hne, hcourse⟩ := h.leaving j mem hstate
    have done := List.all_eq_true.mp hdone q hq
    rw [still q hq hne] at done
    exact hcourse (of_decide_eq_true done)

theorem slotPorts_length (i : SlotId) : (slotPorts i).length ≤ 14 := by
  revert i
  decide

/-- Settles O52. -/
theorem thirdFailureLosesLink : Obligations.ThirdFailureLosesLink := by
  intro s i o hinv hl hup ho hdue hlive hask hrec hthird hread hstate asked resolved hcourse
  obtain ⟨hdown, uengines, uengine⟩ := unlinked_facts s i
  have lost : ∀ p, (s.unlinked i).lostPort i p = resolved p := unlinked_lostPort s i
  have step := resolveLoss_ports hdown
  have engines := fun j => resolveLoss_engines (j := j) hdown
  have hubs := fun p => resolveLoss_hub (p := p) hdown
  have loss : linkLoss i s = seqLinkLost i (linkNotice i false (resolveLoss i (s.unlinked i))) := rfl
  have before : (s.unlinked i).slots = s.slots ∧ (s.unlinked i).ports = s.ports ∧ (s.unlinked i).late = s.late
      ∧ (s.unlinked i).work = s.work ∧ CellsKept s (s.unlinked i) ∧ (s.unlinked i).alloc = s.alloc
      ∧ (s.unlinked i).power = s.power ∧ (s.unlinked i).time = s.time ∧ (s.unlinked i).port = s.port
      ∧ (s.unlinked i).journal = s.journal ∧ (s.unlinked i).broughtBy = s.broughtBy :=
    ⟨rfl, rfl, rfl, rfl, ⟨rfl, rfl⟩, rfl, rfl, rfl, rfl, rfl, rfl⟩
  generalize s.unlinked i = u at *
  obtain ⟨bslots, bports, blate, bwork, bcells, balloc, bpower, btime, bport, bjournal, bbrought⟩ := before
  have uports : ∀ q, u.portOf q = s.portOf q := fun q => by rw [State.portOf, bports]; rfl
  have rslots := step.moves.slots.trans bslots
  have kept : ∀ p, p ∉ slotPorts i → resolved p = s.portOf p := fun p hp => by
    have := mt mem_slotPorts.mpr hp
    simp only [not_or] at this
    simp only [resolved, this.1, this.2, if_false]
  have rports : ∀ p, (resolveLoss i u).portOf p = resolved p := fun p => by
    by_cases hp : p ∈ slotPorts i
    · exact (step.ports p hp).trans (lost p)
    · exact (step.moves.ports p fun h => hp h.1).trans ((uports p).trans (kept p hp).symm)
  obtain ⟨l, llen, lsays, ltold⟩ := step.hands
  have notes := seqLinkLost_notes (u := resolveLoss i u) (i := i) (by rw [slot_congr rslots]; exact hread)
    (by rw [slot_congr rslots]; exact hstate)
  rw [← loss] at notes
  obtain ⟨m, mlen, msays, vslot, vslots, vports, vengines, vlate, vwork, vcells, valloc, vpower⟩ := notes
  have third : failAttempt i o s = linkLoss i s := by
    rw [failAttempt, if_neg (by simp [hlive, hask]), if_neg (by simpa [Config.maxAttempts] using hthird),
      if_neg (by simp [hrec, State.linkUp, hup])]
  generalize linkLoss i s = v at *
  have vslot' : ∀ j, v.slot j = if j = i then s.lossSlot i else s.slot j := fun j => by
    split
    · next h => rw [h, vslot, State.lossSlot, slot_congr rslots, step.moves.time, btime]; rfl
    · next h => rw [vslots j h, slot_congr rslots]
  have vstate : ∀ j, (v.slot j).state = (s.slot j).state := fun j => by
    rw [vslot' j]
    split
    · next h => rw [h, State.lossSlot]; split <;> rfl
    · rfl
  have vport : ∀ p, v.portOf p = resolved p := fun p => (vports p).trans (rports p)
  have idle : ∀ j, (∃ p, (p ∈ slotPorts i ∧ u.lostPort i p ≠ u.portOf p) ∧ (j = nodeSlot p ∨ j = hubSlot p)) →
      LateIdle v j := fun j ⟨p, ⟨hp, hmoved⟩, hj⟩ => by
    by_cases hji : j = i
    · subst hji
      have off : (s.slot j).state ≠ .joining ∧ (s.slot j).state ≠ .leaving := by
        rcases hstate with h | h <;> simp [h]
      exact lateIdle_elsewhere (by rw [vstate]; exact off.1) (by rw [vstate]; exact off.2)
    · rw [lost, uports] at hmoved
      exact (hcourse p hmoved).lateIdle_beside hp (fun q hq => (vport q).trans (kept q hq)) hji
        (by rw [vslot', if_neg hji]) hj
  have late := step.moves.late
    (fun j => ∃ p, (p ∈ slotPorts i ∧ u.lostPort i p ≠ u.portOf p) ∧ (j = nodeSlot p ∨ j = hubSlot p))
    (fun p hp => ⟨⟨p, hp, .inl rfl⟩, ⟨p, hp, .inr rfl⟩⟩) (.of_nil (blate.trans hl.late))
  have hend : v.AtEnd 4096 := (late.congr vlate).atEnd (js := [])
    (jobs_nil (vwork.trans (step.moves.work.trans (bwork.trans hl.work)))) (fun _ hx => absurd hx List.not_mem_nil) idle
    (by simp)
  have act : replyExpired i s = v := (replyExpired_some ho).trans ((if_pos hdue).trans third)
  obtain ⟨w, b, -, he⟩ := hend.liveEvent hl act
  have vkept : CellsKept s v := bcells.trans (CellsKept.trans ⟨step.moves.cells, step.moves.mem⟩ vcells)
  have vengine : ∀ j, v.engine j = (resolveLoss i u).engine j := vengines
  refine ⟨v.ended w b, congrArg Host.Outcome.next he, ?_, ?_, fun p => ?_, fun p hw hnw hasked => ?_, fun p hp hi => ?_,
    fun hrun hgap hroom p hmoved => ?_, fun j hj => ?_, vkept.trans (ended_cellsKept ..), ?_, ?_, fun j hj hhub => ?_⟩
  · rw [(ended_reads ..).2.2.1, vengine, engines i (by cases isHub i <;> simp), uengine]
  · rw [(ended_reads ..).1]
    rw [vslot', if_pos rfl]
    exact Slot.written_like _ _
  · rw [(ended_reads ..).2.2.2.2.1, vport]
  · have at_node : nodeSlot p = i := lostPort_withdrawing (s := u) (by rw [lost]; exact hw) (by rw [uports]; exact hnw)
    have off_hub : hubSlot p ≠ i := at_node ▸ hubSlot_ne_nodeSlot p p
    rw [(ended_reads ..).2.2.1, vengine]
    refine (hubs p at_node).1 (by rw [lost]; exact hw) (by rw [uports]; exact hnw) ?_
    rw [uengines _ off_hub]
    exact hasked
  · rw [(ended_reads ..).2.2.1, vengine]
    exact (hubs p hi).2 (by rw [uports]; exact hp)
  · have mem : p ∈ slotPorts i := by_contra fun h => hmoved (kept p h)
    have said := (State.Says.silent bport bjournal).trans (lsays.trans msays)
    have few : l.length ≤ 14 := llen.trans (slotPorts_length i)
    have wrote := said s [] hroom (.refl hrun hgap) (by simp; omega)
    obtain ⟨k, hk, entry⟩ := List.mem_iff_getElem.mp (ltold p mem (by rw [lost, uports]; exact hmoved))
    refine ⟨k, by omega, ?_⟩
    have journal : (v.ended w b).journal = v.journal := by simp
    have told := wrote.entries k (by simp; omega)
    dsimp only
    simp only [journal]
    rw [told]
    simp only [List.nil_append, List.getElem_append_left hk, entry, lost]
    simp only [slotNotice, slot_congr bslots, btime, bbrought, hl.broughtBy]
  · rw [(ended_reads ..).1, vslot', if_neg hj]
    exact Slot.written_like _ _
  · simp [valloc, step.moves.alloc, balloc]
  · simp [vpower, step.moves.power, bpower]
  · rw [(ended_reads ..).2.2.1, vengine, engines j hhub, uengines j hj]

end Sys2Proof.Machine

/-! The answer of a PROBE, as the sequencer takes it (R10, R19, R137, R199). -/

namespace Sys2Proof.Machine

variable {s t u v w : State} {i j : SlotId} {p q : PortId} {st : AgentState} {b : Byte}

/-! ### The record of an answer -/

/-- The slot has its PROBE answer recorded (R137). -/
def State.answered (s : State) (i : SlotId) (st : AgentState) (b : Byte) : State :=
  s.modSlot i (Slot.recordAgent st b)

theorem answered_slot_self (s : State) (i : SlotId) (st : AgentState) (b : Byte) :
    (s.answered i st b).slot i = (s.slot i).recordAgent st b := modSlot_slot_self ..

theorem answered_slot_state (s : State) (i : SlotId) (st : AgentState) (b : Byte) (j : SlotId) :
    ((s.answered i st b).slot j).state = (s.slot j).state := by
  by_cases hj : j = i
  · rw [hj, answered_slot_self]
    rfl
  · rw [State.answered, modSlot_slot_ne _ _ _ _ hj]

theorem State.OnSlot.answered (s : State) (i : SlotId) (st : AgentState) (b : Byte) : s.OnSlot i (s.answered i st b) :=
  .modSlot s i _

theorem State.OnSlot.raised (s : State) (i : SlotId) (cause : FaultCause) : s.OnSlot i (s.raised i cause) :=
  (State.OnSlot.modSlot s i _).trans (.handNotice _ i _)

/-- A state that takes nothing more from a PROBE answer (R10, R16, R158). -/
theorem stateAnswer_plain (h : (s.slot i).state ∉ [SlotState.booting, .quiescing, .stamping]) :
    stateAnswer i st s = s := by
  simp only [List.mem_cons, List.not_mem_nil, or_false, not_or] at h
  unfold stateAnswer
  split
  · next hs => exact absurd hs h.1
  · next hs => exact absurd hs h.2.1
  · next hs _ => exact absurd hs h.2.2
  · rfl

/-- Outside RESUMING an answer that raises no fault goes to the slot's state (R137). -/
theorem probeAnswer_state (hres : (s.slot i).state ≠ .resuming)
    (hfault : st ≠ .fault ∨ (s.slot i).state.payloadOn = false ∨ (s.slot i).agentFault = true) :
    probeAnswer i st b s = stateAnswer i st (s.answered i st b) := by
  have quiet : ∀ u : State, (u.slot i).state.payloadOn = false → reportFault i .agentFault u = u := fun u h =>
    if_neg (by simp [h])
  rw [probeAnswer, if_neg hres]
  split
  · next h =>
    have off := (hfault.resolve_left (absurd h.1)).resolve_right (by simp [h.2])
    exact congrArg (stateAnswer i st) (quiet (s.answered i st b) (by rw [answered_slot_state]; exact off))
  · rfl

theorem probeAnswer_plain (hplain : (s.slot i).state ∉ [SlotState.booting, .quiescing, .stamping, .resuming])
    (hfault : st ≠ .fault ∨ (s.slot i).state.payloadOn = false ∨ (s.slot i).agentFault = true) :
    probeAnswer i st b s = s.answered i st b := by
  simp only [List.mem_cons, List.not_mem_nil, or_false, not_or] at hplain
  rw [probeAnswer_state hplain.2.2.2 hfault, stateAnswer_plain]
  simp only [answered_slot_state, List.mem_cons, List.not_mem_nil, or_false, not_or]
  exact ⟨hplain.1, hplain.2.1, hplain.2.2.1⟩

/-- The first FAULT of a slot with payload is raised alone under NOTIFY (R19, R21). -/
theorem probeAnswer_notes (hplain : (s.slot i).state ∉ [SlotState.booting, .quiescing, .stamping, .resuming])
    (hpayload : (s.slot i).state.payloadOn = true) (hfirst : (s.slot i).agentFault = false)
    (hnotify : (s.slot i).policy.fault = .notify) :
    probeAnswer i .fault b s = (s.answered i .fault b).raised i .agentFault := by
  simp only [List.mem_cons, List.not_mem_nil, or_false, not_or] at hplain
  have report : reportFault i .agentFault (s.answered i .fault b) = (s.answered i .fault b).raised i .agentFault := by
    rw [reportFault_payload (by rw [answered_slot_state]; exact hpayload), raiseFault_notes rfl]
    rw [answered_slot_self]
    exact hnotify
  have state : (((s.answered i .fault b).raised i .agentFault).slot i).state = (s.slot i).state := by
    rw [raised_slot_self]
    exact answered_slot_state ..
  rw [probeAnswer, if_neg hplain.2.2.2, if_pos ⟨rfl, hfirst⟩]
  refine (congrArg (stateAnswer i .fault) report).trans (stateAnswer_plain ?_)
  rw [state]
  simp only [List.mem_cons, List.not_mem_nil, or_false, not_or]
  exact ⟨hplain.1, hplain.2.1, hplain.2.2.1⟩

section
variable {o : Outstanding} {f : List Byte} {r : Reply} (hl : s.Live) (ho : (s.engine i).out = some o)
  (hmsg : o.msg = .probe) (hlive : o.live = true) (hf : judgeReply .probe o.seq f = some r)
  (hst : AgentState.ofCode (byteAt r.payload 0) = some st)
include hl ho hmsg hlive hf hst

/-- The first part of O51: the answer is recorded, and no more. -/
theorem answer_recorded (hrec : o.recovery = false)
    (hplain : (s.slot i).state ∉ [SlotState.booting, .quiescing, .stamping, .resuming])
    (hfault : st ≠ .fault ∨ (s.slot i).state.payloadOn = false ∨ (s.slot i).agentFault = true) :
    ∃ t, exec (.frameArrival i f) s = .next t ∧ (t.slot i).Like ((s.slot i).recordAgent st (byteAt r.payload 1))
    ∧ OtherSlots i s t ∧ CellsKept s t ∧ t.alloc = s.alloc ∧ t.power = s.power
    ∧ t.ports = s.ports ∧ t.journal = s.journal ∧ OtherEngines i s t := by
  have taken := frameTaken_probe ho hmsg hlive hf hst
  rw [hrec] at taken
  replace taken := taken.trans (congrArg (State.proceeds · i .probe) (probeAnswer_plain hplain hfault))
  obtain ⟨t, he, slot, -, journal, slots, cells, alloc, power, ports, engines⟩ :=
    ((State.OnSlot.answered s i st (byteAt r.payload 1)).trans (.proceeds _ i .probe)).ends hl taken
  refine ⟨t, congrArg Host.Outcome.next he, ?_, slots, cells, alloc, power, ports, journal.trans ?_, engines⟩
  · rw [(proceeds_reads ..).1, answered_slot_self] at slot
    exact slot
  · simp [State.answered]

/-- The second part of O51: a FAULT is raised under NOTIFY. -/
theorem answer_faulted (hrec : o.recovery = false)
    (hplain : (s.slot i).state ∉ [SlotState.booting, .quiescing, .stamping, .resuming]) (hfault : st = .fault)
    (hpayload : (s.slot i).state.payloadOn = true) (hfirst : (s.slot i).agentFault = false)
    (hnotify : (s.slot i).policy.fault = .notify) :
    ∃ t, exec (.frameArrival i f) s = .next t
    ∧ (t.slot i).Like { (s.slot i).recordAgent st (byteAt r.payload 1) with
        fault := some .agentFault, faultTime := s.time }
    ∧ OtherSlots i s t ∧ CellsKept s t ∧ t.alloc = s.alloc ∧ t.power = s.power
    ∧ t.ports = s.ports ∧ OtherEngines i s t := by
  subst hfault
  have taken := frameTaken_probe ho hmsg hlive hf hst
  rw [hrec] at taken
  replace taken := taken.trans (congrArg (State.proceeds · i .probe) (probeAnswer_notes hplain hpayload hfirst hnotify))
  obtain ⟨t, he, slot, -, -, slots, cells, alloc, power, ports, engines⟩ :=
    ((State.OnSlot.answered s i .fault (byteAt r.payload 1)).trans
      ((State.OnSlot.raised _ i .agentFault).trans (.proceeds _ i .probe))).ends hl taken
  refine ⟨t, congrArg Host.Outcome.next he, ?_, slots, cells, alloc, power, ports, engines⟩
  rw [(proceeds_reads ..).1, raised_slot_self, answered_slot_self] at slot
  exact slot

end

end Sys2Proof.Machine

/-! The end of a resumption (R199 to R201): its first notice, and the slot's way to BOOTING or IN-SERVICE. -/

namespace Sys2Proof.Machine

variable {s t u v w y : State} {i j : SlotId} {p q : PortId} {st : AgentState} {b : Byte}

/-! ### A notice stays in its entry while nothing is read -/

/-- The notice of number `k` stands in its entry, and the journal has not come round to it (R163). -/
structure Journal.Holds (J : Journal) (k : Word16) (n : Notice) : Prop where
  entry : J.entries[(entryOf k).val]'(entryOf k).isLt = some n
  later : 1 ≤ (J.writeCount - k).toNat
  room : (J.writeCount - k).toNat + (k - J.readCount).toNat ≤ 128

namespace Journal.Holds

variable {J : Journal} {k : Word16} {n m : Notice}

/-- A write into a journal that is not full goes to another entry. -/
theorem write (h : J.Holds k n) (hroom : J.full = false) {K : Journal}
    (hentries : K.entries = J.entries.set (entryOf J.writeCount) (some m)) (hcount : K.writeCount = J.writeCount + 1)
    (hread : K.readCount = J.readCount) : K.Holds k n := by
  have apart : J.writeCount - J.readCount ≠ 128 := of_decide_eq_false hroom
  have later := h.later
  have room := h.room
  have short : (J.writeCount - k).toNat + (k - J.readCount).toNat < 128 := by bv_omega
  refine ⟨?_, ?_, ?_⟩
  · simp only [hentries]
    rw [Vector.getElem_set_ne _ _ ?_]
    · exact h.entry
    · simp only [entryOf, Fin.val_ofNat]
      bv_omega
  · rw [hcount]
    bv_omega
  · rw [hcount, hread]
    bv_omega

theorem congr (h : J.Holds k n) {K : Journal} (hentries : K.entries = J.entries) (hcount : K.writeCount = J.writeCount)
    (hread : K.readCount = J.readCount) : K.Holds k n := by
  refine ⟨?_, by rw [hcount]; exact h.later, by rw [hcount, hread]; exact h.room⟩
  simp only [hentries]
  exact h.entry

theorem hand (h : s.journal.Holds k n) (m : Notice) : (handNotice m s).journal.Holds k n := by
  have tested : (roomTest s).journal.Holds k n := by
    by_cases hgap : s.journal.gapPending = true ∧ s.port.run = true ∧ s.journal.full = false
    · obtain ⟨journal, -, -⟩ := roomTest_writes hgap
      exact h.write hgap.2.2 (by rw [journal]) (by rw [journal]) (by rw [journal])
    · rw [roomTest_nothing hgap]
      exact h
  rw [handNotice]
  generalize roomTest s = u at *
  by_cases hwrites : u.port.run = true ∧ u.journal.full = false ∧ u.journal.gapPending = false
  · rw [takeNotice_writes m hwrites, writeNotice_journal]
    exact tested.write hwrites.2.1 rfl rfl rfl
  · rw [takeNotice_folds m hwrites, foldNotice_journal]
    exact tested.congr rfl rfl rfl

/-- The notice that is written next. -/
theorem handed (hlawful : s.journal.Lawful) (h : s.port.run = true ∧ s.journal.full = false ∧ s.journal.gapPending = false) :
    (handNotice n s).journal.Holds s.journal.writeCount n := by
  have apart : s.journal.writeCount - s.journal.readCount ≠ 128 := of_decide_eq_false h.2.1
  have lawful := hlawful.unread
  obtain ⟨count, entry⟩ := handNotice_entry n h
  have read : (handNotice n s).journal.readCount = s.journal.readCount := by rw [handNotice_writes n h]; rfl
  refine ⟨entry, ?_, ?_⟩
  · rw [count]
    bv_omega
  · rw [count, read]
    bv_omega

end Journal.Holds

/-! ### Entry to IN-SERVICE with nothing to finish -/

/-- The jobs of an entry to IN-SERVICE (R13, R28). -/
def serviceJobs (i : SlotId) : List Job :=
  if isHub i then [.start i, .handle i, .handle (otherHub i)] else [.start i, .handle i]

theorem testInService_jobs (hwork : s.work = []) : (testInService i s).jobs = serviceJobs i := by
  unfold testInService serviceJobs
  rw [raise_jobs, jobs_nil hwork]
  rfl

theorem serviceJobs_short (i : SlotId) : (serviceJobs i).length ≤ 3 := by
  unfold serviceJobs
  split <;> simp

/-- With no order and no handle request these jobs do nothing. -/
theorem serviceJobs_idle (horders : (v.slot i).orders = []) (hlatch : (v.slot i).latch = false)
    (hother : isHub i = true → (v.slot (otherHub i)).latch = false) : ∀ x ∈ serviceJobs i, x.Idle v := by
  have start : (Job.start i).Idle v := .inl horders
  have handle : (Job.handle i).Idle v := handleActs_unlatched hlatch
  intro x hx
  unfold serviceJobs at hx
  split at hx
  · next hub =>
    rcases List.mem_cons.mp hx with rfl | hx
    · exact start
    rcases List.mem_cons.mp hx with rfl | hx
    · exact handle
    · rw [List.mem_singleton.mp hx]
      exact handleActs_unlatched (hother hub)
  · rcases List.mem_cons.mp hx with rfl | hx
    · exact start
    · rw [List.mem_singleton.mp hx]
      exact handle

theorem otherHub_ne (h : isHub i = true) : otherHub i ≠ i := by
  revert i
  decide

/-- A slot that resumes IN-SERVICE with nothing waiting (R199, R200). -/
theorem resumeService_ends (h : s.OnSlot i y) (hl : s.Live) (hq : s.Quiet) (hidle : (y.slot i).Idle)
    (hother : isHub i = true → (s.slot (otherHub i)).latch = false) {k : Word16} {n : Notice} {act : State → State}
    (hact : act s = (resumeService i y).proceeds i .probe) :
    ∃ t, liveEvent act s = t ∧ (t.slot i).Like ((y.slot i).enter s.time .inService)
    ∧ (y.journal.Holds k n → t.journal.Holds k n)
    ∧ (∀ q, (s.portOf q).state ≠ .isolated ∨ nodeSlot q ≠ i ∧ hubSlot q ≠ i → t.portOf q = s.portOf q)
    ∧ OtherSlots i s t ∧ CellsKept s t ∧ t.alloc = s.alloc ∧ t.power = s.power := by
  have entered := h.trans (.changeStateOwn y i .inService .restart)
  have eslot := changeStateOwn_slot_self y i .inService .restart
  have ejournal : y.journal.Holds k n → (changeStateOwn i .inService .restart y).journal.Holds k n := fun hk =>
    Journal.Holds.hand (s := moveSlot i .inService y) hk _
  have service : resumeService i y = testInService i (offerTests (slotPorts i) (changeStateOwn i .inService .restart y)) := rfl
  rw [service] at hact
  generalize changeStateOwn i .inService .restart y = v at *
  have tests := State.Moves.offerTests v (M := (· ∈ slotPorts i)) _ fun _ hp => hp
  have tjournal : (offerTests (slotPorts i) v).journal = v.journal := by simp
  have tport := fun q h => offerTests_portOf (s := v) (p := q) h i
  have late := tests.late (fun _ => True) (fun _ _ => ⟨trivial, trivial⟩) (.of_nil (entered.late.trans hl.late))
  generalize offerTests (slotPorts i) v = x at *
  have xslot : ∀ j, x.slot j = v.slot j := slot_congr tests.slots
  have vports : ∀ q, v.portOf q = s.portOf q := portOf_congr entered.ports
  have jobs := testInService_jobs (i := i) (tests.work.trans (entered.work.trans hl.work))
  have same : ∀ z : State, (testInService i z).slots = z.slots ∧ (testInService i z).alloc = z.alloc
      ∧ (testInService i z).power = z.power ∧ (testInService i z).ports = z.ports ∧ CellsKept z (testInService i z)
      ∧ (testInService i z).journal = z.journal ∧ (testInService i z).late = z.late :=
    fun _ => ⟨rfl, rfl, rfl, rfl, ⟨rfl, rfl⟩, rfl, rfl⟩
  obtain ⟨wslots, walloc, wpower, wports, wcells, wjournal, wlate⟩ := same x
  generalize testInService i x = w at *
  have wslot : ∀ j, w.slot j = v.slot j := fun j => (slot_congr wslots j).trans (xslot j)
  have hend : w.AtEnd 4096 := by
    refine (late.congr wlate).atEnd jobs (serviceJobs_idle ?_ ?_ fun hub => ?_) (fun j _ => ?_) ?_
    · rw [wslot, eslot]
      exact hidle.orders
    · rw [wslot, eslot]
      simp [Slot.enter, hidle.latch]
    · rw [wslot, entered.slots _ (otherHub_ne hub)]
      exact hother hub
    · by_cases hj : j = i
      · subst hj
        exact lateIdle_elsewhere (by rw [wslot, eslot]; exact nofun) (by rw [wslot, eslot]; exact nofun)
      · refine lateIdle_elsewhere ?_ ?_
        all_goals rw [wslot, entered.slots j hj]
        · exact (hq.slots j).1
        · exact (hq.slots j).2
    · have := serviceJobs_short i
      omega
  obtain ⟨l, b, -, he⟩ := (hend.proceeds i .probe).liveEvent hl hact
  have like : ∀ j, (((w.proceeds i .probe).ended l b).slot j).Like (v.slot j) := fun j => by
    rw [(ended_reads ..).1, (proceeds_reads ..).1, wslot]
    exact Slot.written_like _ _
  have port : ∀ q, ((w.proceeds i .probe).ended l b).portOf q = x.portOf q := fun q => by
    rw [(ended_reads ..).2.2.2.2.1, (proceeds_reads ..).2.2.1, portOf_congr wports]
  refine ⟨_, he, ?_, fun hk => ?_, fun q hqs => ?_, fun j hj => ?_, ?_, ?_, ?_⟩
  · rw [← h.time, ← eslot]
    exact like i
  · have journal : ((w.proceeds i .probe).ended l b).journal = v.journal := by simp [wjournal, tjournal]
    rw [journal]
    exact ejournal hk
  · rw [port, ← vports]
    rcases hqs with hstate | hfar
    · exact tport q (by rw [vports]; exact hstate)
    · exact tests.ports q fun hmem => (mem_slotPorts.mp hmem).elim hfar.1 hfar.2
  · rw [← entered.slots j hj]
    exact like j
  · have kept : CellsKept w (w.proceeds i .probe) := by simp [CellsKept]
    exact entered.cells.trans (CellsKept.trans ⟨tests.cells, tests.mem⟩
      (wcells.trans (kept.trans (ended_cellsKept ..))))
  · simp [walloc, tests.alloc, entered.alloc]
  · simp [wpower, tests.power, entered.power]

/-- A slot that resumes in BOOTING has a fresh boot limit (R199). -/
theorem resumeBooting_ends (h : s.OnSlot i y) (hl : s.Live) (horders : (y.slot i).orders = []) {k : Word16} {n : Notice}
    {act : State → State} (hact : act s = (resumeBooting i y).proceeds i .probe) :
    ∃ t, liveEvent act s = t
    ∧ (t.slot i).Like { (y.slot i).enter s.time .booting with
        boot := some (after s.time (1000 * if (y.slot i).ident.bootHint.toNat = 0 then 90
          else (y.slot i).ident.bootHint.toNat)) }
    ∧ (y.journal.Holds k n → t.journal.Holds k n) ∧ t.ports = s.ports
    ∧ OtherSlots i s t ∧ CellsKept s t ∧ t.alloc = s.alloc ∧ t.power = s.power := by
  have entered := h.trans (.changeStateOwn y i .booting .restart)
  have eslot := changeStateOwn_slot_self y i .booting .restart
  have ejournal : y.journal.Holds k n → (changeStateOwn i .booting .restart y).journal.Holds k n := fun hk =>
    Journal.Holds.hand (s := moveSlot i .booting y) hk _
  have boot : y.bootLimit i = 1000 * if (y.slot i).ident.bootHint.toNat = 0 then 90
      else (y.slot i).ident.bootHint.toNat := by
    rw [bootLimit_eq, horders]
    by_cases hhint : (y.slot i).ident.bootHint.toNat = 0 <;> simp [hhint]
  have resumed : resumeBooting i y = (changeStateOwn i .booting .restart y).modSlot i fun x =>
      { x with boot := some (after y.time (y.bootLimit i)) } := rfl
  rw [resumed, boot, h.time] at hact
  generalize changeStateOwn i .booting .restart y = v at *
  obtain ⟨t, he, like, -, journal, slots, cells, alloc, power, ports, -⟩ :=
    (entered.trans ((State.OnSlot.modSlot v i _).trans (.proceeds _ i .probe))).ends hl hact
  rw [(proceeds_reads ..).1, modSlot_slot_self, eslot, h.time] at like
  refine ⟨t, he, like, fun hk => ?_, ports, slots, cells, alloc, power⟩
  rw [journal, (proceeds_frame ..).2.2.2.2.2.2.2.2.2.1]
  exact ejournal hk

/-! ### The resumption's PROBE -/

/-- The agent has the slot resume in BOOTING (R199). -/
def State.bootsAgain (s : State) (i : SlotId) (st : AgentState) : Prop :=
  st = .standby ∨ st = .booting ∨ st ≠ .fault ∧ (s.pwr i).resetHold ≠ none

theorem resumeAnswer_boots (h : s.bootsAgain i st) : resumeAnswer i st s = resumeBooting i (handResumed i .booting s) := by
  rcases h with rfl | rfl | ⟨hst, hhold⟩
  · rfl
  · rfl
  · have hold : (s.pwr i).resetHold.isSome = true := Option.isSome_iff_ne_none.mpr hhold
    cases st with
    | fault => exact absurd rfl hst
    | standby | booting => rfl
    | ready | draining | drained | programming => exact if_pos hold

theorem resumeAnswer_serves (h : ¬ s.bootsAgain i st) (hst : st ≠ .fault) :
    resumeAnswer i st s = resumeService i (handResumed i .service s) := by
  have hold : ¬ (s.pwr i).resetHold.isSome = true := fun hh =>
    h (.inr (.inr ⟨hst, Option.isSome_iff_ne_none.mp hh⟩))
  cases st with
  | fault => exact absurd rfl hst
  | standby => exact absurd (.inl rfl) h
  | booting => exact absurd (.inr (.inl rfl)) h
  | ready | draining | drained | programming => exact if_neg hold

theorem resumeAnswer_notes (hres : (s.slot i).state = .resuming) (hnotify : (s.slot i).policy.fault = .notify) :
    resumeAnswer i .fault s = resumeService i ((handResumed i .agentFault s).raised i .agentFault) := by
  have raise : raiseFault i .agentFault (handResumed i .agentFault s) =
      (handResumed i .agentFault s).raised i .agentFault := raiseFault_notes rfl (by simpa using hnotify)
  have state : (((handResumed i .agentFault s).raised i .agentFault).slot i).state = .resuming := by
    rw [raised_slot_self]
    simpa using hres
  rw [resumeAnswer, resumeFault, raise]
  exact if_pos state

/-- The notice that tells how a resumption ends (R199, R201). -/
theorem handResumed_holds (hinv : Inv s) (d : ResumedDetail)
    (h : s.port.run = true ∧ s.journal.full = false ∧ s.journal.gapPending = false) :
    (handResumed i d (s.answered i st b)).journal.Holds s.journal.writeCount (slotNotice s i (.resumed d) none) := by
  have notice : slotNotice (s.answered i st b) i (.resumed d) none = slotNotice s i (.resumed d) none := by
    refine slotNotice_congr (s := s) (t := s.answered i st b) rfl ?_ ?_ ?_ _ _
    all_goals rw [answered_slot_self]; rfl
  rw [handResumed, notice]
  exact Journal.Holds.handed (s := s.answered i st b) hinv.journal h

section
variable {o : Outstanding} {f : List Byte} {r : Reply} (hinv : Inv s) (hl : s.Live) (ho : (s.engine i).out = some o)
  (hmsg : o.msg = .probe) (hlive : o.live = true) (hf : judgeReply .probe o.seq f = some r)
  (hst : AgentState.ofCode (byteAt r.payload 0) = some st)
include hinv hl ho hmsg hlive hf hst

/-- The fifth part of O51: the answer ends the resumption. -/
theorem answer_resumes (hres : (s.slot i).state = .resuming) (hrec : o.recovery = false) (hq : s.Quiet)
    (hidle : (s.slot i).Idle) (hother : isHub i = true → (s.slot (otherHub i)).latch = false)
    (hnotify : st = .fault → (s.slot i).policy.fault = .notify) :
    ∃ t, exec (.frameArrival i f) s = .next t
    ∧ (t.slot i).prev = .resuming ∧ (t.slot i).entry = s.time
    ∧ (t.slot i).gen = nextGeneration (s.slot i).gen ∧ (t.slot i).lastAgent = some st
    ∧ (s.bootsAgain i st → (t.slot i).state = .booting ∧ t.ports = s.ports
      ∧ (t.slot i).boot = some (after s.time (1000 * if (s.slot i).ident.bootHint.toNat = 0 then 90
          else (s.slot i).ident.bootHint.toNat)))
    ∧ (¬ s.bootsAgain i st → (t.slot i).state = .inService ∧ (t.slot i).boot = none)
    ∧ (if st = .fault then (t.slot i).fault = some .agentFault ∧ (t.slot i).faultTime = s.time
      else (t.slot i).fault = (s.slot i).fault ∧ (t.slot i).faultTime = (s.slot i).faultTime)
    ∧ (∀ detail, (if st = .fault then detail = .agentFault
        else (s.bootsAgain i st → detail = .booting) ∧ (¬ s.bootsAgain i st → detail = ResumedDetail.service)) →
      s.port.run = true → s.journal.full = false → s.journal.gapPending = false →
      (t.journal.entries[(entryOf s.journal.writeCount).val]'(entryOf s.journal.writeCount).isLt)
        = some (slotNotice s i (.resumed detail) none))
    ∧ (∀ q, (s.portOf q).state ≠ .isolated ∨ nodeSlot q ≠ i ∧ hubSlot q ≠ i → t.portOf q = s.portOf q)
    ∧ OtherSlots i s t ∧ CellsKept s t ∧ t.alloc = s.alloc ∧ t.power = s.power := by
  have taken := frameTaken_probe ho hmsg hlive hf hst
  rw [hrec, probeAnswer, if_neg Bool.false_ne_true, if_pos hres] at taken
  change _ = (resumeAnswer i st (s.answered i st (byteAt r.payload 1))).proceeds i .probe at taken
  have on := State.OnSlot.answered s i st (byteAt r.payload 1)
  have aslot := answered_slot_self s i st (byteAt r.payload 1)
  have told := fun d => handResumed_holds (i := i) (st := st) (b := byteAt r.payload 1) hinv d
  have boots : (s.answered i st (byteAt r.payload 1)).bootsAgain i st ↔ s.bootsAgain i st := Iff.rfl
  generalize s.answered i st (byteAt r.payload 1) = u at *
  have idle : ((u.slot i)).Idle := by
    rw [aslot]
    exact ⟨hidle.orders, hidle.active, hidle.latch⟩
  have state : (u.slot i).state = .resuming := by rw [aslot]; exact hres
  have hand : ∀ d, u.OnSlot i (handResumed i d u) := fun d => .handNotice u i _
  have slot : ∀ d, (handResumed i d u).slot i = u.slot i := fun d => by simp
  by_cases hboots : s.bootsAgain i st
  · have hnf : st ≠ .fault := by
      rcases hboots with rfl | rfl | h
      · exact nofun
      · exact nofun
      · exact h.1
    rw [resumeAnswer_boots (boots.mpr hboots)] at taken
    obtain ⟨t, he, like, journal, ports, slots, cells, alloc, power⟩ :=
      resumeBooting_ends (on.trans (hand .booting)) hl (by rw [slot]; exact idle.orders) taken
    rw [slot, aslot] at like
    refine ⟨t, congrArg Host.Outcome.next he, (like.field Slot.prev fun _ _ => rfl).trans hres,
      like.field Slot.entry fun _ _ => rfl, like.field Slot.gen fun _ _ => rfl, like.field Slot.lastAgent fun _ _ => rfl,
      fun _ => ⟨like.field Slot.state fun _ _ => rfl, ports, like.field Slot.boot fun _ _ => rfl⟩,
      fun h => absurd hboots h, ?_, fun d hd hrun hroom hgap => ?_, fun q _ => portOf_congr ports q,
      slots, cells, alloc, power⟩
    · rw [if_neg hnf]
      exact ⟨like.field Slot.fault fun _ _ => rfl, like.field Slot.faultTime fun _ _ => rfl⟩
    · rw [if_neg hnf] at hd
      rw [hd.1 hboots]
      exact (journal (told .booting ⟨hrun, hroom, hgap⟩)).entry
  · by_cases hfault : st = .fault
    · subst hfault
      rw [resumeAnswer_notes state (by rw [aslot]; exact hnotify rfl)] at taken
      have raised := (on.trans (hand .agentFault)).trans (.raised _ i .agentFault)
      have rslot := raised_slot_self (handResumed i .agentFault u) i .agentFault
      rw [slot, aslot, ((on.trans (hand .agentFault)).time)] at rslot
      have rjournal : ∀ k n, (handResumed i .agentFault u).journal.Holds k n →
          ((handResumed i .agentFault u).raised i .agentFault).journal.Holds k n := fun k n hk =>
        Journal.Holds.hand (s := (handResumed i .agentFault u).modSlot i fun x =>
          { x with fault := some .agentFault, faultTime := (handResumed i .agentFault u).time }) hk _
      generalize (handResumed i .agentFault u).raised i .agentFault = y at *
      obtain ⟨t, he, like, journal, ports, slots, cells, alloc, power⟩ :=
        resumeService_ends raised hl hq (by rw [rslot]; exact ⟨hidle.orders, hidle.active, hidle.latch⟩) hother taken
      rw [rslot] at like
      refine ⟨t, congrArg Host.Outcome.next he, (like.field Slot.prev fun _ _ => rfl).trans hres,
        like.field Slot.entry fun _ _ => rfl, like.field Slot.gen fun _ _ => rfl, like.field Slot.lastAgent fun _ _ => rfl,
        fun h => absurd h hboots, fun _ => ⟨like.field Slot.state fun _ _ => rfl, like.field Slot.boot fun _ _ => rfl⟩,
        ?_, fun d hd hrun hroom hgap => ?_, ports, slots, cells, alloc, power⟩
      · exact ⟨like.field Slot.fault fun _ _ => rfl, like.field Slot.faultTime fun _ _ => rfl⟩
      · rw [if_pos rfl] at hd
        rw [hd]
        exact (journal (rjournal _ _ (told .agentFault ⟨hrun, hroom, hgap⟩))).entry
    · rw [resumeAnswer_serves (fun h => hboots (boots.mp h)) hfault] at taken
      obtain ⟨t, he, like, journal, ports, slots, cells, alloc, power⟩ :=
        resumeService_ends (on.trans (hand .service)) hl hq (by rw [slot]; exact idle) hother taken
      rw [slot, aslot] at like
      refine ⟨t, congrArg Host.Outcome.next he, (like.field Slot.prev fun _ _ => rfl).trans hres,
        like.field Slot.entry fun _ _ => rfl, like.field Slot.gen fun _ _ => rfl, like.field Slot.lastAgent fun _ _ => rfl,
        fun h => absurd h hboots, fun _ => ⟨like.field Slot.state fun _ _ => rfl, like.field Slot.boot fun _ _ => rfl⟩,
        ?_, fun d hd hrun hroom hgap => ?_, ports, slots, cells, alloc, power⟩
      · rw [if_neg hfault]
        exact ⟨like.field Slot.fault fun _ _ => rfl, like.field Slot.faultTime fun _ _ => rfl⟩
      · rw [if_neg hfault] at hd
        rw [hd.2 hboots]
        exact (journal (told .service ⟨hrun, hroom, hgap⟩)).entry

end

end Sys2Proof.Machine

/-! Offers of several ports (R104, R105), and what brings them: a recovered link and READY in BOOTING
(R10, R106, R107, R122). -/

namespace Sys2Proof.Machine

variable {s t u v w x y : State} {i j : SlotId} {p q : PortId} {st : AgentState} {b : Byte} {M : PortId → Prop} {ps : List PortId}

/-! ### Offers one after another -/

/-- A port that is offered at `now` (R105). -/
def Port.offer (now : Time) (x : Port) : Port :=
  { x with state := .offered, gate := false, attempts := countUpTo 255 x.attempts, deadline := some (after now Config.offerLimit) }

theorem State.Moves.offerHolds (h : s.Moves M t) (hp : ¬ M p) : t.offerHolds p = s.offerHolds p := by
  simp only [State.offerHolds, State.bothOffering, slot_congr h.slots, h.ports p hp, h.links]

/-- An ADMIT is about one port alone. -/
theorem admit_concerns (hne : q ≠ p) : ¬ (Msg.admitNode p.node).Concerns q (hubSlot p) := by
  rintro (⟨hslot, -⟩ | ⟨hslot, hfar⟩)
  · exact nodeSlot_ne_hubSlot q p hslot.symm
  · refine hne ?_
    obtain ⟨n, h⟩ := p
    obtain ⟨m, g⟩ := q
    have hub : h = g := Fin.ext (by simpa [hubSlot] using congrArg Fin.val hslot)
    have node : n = m := Fin.ext (by simpa [Msg.far] using hfar)
    rw [hub, node]

/-- An offer (R105). -/
theorem offerTest_offers (h : s.offerHolds p = true) : (offerTest p s).portOf p = (s.portOf p).offer s.time
    ∧ ((offerTest p s).engine (hubSlot p)).Carries (.admitNode p.node) := by
  have up : s.linkUp (hubSlot p) = true := (Bool.and_eq_true_iff.mp h).2
  have act : offerTest p s = placePort (hubSlot p) (.admitNode p.node) (s.modPort p (Port.offer s.time)) := if_pos h
  rw [act]
  refine ⟨by simp, carries_placePort up ?_⟩
  rw [admit_undoes]
  simp [Engine.queued]

/-- The ports `ps` that can be offered are, and nothing else of the fabric moves (R104, R105). -/
structure State.Offers (s : State) (ps : List PortId) (t : State) : Prop where
  moves : s.Moves (fun q => q ∈ ps ∧ s.offerHolds q = true) t
  ports : ∀ q ∈ ps, s.offerHolds q = true → t.portOf q = (s.portOf q).offer s.time
  asks : ∀ q ∈ ps, s.offerHolds q = true → (t.engine (hubSlot q)).Carries (.admitNode q.node)

theorem State.Offers.of_tests : ∀ (ps : List PortId) (s : State), ps.Nodup → s.Offers ps (offerTests ps s)
  | [], _, _ => ⟨.refl, nofun, nofun⟩
  | p :: ps, s, hps => by
    obtain ⟨hp, hps⟩ := List.nodup_cons.mp hps
    have first : s.Moves (fun q => q = p ∧ s.offerHolds q = true) (offerTest p s) := by
      by_cases h : s.offerHolds p = true
      · exact (State.Moves.offerTest s (M := (· = p)) rfl).mono fun q hq => ⟨hq, hq ▸ h⟩
      · rw [offerTest_none (by simpa using h)]
        exact .refl
    have rest : (offerTest p s).Offers ps (offerTests ps (offerTest p s)) := of_tests ps (offerTest p s) hps
    have apart : ∀ q ∈ ps, q ≠ p := fun q hq h => hp (h ▸ hq)
    have holds : ∀ q ∈ ps, (offerTest p s).offerHolds q = s.offerHolds q := fun q hq =>
      first.offerHolds fun h => apart q hq h.1
    have later : (offerTest p s).Moves (fun q => q ∈ ps ∧ s.offerHolds q = true) (offerTests ps (offerTest p s)) :=
      rest.moves.mono fun q h => ⟨h.1, holds q h.1 ▸ h.2⟩
    have fold : offerTests (p :: ps) s = offerTests ps (offerTest p s) := rfl
    rw [fold]
    refine ⟨(first.mono fun q h => ⟨h.1 ▸ List.mem_cons_self, h.2⟩).trans
      (later.mono fun q h => ⟨List.mem_cons_of_mem _ h.1, h.2⟩), fun q hq h => ?_, fun q hq h => ?_⟩
    · rcases List.mem_cons.mp hq with rfl | hq
      · exact (later.ports q fun h => hp h.1).trans (offerTest_offers h).1
      · rw [rest.ports q hq (by rw [holds q hq]; exact h), first.ports q fun h => apart q hq h.1, first.time]
    · rcases List.mem_cons.mp hq with rfl | hq
      · exact later.carries _ _ (fun q' h' => admit_concerns (apart q' h'.1)) (offerTest_offers h).2
      · exact rest.asks q hq (by rw [holds q hq]; exact h)

/-- The ports of `ps` that cannot be offered stand. -/
theorem State.Offers.stands (h : s.Offers (slotPorts i) t) (hq : s.offerHolds q = false) : t.portOf q = s.portOf q :=
  h.moves.ports q fun hm => by rw [hq] at hm; exact Bool.noConfusion hm.2

@[simp] theorem serve_recovery (now : Time) (e : Engine) : (e.serve now).recovery = e.recovery := by
  unfold Engine.serve
  split
  · split <;> rfl
  · rfl

@[simp] theorem join_recovery (m : Msg) (pl : Placer) (nb : Option Time) (e : Engine) :
    (e.join m pl nb).recovery = e.recovery := by
  unfold Engine.join
  split <;> rfl

@[simp] theorem join_out (m : Msg) (pl : Placer) (nb : Option Time) (e : Engine) : (e.join m pl nb).out = e.out := by
  unfold Engine.join
  split <;> rfl

@[simp] theorem ported_recovery (now : Time) (m : Msg) (e : Engine) : (e.ported now m).recovery = e.recovery := by
  unfold Engine.ported
  split
  · rfl
  · simp [Engine.endMessages]

/-- A port message that is placed leaves a request that is out, unless that is a notification (R134). -/
theorem ported_out {e : Engine} {o : Outstanding} (ho : e.out = some o) (hask : o.msg.isNotification = false)
    (now : Time) (m : Msg) : (e.ported now m).out = some o := by
  unfold Engine.ported
  split
  · exact ho
  · have out : ((e.endMessages (Msg.notificationFor m.far)).join m .coordinator none).out = some o := by
      simp [Engine.endMessages, ho, Msg.notificationFor, hask]
    rw [serve_nothing (.inr (.inl (by rw [out]; exact nofun)))]
    exact out

/-- A placed ADMIT leaves a request that is out, and the recovery deadline. -/
theorem offerTest_engine (p : PortId) (s : State) (j : SlotId) :
    ((offerTest p s).engine j).recovery = (s.engine j).recovery
    ∧ ∀ o, (s.engine j).out = some o → o.msg.isNotification = false → ((offerTest p s).engine j).out = some o := by
  by_cases h : s.offerHolds p = true
  · have act : offerTest p s = placePort (hubSlot p) (.admitNode p.node) (s.modPort p (Port.offer s.time)) := if_pos h
    rw [act]
    by_cases hj : j = hubSlot p
    · rw [hj, placePort_eq, modEngine_engine_self]
      exact ⟨by simp, fun o ho hask => ported_out (by simpa using ho) hask _ _⟩
    · rw [placePort_engine_ne hj]
      exact ⟨rfl, fun _ ho _ => ho⟩
  · rw [offerTest_none (by simpa using h)]
    exact ⟨rfl, fun _ ho _ => ho⟩

theorem offerTests_engine : ∀ (ps : List PortId) (s : State) (j : SlotId),
    ((offerTests ps s).engine j).recovery = (s.engine j).recovery
    ∧ ∀ o, (s.engine j).out = some o → o.msg.isNotification = false → ((offerTests ps s).engine j).out = some o
  | [], _, _ => ⟨rfl, fun _ h _ => h⟩
  | p :: ps, s, j => by
    obtain ⟨recovery, out⟩ := offerTest_engine p s j
    obtain ⟨recovery', out'⟩ := offerTests_engine ps (offerTest p s) j
    exact ⟨recovery'.trans recovery, fun o ho hask => out' o (out o ho hask) hask⟩

/-- An ADMIT that is placed while a PROBE is out waits in the queue. -/
theorem Engine.Carries.waits {e : Engine} {m : Msg} {o : Outstanding} (h : e.Carries m) (ho : e.out = some o)
    (hne : o.msg ≠ m) : ∃ q ∈ e.queue, q.msg = m := by
  obtain h | ⟨o', ho', hm, -⟩ := h
  · exact h
  · rw [ho] at ho'
    cases ho'
    exact absurd hm hne

/-- An event in which ports are offered ends no join and no leave by it (R107, R115). -/
theorem State.Offers.lateIdle (h : s.Offers ps t) (hj : ∃ p, (p ∈ ps ∧ s.offerHolds p = true) ∧ (j = nodeSlot p ∨ j = hubSlot p)) :
    LateIdle t j := by
  obtain ⟨p, ⟨hp, hholds⟩, hj⟩ := hj
  have both : s.bothOffering p = true := by
    simp only [State.offerHolds, Bool.and_eq_true] at hholds
    exact hholds.1.1.1.1
  exact lateIdle_offering (by rw [bothOffering_congr h.moves.slots]; exact both)
    (.inl (by rw [h.ports p hp hholds]; rfl)) hj

end Sys2Proof.Machine

/-! The answer of a recovery probe (R122, R145). -/

namespace Sys2Proof.Machine

variable {s t u v w x y : State} {i j : SlotId} {p q : PortId} {st : AgentState} {b : Byte} {M : PortId → Prop} {ps : List PortId}

@[simp] theorem probed_recovery (now : Time) (pl : Placer) (e : Engine) : (e.probed now pl).recovery = e.recovery := by
  unfold Engine.probed
  split <;> simp

@[simp] theorem alertTest_recovery (s : State) (j : SlotId) :
    ((alertTest i s).engine j).recovery = (s.engine j).recovery := by
  unfold alertTest
  split
  · rw [askProbe_eq]
    by_cases hj : j = i
    · rw [hj, modEngine_engine_self, probed_recovery]
    · rw [modEngine_engine_ne _ _ _ _ hj]
  · rfl

theorem modEngine_recovery {g : Engine → Engine} (hg : ∀ e, (g e).recovery = e.recovery) (s : State) (j : SlotId) :
    ((s.modEngine i g).engine j).recovery = (s.engine j).recovery := by
  by_cases hj : j = i
  · rw [hj, modEngine_engine_self, hg]
  · rw [modEngine_engine_ne _ _ _ _ hj]

@[simp] theorem proceeds_recovery (w : State) (m : Msg) (j : SlotId) :
    ((w.proceeds i m).engine j).recovery = (w.engine j).recovery := by
  rw [State.proceeds, afterRequest, serveLink, modEngine_recovery fun e => serve_recovery _ e]
  split
  · rw [alertTest_recovery]
    exact modEngine_recovery (g := fun e => { e with out := none }) (fun _ => rfl) _ _
  · exact modEngine_recovery (g := fun e => { e with out := none }) (fun _ => rfl) _ _

@[simp] theorem proceeds_linkUp (w : State) (m : Msg) (j : SlotId) : (w.proceeds i m).linkUp j = w.linkUp j := by
  rw [State.proceeds, afterRequest, serveLink_linkUp]
  split
  · rw [alertTest_linkUp]
    exact modEngine_linkUp rfl j
  · exact modEngine_linkUp rfl j

theorem LateIdle.of_state (h : LateIdle s j) (hstate : (t.slot j).state = (s.slot j).state)
    (hports : t.ports = s.ports) : LateIdle t j := by
  unfold LateIdle State.joinDone State.leaveDone at *
  simpa only [hstate, portOf_congr hports] using h

/-- A link that has recovered, before its ports are tested (R145). -/
def State.relinked (s : State) (i : SlotId) : State :=
  s.modEngine i fun e => { e with link := .up, recovery := none }

theorem relinked_linkUp (s : State) (i : SlotId) :
    (s.relinked i).linkUp i = true ∧ ∀ j, j ≠ i → (s.relinked i).linkUp j = s.linkUp j := by
  refine ⟨?_, fun j hj => ?_⟩
  · rw [State.linkUp, State.relinked, modEngine_engine_self]
    rfl
  · rw [State.linkUp, State.relinked, modEngine_engine_ne _ _ _ _ hj]
    rfl

/-- Which ports of a recovered link are offered (R104, R122). -/
theorem relinked_offerHolds (hq : nodeSlot q = i ∨ hubSlot q = i) : (s.relinked i).offerHolds q = true ↔
    (s.portOf q).state = .isolated ∧ (s.portOf q).declined = false ∧ s.bothOffering q = true
    ∧ s.linkUp (if nodeSlot q = i then hubSlot q else nodeSlot q) = true := by
  obtain ⟨up, others⟩ := relinked_linkUp s i
  have both : (s.relinked i).bothOffering q = s.bothOffering q := rfl
  have port : (s.relinked i).portOf q = s.portOf q := rfl
  simp only [State.offerHolds, both, port, Bool.and_eq_true, decide_eq_true_eq, Bool.not_eq_true']
  by_cases hnode : nodeSlot q = i
  · have hhub : hubSlot q ≠ i := hnode ▸ hubSlot_ne_nodeSlot q q
    rw [if_pos hnode, hnode, up, others _ hhub]
    tauto
  · have hhub := hq.resolve_left hnode
    rw [if_neg hnode, hhub, up, others _ hnode]
    tauto

section
variable {o : Outstanding} {f : List Byte} {r : Reply} (hl : s.Live) (ho : (s.engine i).out = some o)
  (hmsg : o.msg = .probe) (hlive : o.live = true) (hf : judgeReply .probe o.seq f = some r)
  (hst : AgentState.ofCode (byteAt r.payload 0) = some st)
include hl ho hmsg hlive hf hst

/-- The sixth part of O51: the answer of a recovery probe. -/
theorem answer_recovers (hrec : o.recovery = true)
    (hplain : (s.slot i).state ∉ [SlotState.booting, .quiescing, .stamping, .resuming])
    (hfault : st ≠ .fault ∨ (s.slot i).state.payloadOn = false ∨ (s.slot i).agentFault = true) :
    ∃ t, exec (.frameArrival i f) s = .next t ∧ (t.slot i).Like ((s.slot i).recordAgent st (byteAt r.payload 1))
    ∧ t.linkUp i = true ∧ (t.engine i).recovery = none
    ∧ (∀ q, t.portOf q =
      if (nodeSlot q = i ∨ hubSlot q = i) ∧ (s.relinked i).offerHolds q = true
      then (s.portOf q).offer s.time else s.portOf q)
    ∧ (∀ q, t.portOf q ≠ s.portOf q → (t.engine (hubSlot q)).Carries (.admitNode q.node))
    ∧ (s.port.run = true → s.journal.full = false → s.journal.gapPending = false →
      t.journal.writeCount = s.journal.writeCount + 1
      ∧ (t.journal.entries[(entryOf s.journal.writeCount).val]'(entryOf s.journal.writeCount).isLt)
        = some (slotNotice s i (.link true) (s.activeTag i)))
    ∧ OtherSlots i s t ∧ CellsKept s t ∧ t.alloc = s.alloc ∧ t.power = s.power := by
  have taken := frameTaken_probe ho hmsg hlive hf hst
  have recovered : linkRecovered i s = linkNotice i true (offerTests (slotPorts i) (s.relinked i)) := rfl
  rw [if_pos hrec, recovered] at taken
  have up := (relinked_linkUp s i).1
  have rout : ((s.relinked i).engine i).out = some o := by rw [State.relinked, modEngine_engine_self]; exact ho
  have rrec : ((s.relinked i).engine i).recovery = none := by rw [State.relinked, modEngine_engine_self]
  have before : (s.relinked i).slots = s.slots ∧ (s.relinked i).ports = s.ports ∧ (s.relinked i).late = s.late
      ∧ (s.relinked i).work = s.work ∧ CellsKept s (s.relinked i) ∧ (s.relinked i).alloc = s.alloc
      ∧ (s.relinked i).power = s.power ∧ (s.relinked i).time = s.time ∧ (s.relinked i).port = s.port
      ∧ (s.relinked i).journal = s.journal ∧ (s.relinked i).mem = s.mem :=
    ⟨rfl, rfl, rfl, rfl, ⟨rfl, rfl⟩, rfl, rfl, rfl, rfl, rfl, rfl⟩
  generalize s.relinked i = u at *
  obtain ⟨bslots, bports, blate, bwork, bcells, balloc, bpower, btime, bport, bjournal, bmem⟩ := before
  have offers := State.Offers.of_tests (slotPorts i) u (slotPorts_nodup i)
  obtain ⟨orec, oout⟩ := offerTests_engine (slotPorts i) u i
  have ojournal : (offerTests (slotPorts i) u).journal = u.journal ∧ (offerTests (slotPorts i) u).port = u.port := by simp
  generalize offerTests (slotPorts i) u = v at *
  have vslot : ∀ j, v.slot j = s.slot j := slot_congr (offers.moves.slots.trans bslots)
  have lslot : ∀ j, (linkNotice i true v).slot j = s.slot j := fun j => by simp [vslot]
  rw [probeAnswer_plain (by rw [lslot]; exact hplain) (by rw [lslot]; exact hfault)] at taken
  have notice : (linkNotice i true v).journal = (handNotice (slotNotice s i (.link true) (s.activeTag i)) v).journal := by
    have same : slotNotice v i (.link true) (v.activeTag i) = slotNotice s i (.link true) (s.activeTag i) := by
      rw [activeTag_congr (s := s) (by rw [vslot]) (by rw [vslot]) (offers.moves.mem.trans bmem)]
      refine slotNotice_congr (offers.moves.time.trans btime) ?_ ?_ ?_ _ _
      all_goals rw [vslot]
    rw [linkNotice, same]
  have after : (linkNotice i true v).ports = v.ports ∧ (linkNotice i true v).engines = v.engines
      ∧ (linkNotice i true v).late = v.late ∧ (linkNotice i true v).work = v.work
      ∧ CellsKept v (linkNotice i true v) ∧ (linkNotice i true v).alloc = v.alloc
      ∧ (linkNotice i true v).power = v.power := by simp [CellsKept]
  obtain ⟨lports, lengines, llate, lwork, lcells, lalloc, lpower⟩ := after
  generalize linkNotice i true v = x at *
  have on := State.OnSlot.answered x i st (byteAt r.payload 1)
  have wself := answered_slot_self x i st (byteAt r.payload 1)
  have wjournal : (x.answered i st (byteAt r.payload 1)).journal = x.journal := rfl
  have wengines : (x.answered i st (byteAt r.payload 1)).engines = x.engines := rfl
  have wstate : ∀ j, ((x.answered i st (byteAt r.payload 1)).slot j).state = (v.slot j).state := fun j => by
    rw [answered_slot_state, lslot, vslot]
  generalize x.answered i st (byteAt r.payload 1) = w at *
  have wengine : ∀ j, w.engine j = v.engine j := engine_congr (wengines.trans lengines)
  have late := offers.moves.late (fun j => ∃ p, (p ∈ slotPorts i ∧ u.offerHolds p = true) ∧ (j = nodeSlot p ∨ j = hubSlot p))
    (fun p hp => ⟨⟨p, hp, .inl rfl⟩, ⟨p, hp, .inr rfl⟩⟩) (.of_nil (blate.trans hl.late))
  have hend : w.AtEnd 4096 := by
    refine (late.congr (on.late.trans llate)).atEnd (js := []) (jobs_nil ?_) (fun _ hx => absurd hx List.not_mem_nil)
      (fun j hj => (offers.lateIdle hj).of_state (wstate j) (on.ports.trans lports)) (by simp)
    rw [on.work, lwork, offers.moves.work, bwork, hl.work]
  obtain ⟨l, c, -, he⟩ := (hend.proceeds i .probe).liveEvent hl taken
  have journal : ((w.proceeds i .probe).ended l c).journal = x.journal := by simp [wjournal]
  have uport : ∀ q, u.portOf q = s.portOf q := portOf_congr bports
  have port : ∀ q, ((w.proceeds i .probe).ended l c).portOf q = v.portOf q := fun q => by
    rw [(ended_reads ..).2.2.2.2.1, (proceeds_reads ..).2.2.1, portOf_congr (on.ports.trans lports)]
  have vport : ∀ q, v.portOf q = if (nodeSlot q = i ∨ hubSlot q = i) ∧ u.offerHolds q = true
      then (s.portOf q).offer s.time else s.portOf q := fun q => by
    split
    · next h => rw [offers.ports q (mem_slotPorts.mpr h.1) h.2, uport, btime]
    · next h => rw [offers.moves.ports q fun hq => h ⟨mem_slotPorts.mp hq.1, hq.2⟩, uport]
  have like : ∀ j, (((w.proceeds i .probe).ended l c).slot j).Like (w.slot j) := fun j => by
    rw [(ended_reads ..).1, (proceeds_reads ..).1]
    exact Slot.written_like _ _
  refine ⟨_, congrArg Host.Outcome.next he, ?_, ?_, ?_, fun q => (port q).trans (vport q), fun q hq => ?_,
    fun hrun hroom hgap => ?_, fun j hj => ?_, ?_, ?_, ?_⟩
  · have slot := like i
    rw [wself, lslot] at slot
    exact slot
  · rw [(ended_reads ..).2.2.2.1, proceeds_linkUp, State.linkUp, wengine]
    exact (offers.moves.links i).trans up
  · rw [(ended_reads ..).2.2.1, proceeds_recovery, wengine]
    exact orec.trans rrec
  · rw [port, vport] at hq
    split at hq
    · next h =>
      have asked := offers.asks q (mem_slotPorts.mpr h.1) h.2
      rw [← wengine] at asked
      rw [(ended_reads ..).2.2.1]
      by_cases hhub : hubSlot q = i
      · rw [hhub] at asked ⊢
        refine carries_proceeds (asked.waits (o := o) ?_ (by rw [hmsg]; exact nofun))
        rw [wengine]
        exact oout o rout (by rw [hmsg]; rfl)
      · rw [proceeds_engine_ne _ _ hhub]
        exact asked
    · exact absurd rfl hq
  · rw [journal, notice]
    obtain ⟨vjournal, vport⟩ := ojournal
    rw [← bjournal, ← vjournal]
    refine handNotice_entry (s := v) _ ⟨?_, ?_, ?_⟩
    · rw [vport, bport]
      exact hrun
    · rw [vjournal, bjournal]
      exact hroom
    · rw [vjournal, bjournal]
      exact hgap
  · have slot := like j
    rw [on.slots j hj, lslot] at slot
    exact slot
  · have kept : CellsKept w (w.proceeds i .probe) := by simp [CellsKept]
    exact bcells.trans (CellsKept.trans ⟨offers.moves.cells, offers.moves.mem⟩
      (lcells.trans (on.cells.trans (kept.trans (ended_cellsKept ..)))))
  · simp [on.alloc, lalloc, offers.moves.alloc, balloc]
  · simp [on.power, lpower, offers.moves.power, bpower]

end

end Sys2Proof.Machine

/-! READY in BOOTING moves a slot to JOINING (R10, R106). -/

namespace Sys2Proof.Machine

variable {s t u v w x y : State} {i j : SlotId} {p q : PortId} {st : AgentState} {b : Byte} {M : PortId → Prop} {ps : List PortId}

/-- A slot that READY has moved to JOINING, its ports' flags cleared (R10, R106). -/
def State.joins (s : State) (i : SlotId) (b : Byte) : State :=
  clearDeclined i (changeStateOwn i .joining .ready (s.answered i .ready b))

theorem probeAnswer_joins (hboot : (s.slot i).state = .booting) (hreset : (s.pwr i).resetAsserted = false) :
    probeAnswer i .ready b s = (offerTests (slotPorts i) (s.joins i b)).testLate i := by
  have state : ((s.answered i .ready b).slot i).state = .booting := (answered_slot_state ..).trans hboot
  rw [probeAnswer_state (st := .ready) (by rw [hboot]; exact nofun) (.inl nofun), stateAnswer]
  simp only [state]
  exact if_pos ⟨trivial, hreset⟩

/-- What the move to JOINING leaves of the state. -/
structure State.Joins (s : State) (i : SlotId) (b : Byte) (u : State) : Prop where
  slot : u.slot i = ((s.slot i).recordAgent .ready b).enter s.time .joining
  slots : ∀ j, j ≠ i → u.slot j = s.slot j
  links : ∀ j, u.linkUp j = s.linkUp j
  mine : ∀ q ∈ slotPorts i, u.portOf q = { s.portOf q with declined := false, attempts := 0 }
  ports : ∀ q, q ∉ slotPorts i → u.portOf q = s.portOf q
  late : s.late = [] → u.LateWithin fun j => ∃ p ∈ slotPorts i, j = nodeSlot p ∨ j = hubSlot p
  out : (u.engine i).out = (s.engine i).out
  time : u.time = s.time
  cells : CellsKept s u
  alloc : u.alloc = s.alloc
  power : u.power = s.power
  work : u.work = s.work

theorem joins_joins (s : State) (i : SlotId) (b : Byte) : s.Joins i b (s.joins i b) := by
  unfold State.joins
  have on := (State.OnSlot.answered s i .ready b).trans (.changeStateOwn _ i .joining .ready)
  have slot := changeStateOwn_slot_self (s.answered i .ready b) i .joining .ready
  have links : ∀ j, (changeStateOwn i .joining .ready (s.answered i .ready b)).linkUp j = s.linkUp j := fun j => by
    simp [State.answered]
  have out : ((changeStateOwn i .joining .ready (s.answered i .ready b)).engine i).out = (s.engine i).out := by
    simp [State.answered, changeStateOwn, changeState, moveSlot]
  rw [answered_slot_self, (State.OnSlot.answered s i .ready b).time] at slot
  generalize changeStateOwn i .joining .ready (s.answered i .ready b) = v at *
  have moves := State.Moves.clearDeclined v (M := (· ∈ slotPorts i)) fun _ h => h
  have ports := portOf_congr on.ports
  have engines : (clearDeclined i v).engines = v.engines := by simp
  exact {
    slot := by rw [slot_congr moves.slots, slot]
    slots := fun j hj => by rw [slot_congr moves.slots, on.slots j hj]
    links := fun j => (moves.links j).trans (links j)
    mine := fun q hq => by rw [clearDeclined_portOf hq, ports]
    ports := fun q hq => (moves.ports q hq).trans (ports q)
    late := fun h => moves.late _ (fun p hp => ⟨⟨p, hp, .inl rfl⟩, ⟨p, hp, .inr rfl⟩⟩) (.of_nil (on.late.trans h))
    out := by rw [engine_congr engines, out]
    time := moves.time.trans on.time
    cells := on.cells.trans ⟨moves.cells, moves.mem⟩
    alloc := moves.alloc.trans on.alloc
    power := moves.power.trans on.power
    work := moves.work.trans on.work }

/-- The other slot of a port of slot `i`. -/
def partner (i : SlotId) (q : PortId) : SlotId := if nodeSlot q = i then hubSlot q else nodeSlot q

theorem partner_ne (i : SlotId) (q : PortId) : partner i q ≠ i := by
  unfold partner
  split
  · next h => exact fun h' => hubSlot_ne_nodeSlot q q (h'.trans h.symm)
  · next h => exact h

/-- The slots of a port are its slot and that one's partner. -/
theorem partner_of (hq : nodeSlot q = i ∨ hubSlot q = i) (hj : j = nodeSlot q ∨ j = hubSlot q) (hne : j ≠ i) :
    j = partner i q := by
  unfold partner
  split
  · next h => exact hj.resolve_left fun hn => hne (hn.trans h)
  · next h => exact hj.resolve_right fun hh => hne (hh.trans (hq.resolve_left h))

/-- Which ports of a slot that has entered JOINING are offered (R104, R106). -/
theorem State.Joins.offerHolds (h : s.Joins i b u) (hq : nodeSlot q = i ∨ hubSlot q = i) : u.offerHolds q = true ↔
    (s.portOf q).state = .isolated ∧ ((s.slot (partner i q)).state = .joining ∨ (s.slot (partner i q)).state = .inService)
    ∧ s.linkUp (nodeSlot q) = true ∧ s.linkUp (hubSlot q) = true := by
  have offering : ∀ x : SlotState, x.offering = true ↔ x = .joining ∨ x = .inService := fun x => by
    cases x <;> simp [SlotState.offering]
  have own : (u.slot i).state.offering = true := by rw [h.slot]; rfl
  have other : ∀ j, j ≠ i → (u.slot j).state = (s.slot j).state := fun j hj => by rw [h.slots j hj]
  have both : u.bothOffering q = (s.slot (partner i q)).state.offering := by
    have ne := partner_ne i q
    rw [State.bothOffering]
    by_cases hnode : nodeSlot q = i
    · have part : partner i q = hubSlot q := if_pos hnode
      rw [part] at ne ⊢
      rw [hnode, own, other _ ne, Bool.true_and]
    · have part : partner i q = nodeSlot q := if_neg hnode
      rw [hq.resolve_left hnode, own, part, other _ hnode, Bool.and_true]
  simp only [State.offerHolds, both, h.mine q (mem_slotPorts.mpr hq), h.links, Bool.and_eq_true, decide_eq_true_eq, offering,
    Bool.not_false]
  tauto

section
variable {o : Outstanding} {f : List Byte} {r : Reply} (hl : s.Live) (ho : (s.engine i).out = some o)
  (hmsg : o.msg = .probe) (hlive : o.live = true) (hf : judgeReply .probe o.seq f = some r)
  (hst : AgentState.ofCode (byteAt r.payload 0) = some .ready)
include hl ho hmsg hlive hf hst

/-- The fourth part of O51: READY brings JOINING, with an offer standing. -/
theorem answer_joins (hboot : (s.slot i).state = .booting) (hreset : (s.pwr i).resetAsserted = false)
    (hrec : o.recovery = false) {offered : PortId → Prop}
    (hoffered : ∀ q, offered q ↔ (nodeSlot q = i ∨ hubSlot q = i) ∧ (s.portOf q).state = .isolated
      ∧ ((s.slot (partner i q)).state = .joining ∨ (s.slot (partner i q)).state = .inService)
      ∧ s.linkUp (nodeSlot q) = true ∧ s.linkUp (hubSlot q) = true) (hsome : ∃ q, offered q)
    (hquiet : ∀ q, (nodeSlot q = i ∨ hubSlot q = i) → ¬ offered q →
      (s.slot (partner i q)).state ≠ .joining ∧ (s.slot (partner i q)).state ≠ .leaving) :
    ∃ t, exec (.frameArrival i f) s = .next t
    ∧ (t.slot i).Like (((s.slot i).recordAgent .ready (byteAt r.payload 1)).enter s.time .joining)
    ∧ (∀ q, (offered q → t.portOf q = ⟨.offered, false, 1, some (after s.time 2000), false⟩
        ∧ (t.engine (hubSlot q)).Carries (.admitNode q.node))
      ∧ ((nodeSlot q = i ∨ hubSlot q = i) → ¬ offered q → t.portOf q = { s.portOf q with declined := false, attempts := 0 })
      ∧ (¬ (nodeSlot q = i ∨ hubSlot q = i) → t.portOf q = s.portOf q))
    ∧ OtherSlots i s t ∧ CellsKept s t ∧ t.alloc = s.alloc ∧ t.power = s.power := by
  have taken := frameTaken_probe ho hmsg hlive hf hst
  rw [hrec, if_neg Bool.false_ne_true] at taken
  replace taken := taken.trans (congrArg (State.proceeds · i .probe) (probeAnswer_joins hboot hreset))
  have joins := joins_joins s i (byteAt r.payload 1)
  have waits := joins.late hl.late
  generalize s.joins i (byteAt r.payload 1) = u at *
  have offers := State.Offers.of_tests (slotPorts i) u (slotPorts_nodup i)
  obtain ⟨-, oout⟩ := offerTests_engine (slotPorts i) u i
  generalize offerTests (slotPorts i) u = v at *
  have holds : ∀ q, offered q ↔ q ∈ slotPorts i ∧ u.offerHolds q = true := fun q => by
    rw [hoffered, mem_slotPorts]
    exact and_congr_right fun hq => (joins.offerHolds hq).symm
  have vslot : ∀ j, v.slot j = u.slot j := slot_congr offers.moves.slots
  have vstate : ∀ j, j ≠ i → (v.slot j).state = (s.slot j).state := fun j hj => by rw [vslot, joins.slots j hj]
  obtain ⟨p, hp⟩ := hsome
  have some_port := (holds p).mp hp
  have late : (v.testLate i).LateWithin fun j => ∃ q ∈ slotPorts i, j = nodeSlot q ∨ j = hubSlot q :=
    (offers.moves.late _ (fun q hq => ⟨⟨q, hq.1, .inl rfl⟩, ⟨q, hq.1, .inr rfl⟩⟩) waits).testLate
      ⟨p, some_port.1, (mem_slotPorts.mp some_port.1).imp Eq.symm Eq.symm⟩
  have idle : ∀ j, (∃ q ∈ slotPorts i, j = nodeSlot q ∨ j = hubSlot q) → LateIdle v j := fun j ⟨q, hq, hj⟩ => by
    have mine := mem_slotPorts.mp hq
    by_cases hji : j = i
    · exact offers.lateIdle ⟨p, some_port, hji ▸ (mem_slotPorts.mp some_port.1).imp Eq.symm Eq.symm⟩
    · by_cases hqo : offered q
      · exact offers.lateIdle ⟨q, (holds q).mp hqo, hj⟩
      · have still := hquiet q mine hqo
        rw [← partner_of mine hj hji] at still
        exact lateIdle_elsewhere (by rw [vstate j hji]; exact still.1) (by rw [vstate j hji]; exact still.2)
  have same : (v.testLate i).slots = v.slots ∧ (v.testLate i).ports = v.ports ∧ (v.testLate i).engines = v.engines
      ∧ (v.testLate i).work = v.work ∧ CellsKept v (v.testLate i) ∧ (v.testLate i).alloc = v.alloc
      ∧ (v.testLate i).power = v.power := ⟨rfl, rfl, rfl, rfl, ⟨rfl, rfl⟩, rfl, rfl⟩
  generalize v.testLate i = w at *
  obtain ⟨wslots, wports, wengines, wwork, wcells, walloc, wpower⟩ := same
  have hend : w.AtEnd 4096 := by
    refine late.atEnd (js := []) (jobs_nil ?_) (fun _ hx => absurd hx List.not_mem_nil)
      (fun j hj => (idle j hj).congr wslots wports) (by simp)
    rw [wwork, offers.moves.work, joins.work, hl.work]
  obtain ⟨l, c, -, he⟩ := (hend.proceeds i .probe).liveEvent hl taken
  have port : ∀ q, ((w.proceeds i .probe).ended l c).portOf q = v.portOf q := fun q => by
    rw [(ended_reads ..).2.2.2.2.1, (proceeds_reads ..).2.2.1, portOf_congr wports]
  have wengine := engine_congr wengines
  have like : ∀ j, (((w.proceeds i .probe).ended l c).slot j).Like (u.slot j) := fun j => by
    rw [(ended_reads ..).1, (proceeds_reads ..).1, slot_congr wslots, vslot]
    exact Slot.written_like _ _
  refine ⟨_, congrArg Host.Outcome.next he, ?_, fun q => ⟨fun hq => ?_, fun hq hno => ?_, fun hq => ?_⟩, fun j hj => ?_,
    ?_, ?_, ?_⟩
  · rw [← joins.slot]
    exact like i
  · obtain ⟨hmem, hholds⟩ := (holds q).mp hq
    refine ⟨?_, ?_⟩
    · rw [port, offers.ports q hmem hholds, joins.mine q hmem, joins.time]
      rfl
    · have asked := offers.asks q hmem hholds
      rw [← wengine] at asked
      rw [(ended_reads ..).2.2.1]
      by_cases hhub : hubSlot q = i
      · rw [hhub] at asked ⊢
        refine carries_proceeds (asked.waits (o := o) ?_ (by rw [hmsg]; exact nofun))
        rw [wengine]
        exact oout o (joins.out.trans ho) (by rw [hmsg]; rfl)
      · rw [proceeds_engine_ne _ _ hhub]
        exact asked
  · rw [port, offers.moves.ports q fun h => hno ((holds q).mpr h), joins.mine q (mem_slotPorts.mpr hq)]
  · have far : q ∉ slotPorts i := fun h => hq (mem_slotPorts.mp h)
    rw [port, offers.moves.ports q fun h => far h.1, joins.ports q far]
  · rw [← joins.slots j hj]
    exact like j
  · have kept : CellsKept w (w.proceeds i .probe) := by simp [CellsKept]
    exact joins.cells.trans (CellsKept.trans ⟨offers.moves.cells, offers.moves.mem⟩
      (wcells.trans (kept.trans (ended_cellsKept ..))))
  · simp [walloc, offers.moves.alloc, joins.alloc]
  · simp [wpower, offers.moves.power, joins.power]

end

end Sys2Proof.Machine

/-! A slot that joins with no offer to wait for is IN-SERVICE in the same event (R11, R102, R107). -/

namespace Sys2Proof.Machine

variable {s t u v w x y : State} {i j : SlotId} {p q : PortId} {b : Byte} {k : OrderOutcome}

/-! ### Join done -/

/-- A port whose other slot is neither JOINING nor IN-SERVICE is not offered (R104). -/
theorem offerHolds_alone (h : (s.slot (partner i q)).state.offering = false) :
    s.offerHolds q = false := by
  have both : s.bothOffering q = false := by
    unfold partner at h
    split at h
    · simp [State.bothOffering, h]
    · simp [State.bothOffering, h]
  simp [State.offerHolds, both]

/-- The ADMIT of a slot that joins is finished (R11, R48). -/
def State.joinedAt (w : State) (i : SlotId) : State :=
  finishActiveIf .admitBlade i .done none [] (changeStateOwn i .inService .joined w)

/-- What the end of a join leaves, where no port can be offered (R11). -/
structure State.JoinEnds (w : State) (i : SlotId) (x : State) : Prop where
  state : (x.slot i).state = .inService
  prev : (x.slot i).prev = (w.slot i).state
  orders : (x.slot i).orders = []
  latch : (w.slot i).latch = false → (x.slot i).latch = false
  slots : ∀ j, j ≠ i → x.slot j = w.slot j
  finished : ∀ e, (w.slot i).orders = [e] → x.cell e.cell = .finished ∧ x.rd8 e.cell 0x1C = OrderOutcome.done.code
  alloc : x.alloc = w.alloc
  power : x.power = w.power
  late : x.late = w.late
  work : x.work = w.work

theorem joinedAt_ends (hm : Memory.wf w.mem = true)
    (horders : (w.slot i).orders = [] ∨ (w.slot i).active = true ∧ (w.slot i).orders.length = 1)
    (hkind : ∀ e, (w.slot i).orders = [e] → e.kind = .admitBlade) : w.JoinEnds i (w.joinedAt i) := by
  have slot := changeStateOwn_slot_self w i .inService .joined
  have slots : ∀ j, j ≠ i → (changeStateOwn i .inService .joined w).slot j = w.slot j := fun j hj =>
    changeStateOwn_slot_ne _ _ _ _ hj
  have kept : CellsKept w (changeStateOwn i .inService .joined w) := by simp [CellsKept]
  have frame : (changeStateOwn i .inService .joined w).alloc = w.alloc
      ∧ (changeStateOwn i .inService .joined w).power = w.power
      ∧ (changeStateOwn i .inService .joined w).late = w.late
      ∧ (changeStateOwn i .inService .joined w).work = w.work := by simp
  obtain ⟨alloc, power, late, work⟩ := frame
  unfold State.joinedAt
  generalize changeStateOwn i .inService .joined w = v at *
  rcases horders with hnone | ⟨hactive, hone⟩
  · have rest : finishActiveIf .admitBlade i .done none [] v = v := by
      have orders : (v.slot i).orders = [] := by rw [slot]; exact hnone
      unfold finishActiveIf
      split
      · exact finishActive_empty orders ..
      · rfl
    rw [rest]
    exact {
      state := by rw [slot]; rfl
      prev := by rw [slot]; rfl
      orders := by rw [slot]; exact hnone
      latch := fun h => by rw [slot]; simp [Slot.enter, h]
      slots := slots
      finished := fun e he => by rw [hnone] at he; cases he
      alloc := alloc, power := power, late := late, work := work }
  · obtain ⟨e, he⟩ := List.length_eq_one_iff.mp hone
    have orders : (v.slot i).orders = [e] ∧ (v.slot i).active = true := by
      rw [slot]
      exact ⟨he, hactive⟩
    rw [finishActiveIf, if_pos ((activeKind_head orders.2 orders.1).trans (congrArg some (hkind e he)))]
    obtain ⟨finished, -⟩ := finishActive_cells (by rw [kept.2]; exact hm) orders.2 orders.1 .done none []
    have fslot : (finishActive i .done none [] v).slot i = { v.slot i with orders := [], active := false, read := none } := by
      rw [finishActive_slot_self]
      simp only [Slot.finished, orders.2, orders.1, Slot.dropHead, List.tail_cons]
    have frame : (finishActive i .done none [] v).alloc = v.alloc ∧ (finishActive i .done none [] v).power = v.power
        ∧ (finishActive i .done none [] v).late = v.late ∧ (finishActive i .done none [] v).work = v.work := by simp
    have others : ∀ j, j ≠ i → (finishActive i .done none [] v).slot j = v.slot j := fun j hj =>
      finishActive_slot_ne _ _ _ _ _ hj
    generalize finishActive i .done none [] v = x at *
    obtain ⟨falloc, fpower, flate, fwork⟩ := frame
    exact {
      state := by rw [fslot, slot]; rfl
      prev := by rw [fslot, slot]; rfl
      orders := by rw [fslot]
      latch := fun h => by rw [fslot, slot]; simp [Slot.enter, h]
      slots := fun j hj => (others j hj).trans (slots j hj)
      finished := fun e' he' => by
        rw [he] at he'
        cases he'
        exact ⟨finished.cell, finished.code⟩
      alloc := falloc.trans alloc
      power := fpower.trans power
      late := flate.trans late
      work := fwork.trans work }

theorem joinSlot_eq (halone : ∀ q ∈ slotPorts i, (w.slot (partner i q)).state.offering = false) :
    joinSlot i w = testInService i (w.joinedAt i) := by
  have none : offerTests (slotPorts i) (changeStateOwn i .inService .joined w) = changeStateOwn i .inService .joined w :=
    offerTests_none fun q hq => offerHolds_alone (i := i) (by
      rw [changeStateOwn_slot_ne _ _ _ _ (partner_ne i q)]
      exact halone q hq)
  rw [joinSlot, none]
  rfl

/-- Among late tests of slots with nothing to end, the test of a slot whose join is done ends it. -/
theorem drain_joins (hstate : (v.slot i).state = .joining) (hdone : v.joinDone i = true)
    (hothers : ∀ j, j ≠ i → (v.slot j).state ≠ .joining ∧ (v.slot j).state ≠ .leaving) :
    ∀ (ts : List LateTest) (b : Option Word16) (l : List SlotId) (n : Nat), i ∈ ts.map LateTest.slot → ts.length ≤ n →
    ∃ (ts' : List LateTest) (b' : Option Word16) (l' : List SlotId) (m : Nat) (l'' : List SlotId),
      ts'.length ≤ ts.length ∧ n ≤ m + ts.length
      ∧ drain n (v.tested ts b l) = drain m { joinSlot i (v.tested ts' b' l') with changed := l'' }
  | [], _, _, _, hmem, _ => absurd hmem List.not_mem_nil
  | x :: ts, b, l, n, hmem, hn => by
    have room : 0 < n := lt_of_lt_of_le (Nat.succ_pos _) hn
    obtain ⟨l1, step⟩ := drain_tests (s := v.tested (x :: ts) b l) (by simp) (t := x) (ts := ts) (by simp) room
    have again : (v.tested (x :: ts) b l).tested ts x.broughtBy (v.tested (x :: ts) b l).changed =
        v.tested ts x.broughtBy l := rfl
    rw [again] at step
    have hlen : ts.length + 1 ≤ n := hn
    by_cases hx : x.slot = i
    · have test : portTest x.slot (v.tested ts x.broughtBy l) = joinSlot i (v.tested ts x.broughtBy l) := by
        have state : ((v.tested ts x.broughtBy l).slot i).state = .joining := by simp [hstate]
        have done : (v.tested ts x.broughtBy l).joinDone i = true := by
          simpa only [State.joinDone, tested_reads] using hdone
        rw [hx, portTest, if_pos ⟨state, done⟩]
      rw [test] at step
      exact ⟨ts, x.broughtBy, l, n - 1, l1, Nat.le_succ _, by rw [List.length_cons]; omega, step⟩
    · have off := hothers x.slot hx
      have test : portTest x.slot (v.tested ts x.broughtBy l) = v.tested ts x.broughtBy l := by
        rw [portTest, if_neg (by simp [off.1]), if_neg (by simp [off.2])]
      rw [test] at step
      have later : i ∈ ts.map LateTest.slot := (List.mem_cons.mp hmem).resolve_left (Ne.symm hx)
      obtain ⟨ts', b', l', m, l'', hts, hm, rest⟩ := drain_joins hstate hdone hothers ts x.broughtBy l1 (n - 1) later
        (by omega)
      exact ⟨ts', b', l', m, l'', by rw [List.length_cons]; omega, by rw [List.length_cons]; omega, step.trans rest⟩

/-- A slot that has joined and for which nothing waits is at the end of its event. -/
theorem State.JoinEnds.atEnd (h : w.JoinEnds i x) {m : Nat} (hwork : w.work = []) (hlatch : (w.slot i).latch = false)
    (hother : isHub i = true → (w.slot (otherHub i)).latch = false)
    (hothers : ∀ j, j ≠ i → (w.slot j).state ≠ .joining ∧ (w.slot j).state ≠ .leaving) (hm : w.late.length + 3 ≤ m) :
    (testInService i x).AtEnd m := by
  have jobs := testInService_jobs (i := i) (h.work.trans hwork)
  have slots : ∀ j, (testInService i x).slot j = x.slot j := fun _ => rfl
  have late : (testInService i x).late = w.late := h.late
  generalize testInService i x = z at *
  have short := serviceJobs_short i
  have works : z.work.length = (serviceJobs i).length := by rw [← jobs, State.jobs, List.length_map]
  refine ⟨by rw [late]; omega, work_idle jobs (serviceJobs_idle ?_ ?_ fun hub => ?_), fun t _ => ?_⟩
  · rw [slots, h.orders]
  · rw [slots, h.latch hlatch]
  · rw [slots, h.slots _ (otherHub_ne hub)]
    exact hother hub
  · by_cases ht : t.slot = i
    · rw [ht]
      exact lateIdle_elsewhere (by rw [slots, h.state]; exact nofun) (by rw [slots, h.state]; exact nofun)
    · refine lateIdle_elsewhere ?_ ?_
      all_goals rw [slots, h.slots _ ht]
      · exact (hothers _ ht).1
      · exact (hothers _ ht).2

theorem testLate_asked (s : State) (i : SlotId) : i ∈ (s.testLate i).late.map LateTest.slot := by
  unfold State.testLate
  dsimp only
  split
  · next h =>
    obtain ⟨x, hx, hi⟩ := List.any_eq_true.mp h
    exact List.mem_map.mpr ⟨x, hx, of_decide_eq_true hi⟩
  · simp

section
variable {o : Outstanding} {f : List Byte} {r : Reply} (hinv : Inv s) (hl : s.Live) (ho : (s.engine i).out = some o)
  (hmsg : o.msg = .probe) (hlive : o.live = true) (hf : judgeReply .probe o.seq f = some r)
  (hst : AgentState.ofCode (byteAt r.payload 0) = some .ready)
include hinv hl ho hmsg hlive hf hst

/-- The third part of O51: with no offer to wait for READY brings the slot to IN-SERVICE. -/
theorem answer_serves (hboot : (s.slot i).state = .booting) (hreset : (s.pwr i).resetAsserted = false)
    (hrec : o.recovery = false) (hq : s.Quiet) (halone : ∀ h, isHub h ≠ isHub i → (s.slot h).state ≠ .inService)
    (hports : ∀ q, nodeSlot q = i ∨ hubSlot q = i → (s.portOf q).state = .isolated) (hlatch : (s.slot i).latch = false)
    (hkind : ∀ e, (s.slot i).orders = [e] → e.kind = .admitBlade)
    (horders : (s.slot i).orders = [] ∨ (s.slot i).active = true ∧ (s.slot i).orders.length = 1)
    (hother : isHub i = true → (s.slot (otherHub i)).latch = false) :
    ∃ t, exec (.frameArrival i f) s = .next t
    ∧ (t.slot i).state = .inService ∧ (t.slot i).prev = .joining ∧ (t.slot i).orders = []
    ∧ (∀ e, (s.slot i).orders = [e] → t.cell e.cell = .finished ∧ t.rd8 e.cell 0x1C = OrderOutcome.done.code)
    ∧ OtherSlots i s t ∧ t.alloc = s.alloc ∧ t.power = s.power := by
  have taken := frameTaken_probe ho hmsg hlive hf hst
  rw [hrec, if_neg Bool.false_ne_true] at taken
  replace taken := taken.trans (congrArg (State.proceeds · i .probe) (probeAnswer_joins hboot hreset))
  have joins := joins_joins s i (byteAt r.payload 1)
  generalize s.joins i (byteAt r.payload 1) = u at *
  have alone : ∀ q ∈ slotPorts i, (u.slot (partner i q)).state.offering = false := fun q hq' => by
    have kind : isHub (partner i q) ≠ isHub i := by
      have mine := mem_slotPorts.mp hq'
      unfold partner
      split
      · next h => rw [← h, isHub_nodeSlot, isHub_hubSlot]; exact nofun
      · next h => rw [← mine.resolve_left h, isHub_nodeSlot, isHub_hubSlot]; exact nofun
    rw [joins.slots _ (partner_ne i q)]
    have off := hq.slots (partner i q)
    have out := halone _ kind
    cases hs : (s.slot (partner i q)).state <;> simp_all [SlotState.offering]
  rw [offerTests_none fun q hq' => offerHolds_alone (alone q hq')] at taken
  have within : u.LateWithin fun _ => True := ⟨(joins.late hl.late).once, fun _ _ => trivial⟩
  have few := (within.testLate (i := i) trivial).length_le
  have waits := testLate_asked u i
  have same : ((u.testLate i).proceeds i .probe).slots = u.slots ∧ ((u.testLate i).proceeds i .probe).ports = u.ports
      ∧ ((u.testLate i).proceeds i .probe).late = (u.testLate i).late
      ∧ ((u.testLate i).proceeds i .probe).work = u.work ∧ ((u.testLate i).proceeds i .probe).mem = u.mem
      ∧ ((u.testLate i).proceeds i .probe).alloc = u.alloc
      ∧ ((u.testLate i).proceeds i .probe).power = u.power := by simp
  generalize (u.testLate i).proceeds i .probe = y at *
  obtain ⟨yslots, yports, ylate, ywork, ymem, yalloc, ypower⟩ := same
  have work : y.work = [] := ywork.trans (joins.work.trans hl.work)
  have yself : y.slot i = ((s.slot i).recordAgent .ready (byteAt r.payload 1)).enter s.time .joining :=
    (slot_congr yslots i).trans joins.slot
  have yother : ∀ j, j ≠ i → y.slot j = s.slot j := fun j hj => (slot_congr yslots j).trans (joins.slots j hj)
  have done : y.joinDone i = true := List.all_eq_true.mpr fun q hq' => by
    have isolated : (y.portOf q).state = .isolated := by
      rw [portOf_congr yports, joins.mine q hq']
      exact hports q (mem_slotPorts.mp hq')
    simp [isolated]
  have yquiet : ∀ j, j ≠ i → (y.slot j).state ≠ .joining ∧ (y.slot j).state ≠ .leaving := fun j hj => by
    rw [yother j hj]
    exact hq.slots j
  obtain ⟨ts, b', l', m, l'', hts, hm, hd⟩ := drain_joins (v := y) (i := i) (by rw [yself]; rfl) done yquiet y.late
    y.broughtBy (noteRecords s y).changed Config.workBound (by rw [ylate]; exact waits)
    (by rw [ylate]; simp only [Config.workBound]; omega)
  have start : noteRecords s y = y.tested y.late y.broughtBy (noteRecords s y).changed :=
    congrArg (fun ws => ({ noteRecords s y with work := ws } : State)) work
  have tslot : ∀ j, (y.tested ts b' l').slot j = y.slot j := fun j => by simp
  have tmem : (y.tested ts b' l').mem = y.mem := by simp
  have joined : (y.tested ts b' l').JoinEnds i ((y.tested ts b' l').joinedAt i) := by
    refine joinedAt_ends ?_ ?_ ?_
    · rw [tmem, ymem, joins.cells.2]
      exact hinv.mem
    · rw [tslot, yself]
      exact horders
    · rw [tslot, yself]
      exact hkind
  rw [joinSlot_eq fun q hq' => by rw [tslot, slot_congr yslots]; exact alone q hq'] at hd
  have hend := joined.atEnd (m := m) (by simp) (by rw [tslot, yself]; simp [Slot.enter, Slot.recordAgent, hlatch])
    (fun hub => by rw [tslot, yother _ (otherHub_ne hub)]; exact hother hub)
    (fun j hj => by rw [tslot]; exact yquiet j hj)
    (by
      have : (y.tested ts b' l').late = ts := by simp
      rw [this]
      rw [ylate] at hts hm
      simp only [Config.workBound] at hm
      omega)
  obtain ⟨l, c, hends⟩ := hend.ends l''
  have final : liveEvent (frameTaken i f) s = (testInService i ((y.tested ts b' l').joinedAt i)).ended l c := by
    rw [liveEvent_eq hl taken, start, hd, hends]
  have talloc : (y.tested ts b' l').alloc = y.alloc ∧ (y.tested ts b' l').power = y.power := by simp
  have worders : ((y.tested ts b' l').slot i).orders = (s.slot i).orders := by rw [tslot, yself]; rfl
  have wstate : ((y.tested ts b' l').slot i).state = .joining := by rw [tslot, yself]; rfl
  generalize (y.tested ts b' l') = w at *
  have after : ∀ x : State, (testInService i x).slots = x.slots ∧ CellsKept x (testInService i x)
      ∧ (testInService i x).alloc = x.alloc ∧ (testInService i x).power = x.power :=
    fun _ => ⟨rfl, ⟨rfl, rfl⟩, rfl, rfl⟩
  obtain ⟨zslots, zcells, zalloc, zpower⟩ := after (w.joinedAt i)
  generalize w.joinedAt i = x at *
  generalize testInService i x = z at *
  have like : ∀ j, ((z.ended l c).slot j).Like (x.slot j) := fun j => by
    rw [(ended_reads ..).1, slot_congr zslots]
    exact Slot.written_like _ _
  have kept := zcells.trans (ended_cellsKept z l c)
  refine ⟨_, congrArg Host.Outcome.next final, ?_, ?_, ?_, fun e he => ?_, fun j hj => ?_, ?_, ?_⟩
  · rw [(like i).field Slot.state fun _ _ => rfl]
    exact joined.state
  · rw [(like i).field Slot.prev fun _ _ => rfl]
    exact joined.prev.trans wstate
  · rw [(like i).field Slot.orders fun _ _ => rfl]
    exact joined.orders
  · obtain ⟨cell, code⟩ := joined.finished e (worders.trans he)
    refine ⟨(cell_congr kept.1 _).trans cell, ?_⟩
    rw [← code]
    simp only [State.rd8, kept.2]
  · rw [← yother j hj, ← tslot j, ← joined.slots j hj]
    exact like j
  · simp [zalloc, joined.alloc, talloc.1, yalloc, joins.alloc]
  · simp [zpower, joined.power, talloc.2, ypower, joins.power]

end

/-- Settles O51. -/
theorem probeAnswerTaken : Obligations.ProbeAnswerTaken := by
  intro s i o f r st hinv hl ho hmsg hlive hf hst x plain noFault
  refine ⟨fun hplain hfault hrec => answer_recorded hl ho hmsg hlive hf hst hrec hplain hfault,
    fun hplain hfault hpayload hfirst hnotify hrec =>
      answer_faulted hl ho hmsg hlive hf hst hrec hplain hfault hpayload hfirst hnotify,
    fun hboot hready hreset hrec hq halone hports hlatch hkind horders hother => ?_,
    ?_, ?_, fun hplain hfault hrec hlost => ?_⟩
  · subst hready
    exact answer_serves hinv hl ho hmsg hlive hf hst hboot hreset hrec hq halone hports hlatch hkind horders hother
  · intro hboot hready hreset hrec partner' mine offered hsome hquiet
    subst hready
    obtain ⟨t, he, like, ports, rest⟩ := answer_joins hl ho hmsg hlive hf hst hboot hreset hrec (offered := offered)
      (fun _ => Iff.rfl) hsome hquiet
    exact ⟨t, he, like.field Slot.state fun _ _ => rfl, (like.field Slot.prev fun _ _ => rfl).trans hboot,
      like.field Slot.entry fun _ _ => rfl, like.field Slot.gen fun _ _ => rfl, like.field Slot.boot fun _ _ => rfl,
      like.field Slot.orders fun _ _ => rfl, like.field Slot.active fun _ _ => rfl, ports, rest⟩
  · intro hres hrec hq hidle hother hnotify boots hint
    obtain ⟨t, he, prev, entry, gen, agent, booting, serving, fault, told, rest⟩ :=
      answer_resumes hinv hl ho hmsg hlive hf hst hres hrec hq hidle hother hnotify
    refine ⟨t, he, prev, entry, gen, agent, booting, serving, fault, told _ ?_, rest⟩
    split
    · rfl
    · exact ⟨fun h => if_pos h, fun h => if_neg h⟩
  · obtain ⟨t, he, like, up, recovery, ports, rest⟩ := answer_recovers hl ho hmsg hlive hf hst hrec hplain hfault
    refine ⟨t, he, like, up, recovery, fun q => (ports q).trans ?_, rest⟩
    by_cases hq : nodeSlot q = i ∨ hubSlot q = i
    · by_cases holds : (s.relinked i).offerHolds q = true
      · obtain ⟨state, declined, both, link⟩ := (relinked_offerHolds hq).mp holds
        rw [if_pos ⟨hq, holds⟩, if_pos ⟨hq, state, declined, both, link⟩, Port.offer, declined]
        rfl
      · rw [if_neg fun h => holds h.2, if_neg fun h => holds ((relinked_offerHolds hq).mpr h.2)]
    · rw [if_neg fun h => hq h.1, if_neg fun h => hq h.1]

end Sys2Proof.Machine

/-! Power-on reset: the presence arrivals of the first samples (R190, R191). -/

namespace Sys2Proof.Machine

variable {s t u v w : State} {i j : SlotId} {b : BoardInputs} {d : List SlotId} {seated : SlotId → Bool}

/-! ### Notices while RUN is clear -/

/-- While RUN is clear a notice of a slot is folded (R169). -/
theorem handNotice_stopped (n : Notice) (hrun : s.port.run = false) (hroom : s.journal.full = false) :
    handNotice n s = { s with
      journal := { s.journal with gapMask := s.journal.gapMask ||| n.mark, gapPending := true }
      shelfRevision := if decide (s.journal.gapMask ||| n.mark ≠ s.journal.gapMask) || !s.journal.gapPending
        then s.shelfRevision + 1 else s.shelfRevision } := by
  rw [handNotice, roomTest_nothing (by simp [hrun]), takeNotice_folds n (by simp [hrun]), foldNotice]
  simp only [hroom, Bool.false_eq_true, if_false]

theorem slot_mark (n : Notice) (hn : n.slot = some i) (k : Nat) :
    n.mark.getLsbD k = decide (k = i.val + 1) := by
  rw [Notice.mark, hn]
  have := i.isLt
  simp only [BitVec.getLsbD_shiftLeft, BitVec.getLsbD_one]
  by_cases hk : k = i.val + 1
  · simp [hk]
    omega
  · simp [hk]
    omega

/-! ### Arrivals -/

/-- The record of a slot that a blade has arrived in (R5). -/
def Slot.seats (x : Slot) (now : Time) : Slot :=
  { x.enter now .seating with settle := some (after now Config.seatSettle) }

/-- What an arrival makes of a part that has just been reset: RUN is clear and the slot's link ABSENT. -/
theorem arrival_folds (hstate : (s.slot i).state = .vacant) (hpoll : (s.engine i).poll = none)
    (hrun : s.port.run = false) (hroom : s.journal.full = false) :
    ∃ n : Notice, n.slot = some i ∧ arrival i s = { s.modSlot i fun x => x.seats s.time with
      journal := { s.journal with gapMask := s.journal.gapMask ||| n.mark, gapPending := true }
      shelfRevision := if decide (s.journal.gapMask ||| n.mark ≠ s.journal.gapMask) || !s.journal.gapPending
        then s.shelfRevision + 1 else s.shelfRevision } := by
  have move : moveSlot i .seating s = s.modSlot i (Slot.enter s.time .seating) :=
    modEngine_same (s := s.modSlot i (Slot.enter s.time .seating)) (by
      show ({ s.engine i with poll := none } : Engine) = s.engine i
      rw [← hpoll])
  let n := slotNotice (s.modSlot i (Slot.enter s.time .seating)) i (.state .seated) (s.activeTag i)
  have folds := handNotice_stopped (s := s.modSlot i (Slot.enter s.time .seating)) n hrun hroom
  refine ⟨n, rfl, ?_⟩
  rw [arrival, if_pos hstate, changeStateOwn, changeState, move, folds]
  exact congrArg (fun u : State => { u with
    journal := { s.journal with gapMask := s.journal.gapMask ||| n.mark, gapPending := true }
    shelfRevision := if decide (s.journal.gapMask ||| n.mark ≠ s.journal.gapMask) || !s.journal.gapPending
      then s.shelfRevision + 1 else s.shelfRevision })
    (modSlot_modSlot (i := i) (Slot.enter s.time .seating)
      (fun x => { x with settle := some (after s.time Config.seatSettle) }) s)

/-- The slots of `d` have been tested for an arrival; those of `seated` have one (R191). -/
structure State.Arrived (v : State) (seated : SlotId → Bool) (d : List SlotId) (t : State) : Prop where
  slots : ∀ i, t.slot i = if i ∈ d ∧ seated i = true then (v.slot i).seats v.time else v.slot i
  rest : ∃ slots journal revision, t = { v with slots := slots, journal := journal, shelfRevision := revision }
  journal : t.journal = { v.journal with gapMask := t.journal.gapMask, gapPending := d.any seated }
  shelf : t.journal.gapMask.getLsbD 0 = false
  mask : ∀ i : SlotId, t.journal.gapMask.getLsbD (i.val + 1) = (decide (i ∈ d) && seated i)
  revision : t.shelfRevision = v.shelfRevision + BitVec.ofNat 16 (d.countP seated)

theorem State.Arrived.none (hpending : v.journal.gapPending = false) (hmask : v.journal.gapMask = 0) :
    v.Arrived seated [] v where
  slots i := by simp
  rest := ⟨_, _, _, rfl⟩
  journal := by simp [← hpending]
  shelf := by simp [hmask]
  mask i := by simp [hmask]
  revision := by simp

/-- A part that has just been reset and is not held. -/
structure State.Fresh (v : State) (seated : SlotId → Bool) : Prop where
  run : v.port.run = false
  room : v.journal.full = false
  slots : ∀ i, (v.slot i).state = .vacant ∧ (v.engine i).poll = none
  presence : ∀ i, (v.slot i).presence = .both ↔ seated i = true

/-- The test of the next slot. -/
theorem State.Arrived.next (h : v.Arrived seated d t) (hv : v.Fresh seated) (hi : i ∉ d) :
    v.Arrived seated (d ++ [i]) (powerOnArrival t i) := by
  have same : t.slot i = v.slot i := by rw [h.slots, if_neg fun hd => hi hd.1]
  obtain ⟨_, _, _, rest⟩ := h.rest
  have time : t.time = v.time := by rw [rest]
  have engine : ∀ j, t.engine j = v.engine j := fun j => by rw [rest]; rfl
  have run : t.port.run = v.port.run := by rw [rest]
  have full : t.journal.full = v.journal.full := by rw [h.journal]; rfl
  by_cases hseat : seated i = true
  · have both : (t.slot i).presence = .both := by rw [same]; exact (hv.presence i).mpr hseat
    have act : powerOnArrival t i = arrival i t := by
      rw [powerOnArrival, presenceChange, both]
      exact if_pos ⟨rfl, nofun⟩
    obtain ⟨n, hn, arrived⟩ := arrival_folds (s := t) (i := i) (by rw [same]; exact (hv.slots i).1)
      (by rw [engine]; exact (hv.slots i).2) (run.trans hv.run) (full.trans hv.room)
    have fresh : t.journal.gapMask ||| n.mark ≠ t.journal.gapMask := fun heq => by
      have bit := congrArg (·.getLsbD (i.val + 1)) heq
      simp [h.mask, hi, slot_mark n hn] at bit
    rw [if_pos (by simp [fresh])] at arrived
    rw [act, arrived]
    refine ⟨fun j => ?_, ?_, ?_, ?_, fun j => ?_, ?_⟩
    · show (t.modSlot i fun x => x.seats t.time).slot j = _
      by_cases hj : j = i
      · rw [hj, modSlot_slot_self, same, time, if_pos ⟨by simp, hseat⟩]
      · rw [modSlot_slot_ne _ _ _ _ hj, h.slots]
        simp [hj]
    · have moved := congrArg (fun u : State => ({ u with
        slots := (t.modSlot i fun x => x.seats t.time).slots
        journal := { t.journal with gapMask := t.journal.gapMask ||| n.mark, gapPending := true }
        shelfRevision := t.shelfRevision + 1 } : State)) rest
      exact ⟨_, _, _, moved⟩
    · show ({ t.journal with gapMask := _, gapPending := true } : Journal) = _
      rw [h.journal]
      simp [hseat]
    · show (t.journal.gapMask ||| n.mark).getLsbD 0 = false
      rw [BitVec.getLsbD_or, h.shelf, slot_mark n hn]
      simp
    · show (t.journal.gapMask ||| n.mark).getLsbD (j.val + 1) = _
      rw [BitVec.getLsbD_or, h.mask, slot_mark n hn]
      by_cases hj : j = i
      · simp [hj, hseat]
      · simp [hj, Fin.val_eq_val]
    · show t.shelfRevision + 1 = _
      rw [h.revision, List.countP_append, List.countP_singleton, if_pos hseat]
      bv_omega
  · have off : seated i = false := by simpa using hseat
    have act : powerOnArrival t i = t := by
      have not_both : (t.slot i).presence ≠ .both := by rw [same]; exact fun h => hseat ((hv.presence i).mp h)
      rw [powerOnArrival, presenceChange, if_neg fun h => not_both h.1, if_neg fun h => absurd h.1 nofun]
    rw [act]
    refine ⟨fun j => ?_, h.rest, ?_, h.shelf, fun j => ?_, ?_⟩
    · rw [h.slots]
      by_cases hj : j = i
      · simp [hj, off]
      · simp [hj]
    · rw [List.any_append]
      simpa [off] using h.journal
    · rw [h.mask]
      by_cases hj : j = i
      · simp [hj, off]
      · simp [hj]
    · rw [h.revision, List.countP_append, List.countP_singleton, if_neg hseat, Nat.add_zero]

theorem State.Arrived.all (hv : v.Fresh seated) : ∀ (l d : List SlotId) (t : State), (d ++ l).Nodup →
    v.Arrived seated d t → v.Arrived seated (d ++ l) (l.foldl powerOnArrival t)
  | [], d, t, _, h => by simpa using h
  | i :: l, d, t, hnodup, h => by
    have hi : i ∉ d := fun hd => (List.nodup_append'.mp hnodup).2.2 hd List.mem_cons_self
    have rest := all hv l (d ++ [i]) (powerOnArrival t i) (by simpa using hnodup) (h.next hv hi)
    simpa using rest

end Sys2Proof.Machine

/-! The state after power-on reset (R190, R191). -/

namespace Sys2Proof.Machine

variable {s t u v w : State} {i j : SlotId} {b : BoardInputs}

/-- The first samples of a slot give presence BOTH (R191). -/
def firstSeated (b : BoardInputs) (i : SlotId) : Bool := !b.resetAsserted && (b.slots[i]).long && (b.slots[i]).short

/-- The part once every block is initialized, the waiting commands standing (R190, log 30). -/
def State.fresh (s : State) (b : BoardInputs) : State := { State.powerOn b with pending := s.pending }

theorem fresh_slot (s : State) (b : BoardInputs) (i : SlotId) :
    (s.fresh b).slot i = Slot.powerOn b.straps b.resetAsserted b.slots[i] := by
  simp [State.fresh, State.slot, State.powerOn]

theorem fresh_engine (s : State) (b : BoardInputs) (i : SlotId) : (s.fresh b).engine i = Engine.powerOn := by
  simp [State.fresh, State.engine, State.powerOn]

theorem fresh_fresh (s : State) (b : BoardInputs) : (s.fresh b).Fresh (firstSeated b) where
  run := rfl
  room := by
    show decide ((0 : Word16) - 0 = 128) = false
    decide
  slots i := by
    rw [fresh_slot, fresh_engine]
    exact ⟨rfl, rfl⟩
  presence i := by
    rw [fresh_slot]
    unfold Slot.powerOn Slot.presence firstSeated
    cases b.resetAsserted <;> cases b.slots[i].long <;> cases b.slots[i].short <;> simp

/-- The first samples of R191; a held part takes none (R193). -/
theorem powerOnSamples_arrived (s : State) (b : BoardInputs) :
    (s.fresh b).Arrived (firstSeated b) allSlots (powerOnSamples (s.fresh b)) := by
  have start : (s.fresh b).Arrived (firstSeated b) [] (s.fresh b) := .none rfl rfl
  unfold powerOnSamples
  split
  · next hheld =>
    have none : ∀ i, firstSeated b i = false := fun i => by
      have held : b.resetAsserted = true := hheld
      simp [firstSeated, held]
    refine ⟨fun i => by simp [none], start.rest, ?_, start.shelf, fun i => ?_, ?_⟩
    · rw [List.any_eq_false.mpr fun i _ => by simp [none]]
      exact start.journal
    · rw [start.mask, none]
      simp
    · rw [List.countP_eq_zero.mpr fun i _ => by simp [none]]
      exact start.revision
  · exact State.Arrived.all (fresh_fresh s b) allSlots [] _ (by decide) start

theorem recordView_of_slot (hslot : t.slot i = s.slot i) (hpower : t.power = s.power) (hengines : t.engines = s.engines)
    (hports : t.ports = s.ports) : t.recordView i = s.recordView i := by
  have mirror : ∀ hub, t.mirrorPort hub = s.mirrorPort hub := fun hub => funext fun p => by
    simp only [State.mirrorPort, portOf_congr hports]
  simp only [State.recordView, hslot, pwr_congr hpower, engine_congr hengines, mirror]

/-- Settles O54. -/
theorem powerOnReset : Obligations.PowerOnReset := by
  intro s b seated
  have arrived := powerOnSamples_arrived s b
  obtain ⟨_, _, _, rest⟩ := arrived.rest
  have act : exec (.powerOnReset b) s = .next (event (fun _ => powerOnSamples (s.fresh b)) (s.fresh b)) := rfl
  generalize powerOnSamples (s.fresh b) = u at *
  have work : u.work = [] := by rw [rest]; rfl
  have late : u.late = [] := by rw [rest]; rfl
  obtain ⟨l, c, hl, he⟩ := event_quiet (s := s.fresh b) (u := u) ⟨rfl, rfl, rfl, rfl, rfl⟩
    (by simp [work, late]) (by simp [work]) (by simp [late])
  have view : ∀ i, i ∈ l ↔ seated i = true := fun i => by
    rw [hl]
    by_cases hi : seated i = true
    · refine iff_of_true (fun h => ?_) hi
      have state := congrArg RecordView.state h
      simp only [State.recordView] at state
      rw [arrived.slots, if_pos ⟨mem_allSlots i, hi⟩, fresh_slot] at state
      exact absurd state nofun
    · refine iff_of_false (fun h => h ?_) hi
      exact recordView_of_slot (by rw [arrived.slots, if_neg fun h => hi h.2]) (by rw [rest]) (by rw [rest]) (by rw [rest])
  have slots : ∀ i, (u.ended l c).slot i = if seated i then
      { (Slot.powerOn b.straps b.resetAsserted b.slots[i]).seats 0 with upd := 1 }
      else Slot.powerOn b.straps b.resetAsserted b.slots[i] := fun i => by
    rw [(ended_reads ..).1, arrived.slots, fresh_slot]
    by_cases hi : seated i = true
    · rw [if_pos ⟨mem_allSlots i, hi⟩, if_pos hi, decide_eq_true ((view i).mpr hi)]
      rfl
    · rw [if_neg fun h => hi h.2, if_neg hi, decide_eq_false fun h => hi ((view i).mp h)]
      rfl
  have frame : (u.ended l c).pending = s.pending ∧ (u.ended l c).time = 0 ∧ (u.ended l c).held = b.resetAsserted
      ∧ (u.ended l c).resetLine = (if b.resetAsserted then some 0 else none) ∧ (u.ended l c).straps = b.straps
      ∧ (u.ended l c).pins = b.slots ∧ (u.ended l c).feedALow = b.feedALow ∧ (u.ended l c).feedBLow = b.feedBLow
      ∧ (u.ended l c).debounceFrom = DebounceTimes.all 0
      ∧ (u.ended l c).port = ⟨false, false, 0, 0, .powerOn, b.messageEnable, 0⟩ ∧ (u.ended l c).mem = []
      ∧ (u.ended l c).pointer = 0 ∧ (u.ended l c).cells = Vector.replicate 32 .free
      ∧ (u.ended l c).alloc = Allocator.powerOn b.straps ∧ (u.ended l c).settings = Settings.powerOn
      ∧ (u.ended l c).history = [] ∧ (u.ended l c).power = Vector.replicate 16 Power.powerOn
      ∧ (u.ended l c).ports = Vector.replicate 28 Port.powerOn
      ∧ (u.ended l c).engines = Vector.replicate 16 Engine.powerOn := by
    refine ⟨?_, ?_, ?_, ?_, ?_, ?_, ?_, ?_, ?_, ?_, ?_, ?_, ?_, ?_, ?_, ?_, ?_, ?_, ?_⟩
    all_goals
      simp only [ended_frame, rest]
      rfl
  obtain ⟨epending, etime, eheld, eline, estraps, epins, efeedA, efeedB, edebounce, eport, emem, epointer, ecells, ealloc,
    esettings, ehistory, epower, eports, eengines⟩ := frame
  have eready : (u.ended l c).Ready := ⟨by simp, by simp, by simp, by simp, by simp⟩
  have alloc : (Allocator.powerOn b.straps).capacity = 800 * (b.straps.budgetCode.toNat + 1)
      ∧ (∀ i : SlotId, (Allocator.powerOn b.straps).claims[i] = 0) :=
    ⟨rfl, fun i => by simp [Allocator.powerOn]⟩
  have revision : (u.ended l c).shelfRevision = u.shelfRevision := by
    rw [State.ended, closeEvent_eq (by rw [rest]; rfl)]
  have journal : (u.ended l c).journal = u.journal := by simp
  have entries : u.journal.entries = Vector.replicate 128 none ∧ u.journal.writeCount = 0 ∧ u.journal.readCount = 0
      ∧ u.journal.gapPending = allSlots.any seated := by
    rw [arrived.journal]
    exact ⟨rfl, rfl, rfl, rfl⟩
  obtain ⟨entries, write, read, pending⟩ := entries
  generalize u.ended l c = t at *
  refine ⟨t, act.trans (congrArg Host.Outcome.next he), epending, etime, eheld, eline, estraps, epins, efeedA, efeedB,
    edebounce, eport, by rw [State.noticePin, eport]; rfl, emem, epointer, fun k => by simp [State.cell, ecells], ?_,
    by rw [journal, write], by rw [journal, read], fun k => by rw [journal, entries]; simp, by rw [journal, arrived.shelf],
    fun i => ?_, by rw [journal, pending], by rw [ealloc, alloc.1], by rw [ealloc]; rfl, by rw [ealloc]; rfl,
    fun i => by rw [ealloc]; exact alloc.2 i, by rw [ealloc]; rfl, by rw [ealloc]; rfl, by rw [ealloc]; rfl,
    by rw [ealloc]; rfl, by rw [ealloc]; rfl, by rw [ealloc]; rfl, esettings, ehistory,
    fun i => by simp [State.pwr, epower, Power.powerOn], fun p => by simp [State.portOf, eports, Port.powerOn],
    fun i => by simp [State.engine, eengines, Engine.powerOn], eready, fun i => ?_⟩
  · rw [revision, arrived.revision]
    exact BitVec.zero_add _
  · rw [journal, arrived.mask, decide_eq_true (mem_allSlots i), Bool.true_and]
    rfl
  · rw [slots i]
    have level : ∀ x : Bool, (x && !b.resetAsserted) = (!b.resetAsserted && x) := fun x => Bool.and_comm ..
    by_cases hi : seated i = true
    · simp only [if_pos hi]
      exact ⟨rfl, rfl, rfl, rfl, trivial, rfl, rfl, level _, level _, level _, ⟨rfl, rfl, rfl⟩, rfl, rfl, rfl, rfl, rfl, rfl, rfl,
        rfl, rfl, rfl, rfl, rfl, rfl, rfl, rfl, rfl, rfl, rfl, rfl, rfl, rfl, rfl⟩
    · simp only [if_neg hi]
      exact ⟨rfl, rfl, rfl, rfl, rfl, rfl, rfl, level _, level _, level _, ⟨rfl, rfl, rfl⟩, rfl, rfl, rfl, rfl, rfl, rfl, rfl,
        rfl, rfl, rfl, rfl, rfl, rfl, rfl, rfl, rfl, rfl, rfl, rfl, rfl, rfl, rfl⟩

end Sys2Proof.Machine

/-! What every step of a warm restart keeps of the parts that belong to no one slot (R72, R174, R194). -/

namespace Sys2Proof.Machine

variable {s t u v w : State} {i j : SlotId} {p q : PortId} {M : PortId → Prop}

/-! ### The journal while RUN is clear -/

/-- While RUN is clear the journal's entries and counts stand, and no mark of the gap is taken back (R169, R174). -/
structure Journal.Folds (J K : Journal) : Prop where
  entries : K.entries = J.entries
  writeCount : K.writeCount = J.writeCount
  readCount : K.readCount = J.readCount
  marks : ∀ k, J.gapMask.getLsbD k = true → K.gapMask.getLsbD k = true
  gap : J.gapPending = true → K.gapPending = true

theorem Journal.Folds.refl (J : Journal) : J.Folds J := ⟨rfl, rfl, rfl, fun _ h => h, fun h => h⟩

theorem Journal.Folds.trans {J K L : Journal} (h : J.Folds K) (h' : K.Folds L) : J.Folds L :=
  ⟨h'.entries.trans h.entries, h'.writeCount.trans h.writeCount, h'.readCount.trans h.readCount,
    fun k hk => h'.marks k (h.marks k hk), fun hg => h'.gap (h.gap hg)⟩

theorem handNotice_folds (n : Notice) (hrun : s.port.run = false) : (handNotice n s).journal = { s.journal with
    gapMask := s.journal.gapMask ||| n.mark, gapPending := true } := by
  rw [handNotice, roomTest_nothing (by simp [hrun]), takeNotice_folds n (by simp [hrun]), foldNotice_journal]

theorem folds_handNotice (n : Notice) (hrun : s.port.run = false) : s.journal.Folds (handNotice n s).journal := by
  rw [handNotice_folds n hrun]
  exact ⟨rfl, rfl, rfl, fun k hk => by simp [hk], fun _ => rfl⟩

/-! ### What every step keeps -/

/-- A bit that stands in ATTENTION stands when another is latched. -/
theorem and_or_mask {n : Nat} {a m : BitVec n} (b : BitVec n) (h : a &&& m = m) : (a ||| b) &&& m = m := by
  refine BitVec.eq_of_getLsbD_eq fun k hk => ?_
  have bit := congrArg (·.getLsbD k) h
  simp only [BitVec.getLsbD_and, BitVec.getLsbD_or] at bit ⊢
  revert bit
  cases a.getLsbD k <;> cases m.getLsbD k <;> simp

/-- What a step of the restart keeps, beside slots, ports, engines and cells. -/
structure State.Onward (s t : State) : Prop where
  time : t.time = s.time
  pins : t.pins = s.pins
  settings : t.settings = s.settings
  run : t.port.run = s.port.run
  attention : ∀ m, s.port.attention &&& m = m → t.port.attention &&& m = m
  journal : s.port.run = false → s.journal.Folds t.journal
  limits : t.alloc.capacity = s.alloc.capacity ∧ t.alloc.hubReserve = s.alloc.hubReserve
    ∧ t.alloc.feedALost = s.alloc.feedALost ∧ t.alloc.feedBLost = s.alloc.feedBLost
  lists : t.alloc.queue = s.alloc.queue ∧ t.alloc.shelf = s.alloc.shelf
  ramping : s.alloc.ramping = [] → t.alloc.ramping = []
  late : s.LateWithin (fun _ => True) → t.LateWithin fun _ => True

namespace State.Onward

theorem trans (h : s.Onward t) (h' : t.Onward u) : s.Onward u where
  time := h'.time.trans h.time
  pins := h'.pins.trans h.pins
  settings := h'.settings.trans h.settings
  run := h'.run.trans h.run
  attention m hm := h'.attention m (h.attention m hm)
  journal hr := (h.journal hr).trans (h'.journal (h.run.trans hr))
  limits := ⟨h'.limits.1.trans h.limits.1, h'.limits.2.1.trans h.limits.2.1, h'.limits.2.2.1.trans h.limits.2.2.1,
    h'.limits.2.2.2.trans h.limits.2.2.2⟩
  lists := ⟨h'.lists.1.trans h.lists.1, h'.lists.2.trans h.lists.2⟩
  ramping hr := h'.ramping (h.ramping hr)
  late hl := h'.late (h.late hl)

/-- A step that writes neither registers nor journal nor allocator. -/
theorem of_same (htime : t.time = s.time) (hpins : t.pins = s.pins) (hsettings : t.settings = s.settings)
    (hport : t.port = s.port) (hjournal : t.journal = s.journal) (halloc : t.alloc = s.alloc)
    (hlate : s.LateWithin (fun _ => True) → t.LateWithin fun _ => True) : s.Onward t where
  time := htime
  pins := hpins
  settings := hsettings
  run := by rw [hport]
  attention m hm := by rw [hport]; exact hm
  journal _ := hjournal ▸ .refl _
  limits := by rw [halloc]; exact ⟨rfl, rfl, rfl, rfl⟩
  lists := by rw [halloc]; exact ⟨rfl, rfl⟩
  ramping := by rw [halloc]; exact id
  late := hlate

theorem refl (s : State) : s.Onward s := of_same rfl rfl rfl rfl rfl rfl id

/-- Steps one after another. -/
theorem foldl {α : Type} {f : State → α → State} (hf : ∀ (s : State) a, s.Onward (f s a)) :
    ∀ (l : List α) (s : State), s.Onward (l.foldl f s)
  | [], s => refl s
  | a :: l, s => (hf s a).trans (foldl hf l (f s a))

theorem modSlot (s : State) (i : SlotId) (f : Slot → Slot) : s.Onward (s.modSlot i f) :=
  of_same rfl rfl rfl rfl rfl rfl fun h => h.congr rfl

theorem modEngine (s : State) (i : SlotId) (f : Engine → Engine) : s.Onward (s.modEngine i f) :=
  of_same rfl rfl rfl rfl rfl rfl fun h => h.congr rfl

theorem modPort (s : State) (p : PortId) (f : Port → Port) : s.Onward (s.modPort p f) :=
  of_same rfl rfl rfl rfl rfl rfl fun h => h.modPort trivial trivial f

theorem modPower (s : State) (i : SlotId) (f : Power → Power) : s.Onward (s.modPower i f) :=
  of_same rfl rfl rfl rfl rfl rfl fun h => h.congr rfl

theorem raise (s : State) (js : List Job) : s.Onward (s.raise js) :=
  of_same rfl rfl rfl rfl rfl rfl fun h => h.congr rfl

theorem latch (s : State) (b : Attention) : s.Onward (s.latch b) := by
  have frame : (s.latch b).time = s.time ∧ (s.latch b).pins = s.pins ∧ (s.latch b).settings = s.settings
      ∧ (s.latch b).journal = s.journal ∧ (s.latch b).alloc = s.alloc ∧ (s.latch b).late = s.late := by simp
  obtain ⟨time, pins, settings, journal, alloc, late⟩ := frame
  refine ⟨time, pins, settings, ?_, fun m hm => ?_, fun _ => journal ▸ .refl _, ?_, ?_, ?_, fun h => h.congr late⟩
  · unfold State.latch State.updatePort
    dsimp only
    split <;> rfl
  · rw [latch_attention]
    exact and_or_mask _ hm
  all_goals rw [alloc]
  · exact ⟨rfl, rfl, rfl, rfl⟩
  · exact ⟨rfl, rfl⟩
  · exact id

theorem handNotice (s : State) (n : Notice) : s.Onward (Machine.handNotice n s) := by
  obtain ⟨j, a, k, r, only⟩ := noticeOnly_handNotice n s
  have room : ∀ m, s.port.attention &&& m = m → (roomTest s).port.attention &&& m = m := fun m hm => by
    by_cases hgap : s.journal.gapPending = true ∧ s.port.run = true ∧ s.journal.full = false
    · rw [(roomTest_writes hgap).2.1]
      exact and_or_mask _ hm
    · rw [roomTest_nothing hgap]
      exact hm
  have taken : ∀ (v : State) m, v.port.attention &&& m = m → (takeNotice n v).port.attention &&& m = m := fun v m hm => by
    by_cases hwrites : v.port.run = true ∧ v.journal.full = false ∧ v.journal.gapPending = false
    · rw [takeNotice_writes n hwrites, writeNotice_attention]
      exact and_or_mask _ hm
    · rw [takeNotice_folds n hwrites, foldNotice_attention]
      split
      · exact and_or_mask _ hm
      · exact hm
  have frame : (Machine.handNotice n s).time = s.time ∧ (Machine.handNotice n s).pins = s.pins
      ∧ (Machine.handNotice n s).settings = s.settings ∧ (Machine.handNotice n s).alloc = s.alloc
      ∧ (Machine.handNotice n s).late = s.late := by simp
  obtain ⟨time, pins, settings, alloc, late⟩ := frame
  refine ⟨time, pins, settings, by rw [only], fun m hm => taken _ m (room m hm), folds_handNotice n, ?_, ?_, ?_,
    fun h => h.congr late⟩
  all_goals rw [alloc]
  · exact ⟨rfl, rfl, rfl, rfl⟩
  · exact ⟨rfl, rfl⟩
  · exact id

theorem changeState (s : State) (i : SlotId) (st : SlotState) (d : StateDetail) (tag : Option Word16) :
    s.Onward (Machine.changeState i st d tag s) :=
  ((modSlot s i _).trans (modEngine _ i _)).trans (handNotice _ _)

theorem changeStateOwn (s : State) (i : SlotId) (st : SlotState) (d : StateDetail) :
    s.Onward (Machine.changeStateOwn i st d s) := changeState s i st d _

theorem clearDeclined (s : State) (i : SlotId) : s.Onward (Machine.clearDeclined i s) :=
  foldl (fun s p => modPort s p _) _ s

theorem rebuildPort (s : State) (p : PortId) : s.Onward (Machine.rebuildPort s p) := by
  unfold Machine.rebuildPort
  exact modPort s p _

theorem restartMove (s : State) (i : SlotId) : s.Onward (Machine.restartMove s i) := by
  unfold Machine.restartMove
  split
  · exact ((changeState s i _ _ _).trans (modSlot _ i _)).trans (clearDeclined _ i)
  · exact changeState s i _ _ _
  case h_11 => exact modSlot s i _
  case h_3 | h_4 | h_5 | h_6 | h_7 | h_8 | h_9 | h_10 => exact changeState s i _ _ _
  all_goals exact refl s

theorem writeResult (s : State) (c : CellId) (st : CellState) (r : CellResult) :
    s.Onward (Machine.writeResult c st r s) :=
  (of_same (s := s) (t := { s with mem := Memory.writeList s.mem (cellOffset c + 0x1C) (r.bytes s) }.setCell c st)
    rfl rfl rfl rfl rfl rfl fun h => h.congr rfl).trans (latch _ .orderDone)

theorem finishEntries (i : SlotId) (o : OrderOutcome) : ∀ (l : List OrderEntry) (s : State),
    s.Onward (Machine.finishEntries i o l s)
  | [], s => refl s
  | _ :: l, s => (writeResult s _ _ _).trans (finishEntries i o l _)

theorem abandonShelf : ∀ (l : List OrderEntry) (s : State), s.Onward (Machine.abandonShelf l s)
  | [], s => refl s
  | _ :: l, s => (writeResult s _ _ _).trans (abandonShelf l _)

theorem askProbe (s : State) (i : SlotId) (b : Placer) : s.Onward (Machine.askProbe i b s) :=
  askProbe_eq b s ▸ modEngine s i _

theorem alertTest (s : State) (i : SlotId) : s.Onward (Machine.alertTest i s) := by
  unfold Machine.alertTest
  split
  · exact askProbe s i _
  · exact refl s

theorem restartLink (s : State) (i : SlotId) : s.Onward (Machine.restartLink s i) := by
  unfold Machine.restartLink
  dsimp only
  split
  · exact (modEngine s i _).trans (alertTest _ i)
  · exact modEngine s i _

theorem restartSurvey (s : State) (i : SlotId) : s.Onward (Machine.restartSurvey s i) := by
  unfold Machine.restartSurvey
  split
  · unfold surveyBegin
    rw [placeOwn_eq]
    exact ((modSlot s i Slot.clearIdentity).trans (modSlot _ i _)).trans (modEngine _ i _)
  · exact refl s

theorem arrival (s : State) (i : SlotId) : s.Onward (Machine.arrival i s) := by
  unfold Machine.arrival
  split
  · exact (changeStateOwn s i _ _).trans (modSlot _ i _)
  · exact refl s

theorem presenceChange (s : State) (i : SlotId) : s.Onward (Machine.presenceChange i .none s) := by
  unfold Machine.presenceChange
  dsimp only
  split
  · exact arrival s i
  · rw [if_neg fun h => absurd h.1 nofun]
    exact refl s

theorem restartSample (s : State) (i : SlotId) : s.Onward (Machine.restartSample s i) := by
  unfold Machine.restartSample
  split
  · exact (modSlot s i _).trans (presenceChange _ i)
  · exact refl s

/-! The removal of power by a fault. -/

theorem placePort (s : State) (i : SlotId) (m : Msg) : s.Onward (Machine.placePort i m s) :=
  placePort_eq m s ▸ modEngine s i _

theorem offerTest (s : State) (p : PortId) : s.Onward (Machine.offerTest p s) := by
  unfold Machine.offerTest
  split
  · exact (modPort s p _).trans (placePort _ _ _)
  · exact refl s

theorem notified (s : State) (i : SlotId) (m : Msg) (loss : Option SlotId) : s.Onward (s.notified i m loss) := by
  unfold State.notified
  split
  · exact placePort s i m
  · exact refl s

theorem cutOff (s : State) (p : PortId) : s.Onward (s.cutOff p) :=
  ((modEngine s _ _).trans (modEngine _ _ _)).trans (modPort _ p _)

theorem isolatePort (s : State) (p : PortId) (loss : Option SlotId) (notice : Bool) :
    s.Onward (Machine.isolatePort p loss notice s) := by
  rw [isolatePort_eq]
  split
  · exact refl s
  · have quiet := ((cutOff s p).trans (notified _ (hubSlot p) (.drop p.node) loss)).trans
      (notified _ (nodeSlot p) (.pathLost p.hub) loss)
    dsimp only
    split
    · exact quiet.trans (handNotice _ _)
    · exact quiet

theorem isolateSlot (s : State) (i : SlotId) : s.Onward (Machine.isolateSlot i s) :=
  (foldl (fun s p => isolatePort s p (some i) true) _ s).trans (foldl (fun s p => offerTest s p) _ _)

theorem modAlloc (s : State) {f : Allocator → Allocator} (hlimits : (f s.alloc).capacity = s.alloc.capacity
      ∧ (f s.alloc).hubReserve = s.alloc.hubReserve ∧ (f s.alloc).feedALost = s.alloc.feedALost
      ∧ (f s.alloc).feedBLost = s.alloc.feedBLost)
    (hlists : (f s.alloc).queue = s.alloc.queue ∧ (f s.alloc).shelf = s.alloc.shelf)
    (hramping : s.alloc.ramping = [] → (f s.alloc).ramping = []) : s.Onward (s.modAlloc f) :=
  ⟨rfl, rfl, rfl, rfl, fun _ h => h, fun _ => .refl _, hlimits, hlists, hramping, fun h => h.congr rfl⟩

theorem rampEnded (s : State) (i : SlotId) : s.Onward (Machine.rampEnded i s) := by
  have erased : s.Onward (s.modAlloc fun a => { a with ramping := a.ramping.erase i }) :=
    modAlloc s ⟨rfl, rfl, rfl, rfl⟩ ⟨rfl, rfl⟩ fun h => by simp [h]
  unfold Machine.rampEnded
  dsimp only
  split
  · split
    · exact erased.trans (raise _ _)
    · exact erased
  · exact refl s

theorem powerOff (s : State) (i : SlotId) : s.Onward (Machine.powerOff i s) := by
  unfold Machine.powerOff
  split
  · split
    · exact (rampEnded s i).trans (modPower _ i _)
    · exact modPower s i _
  · exact refl s

theorem touchShelf (s : State) : s.Onward s.touchShelf := of_same rfl rfl rfl rfl rfl rfl fun h => h.congr rfl

theorem returnClaim (s : State) (i : SlotId) : s.Onward (Machine.returnClaim i s) := by
  unfold Machine.returnClaim
  dsimp only
  split
  · exact modSlot s i _
  · have released := modAlloc (s.modSlot i fun x => { x with claim := 0 }) (f := Allocator.release i) ⟨rfl, rfl, rfl, rfl⟩
      ⟨rfl, rfl⟩ id
    exact (((modSlot s i _).trans released).trans (touchShelf _)).trans (raise _ _)

theorem finishActiveIf (s : State) (k : OrderKind) (i : SlotId) (o : OrderOutcome) (x : Option FaultCause) (d : List Byte) :
    s.Onward (Machine.finishActiveIf k i o x d s) := by
  unfold Machine.finishActiveIf finishActive
  split
  · split
    · exact (modSlot s i _).trans (writeResult _ _ _ _)
    · exact refl s
    · exact refl s
  · exact refl s

theorem faultRemove (s : State) (i : SlotId) (cause : FaultCause) : s.Onward (Machine.faultRemove i cause s) := by
  have lost : s.Onward (losePayload i (Machine.changeStateOwn i .faulted .fault s)) :=
    (((changeStateOwn s i _ _).trans (powerOff _ i)).trans (isolateSlot _ i)).trans (returnClaim _ i)
  have faulted : s.Onward (s.faulted i) := by
    unfold State.faulted
    dsimp only
    split
    · exact lost
    · exact lost.trans (modEngine _ i _)
  rw [faultRemove_eq]
  exact ((faulted.trans (finishActiveIf _ _ i _ _ _)).trans (finishActiveIf _ _ i _ _ _)).trans (raise _ _)

theorem restartCheck (s : State) (i : SlotId) : s.Onward (Machine.restartCheck s i) := by
  unfold Machine.restartCheck
  split
  · split
    · exact askProbe s i _
    · rw [raiseFault_removes (.inl rfl)]
      exact (((handNotice s _).trans (modSlot _ i _)).trans (handNotice _ _)).trans (faultRemove _ i _)
  · exact refl s

end State.Onward

end Sys2Proof.Machine

/-! A slot at a warm restart, beside the steps of other slots. -/

namespace Sys2Proof.Machine

variable {s t u v w : State} {i j : SlotId} {p q : PortId} {e e' e'' : Engine}

/-! ### An engine while port messages come and go -/

/-- Port messages come and go on a link: its state stands, and so do the messages that are about no port. -/
structure Engine.Passes (e e' : Engine) : Prop where
  link : e'.link = e.link
  carries : ∀ m : Msg, m.far = none → e.Carries m → e'.Carries m
  probing : e.probing = false → e'.probing = false

namespace Engine.Passes

theorem refl (e : Engine) : e.Passes e := ⟨rfl, fun _ _ h => h, fun h => h⟩

theorem trans (h : e.Passes e') (h' : e'.Passes e'') : e.Passes e'' :=
  ⟨h'.link.trans h.link, fun m hm hc => h'.carries m hm (h.carries m hm hc), fun hp => h'.probing (h.probing hp)⟩

/-- Messages that are ended are about a port. -/
theorem endMessages {f : Msg → Bool} (hf : ∀ m : Msg, m.far = none → f m = false) (e : Engine) :
    e.Passes (e.endMessages f) where
  link := rfl
  carries m hm hc := hc.endMessages (hf m hm)
  probing h := by
    obtain ⟨hqueue, hout⟩ := Bool.or_eq_false_iff.mp h
    refine Bool.or_eq_false_iff.mpr ⟨?_, ?_⟩
    · exact List.any_eq_false.mpr fun q hq => List.any_eq_false.mp hqueue q (List.mem_of_mem_filter hq)
    · unfold Engine.endMessages
      cases ho : e.out with
      | none => rfl
      | some o =>
        rw [ho] at hout
        simp only [Option.map_some, Option.any_some]
        split
        · exact hout
        · exact hout

theorem serve_probing (h : e.probing = false) (now : Time) : (e.serve now).probing = false := by
  obtain ⟨hqueue, hout⟩ := Bool.or_eq_false_iff.mp h
  unfold Engine.serve
  split
  · split
    · next q hq =>
      have no := List.any_eq_false.mp hqueue q (List.mem_of_find?_eq_some hq)
      refine Bool.or_eq_false_iff.mpr ⟨?_, by simpa [Engine.send] using no⟩
      exact List.any_eq_false.mpr fun q' hq' => List.any_eq_false.mp hqueue q' (List.mem_of_mem_eraseP hq')
    · exact h
  · exact h

theorem join_probing (h : e.probing = false) {m : Msg} (hm : m ≠ .probe) (b : Placer) (n : Option Time) :
    (e.join m b n).probing = false := by
  obtain ⟨hqueue, hout⟩ := Bool.or_eq_false_iff.mp h
  exact Bool.or_eq_false_iff.mpr ⟨queued_join hqueue (decide_eq_false hm) b n, by rw [join_out]; exact hout⟩

/-- A port message is placed. -/
theorem ported (now : Time) {m : Msg} (hm : m.far ≠ none) (e : Engine) : e.Passes (e.ported now m) where
  link := ported_link ..
  carries m' hm' hc := hc.ported (fun h => hm (h.symm.trans hm')) now
  probing h := by
    unfold Engine.ported
    split
    · obtain ⟨hqueue, hout⟩ := Bool.or_eq_false_iff.mp h
      refine Bool.or_eq_false_iff.mpr ⟨?_, hout⟩
      exact List.any_eq_false.mpr fun q hq => List.any_eq_false.mp hqueue q (List.mem_of_mem_filter hq)
    · refine serve_probing (join_probing ((endMessages (fun m' hm' => ?_) e).probing h) ?_ _ _) now
      · exact Bool.eq_false_iff.mpr fun hn => hm ((notificationFor_far hn).symm.trans hm')
      · rintro rfl
        exact hm rfl

end Engine.Passes

/-- Port messages come and go on the links. -/
def State.Passes (s t : State) : Prop := ∀ j, (s.engine j).Passes (t.engine j)

namespace State.Passes

theorem of_same (h : t.engines = s.engines) : s.Passes t := fun j => engine_congr h j ▸ .refl _

theorem refl (s : State) : s.Passes s := of_same rfl

theorem trans (h : s.Passes t) (h' : t.Passes u) : s.Passes u := fun j => (h j).trans (h' j)

theorem foldl {α : Type} {f : State → α → State} (hf : ∀ (s : State) a, s.Passes (f s a)) :
    ∀ (l : List α) (s : State), s.Passes (l.foldl f s)
  | [], s => refl s
  | a :: l, s => (hf s a).trans (foldl hf l (f s a))

theorem modEngine {f : Engine → Engine} (hf : ∀ e : Engine, e.Passes (f e)) (s : State) (i : SlotId) :
    s.Passes (s.modEngine i f) := fun j => by
  by_cases hj : j = i
  · rw [hj, modEngine_engine_self]
    exact hf _
  · rw [modEngine_engine_ne _ _ _ _ hj]
    exact .refl _

theorem placePort {m : Msg} (hm : m.far ≠ none) (s : State) (i : SlotId) : s.Passes (Machine.placePort i m s) :=
  placePort_eq m s ▸ modEngine (Engine.Passes.ported s.time hm) s i

theorem cutOff (s : State) (p : PortId) : s.Passes (s.cutOff p) := by
  have ends : ∀ k : Nat, ∀ e : Engine, e.Passes (e.endMessages (Msg.handshakeFor (some k))) := fun k e =>
    .endMessages (f := Msg.handshakeFor (some k)) (fun m hm => Bool.eq_false_iff.mpr fun h => by
      have far : m.far = some k := handshakeFor_far h
      rw [hm] at far
      exact nomatch far) e
  exact ((modEngine (ends _) s _).trans (modEngine (ends _) _ _)).trans (of_same rfl)

theorem notified {m : Msg} (hm : m.far ≠ none) (s : State) (i : SlotId) (loss : Option SlotId) :
    s.Passes (s.notified i m loss) := by
  unfold State.notified
  split
  · exact placePort hm s i
  · exact refl s

theorem isolatePort (s : State) (p : PortId) (loss : Option SlotId) (notice : Bool) :
    s.Passes (Machine.isolatePort p loss notice s) := by
  rw [isolatePort_eq]
  split
  · exact refl s
  · have quiet := ((cutOff s p).trans (notified (m := .drop p.node) nofun _ (hubSlot p) loss)).trans
      (notified (m := .pathLost p.hub) nofun _ (nodeSlot p) loss)
    dsimp only
    split
    · exact quiet.trans (of_same (by simp))
    · exact quiet

theorem offerTest (s : State) (p : PortId) : s.Passes (Machine.offerTest p s) := by
  unfold Machine.offerTest
  split
  · exact (of_same (t := s.modPort p _) rfl).trans (placePort (m := .admitNode p.node) nofun _ _)
  · exact refl s

theorem isolateSlot (s : State) (i : SlotId) : s.Passes (Machine.isolateSlot i s) :=
  (foldl (fun s p => isolatePort s p (some i) true) _ s).trans (foldl (fun s p => offerTest s p) _ _)

end State.Passes

/-! ### The steps of other slots -/

/-- A step on another slot: what it keeps of slot `i`. -/
structure State.Beside (s : State) (i : SlotId) (t : State) : Prop where
  onward : s.Onward t
  slot : t.slot i = s.slot i
  pwr : t.pwr i = s.pwr i
  claim : t.alloc.claims[i] = s.alloc.claims[i]
  engine : (s.engine i).Passes (t.engine i)

namespace State.Beside

theorem refl (s : State) (i : SlotId) : s.Beside i s := ⟨.refl s, rfl, rfl, rfl, .refl _⟩

theorem trans (h : s.Beside i t) (h' : t.Beside i u) : s.Beside i u where
  onward := h.onward.trans h'.onward
  slot := h'.slot.trans h.slot
  pwr := h'.pwr.trans h.pwr
  claim := h'.claim.trans h.claim
  engine := h.engine.trans h'.engine

/-- The turn of slot `i` in a walk over the slots: it finds the slot as it stood, and leaves it as it will stand. -/
theorem foldl_turn {f : State → SlotId → State} {K : State → Prop} (hf : ∀ (s : State) j i, j ≠ i → s.Beside i (f s j))
    (hK : ∀ (s : State) j, K s → K (f s j)) : ∀ (l : List SlotId) (s : State), l.Nodup → i ∈ l → K s →
    ∃ v, K v ∧ s.Beside i v ∧ (f v i).Beside i (l.foldl f s)
  | [], _, _, hi, _ => absurd hi List.not_mem_nil
  | k :: l, s, hnodup, hi, hs => by
    obtain ⟨hk, hrest⟩ := List.nodup_cons.mp hnodup
    have rest : ∀ (l : List SlotId) (s : State), i ∉ l → s.Beside i (l.foldl f s) := fun l => by
      induction l with
      | nil => exact fun s _ => refl s i
      | cons k l ih =>
        exact fun s hi => (hf s k i fun h => hi (h ▸ List.mem_cons_self)).trans
          (ih (f s k) fun h => hi (List.mem_cons_of_mem _ h))
    by_cases hik : i = k
    · subst hik
      exact ⟨s, hs, refl s i, rest l _ hk⟩
    · obtain ⟨v, hv, before, after⟩ := foldl_turn hf hK l (f s k) hrest ((List.mem_cons.mp hi).resolve_left hik) (hK s k hs)
      exact ⟨v, hv, (hf s k i fun h => hik h.symm).trans before, after⟩

theorem of_slots (h : s.Onward t) (hslot : t.slot i = s.slot i) (hpower : t.power = s.power) (halloc : t.alloc = s.alloc)
    (hengine : t.engine i = s.engine i) : s.Beside i t :=
  ⟨h, hslot, pwr_congr hpower i, by rw [halloc], hengine ▸ .refl _⟩

theorem restartMove (s : State) (h : j ≠ i) : s.Beside i (Machine.restartMove s j) := by
  have moved : ∀ st, s.Beside i (changeState j st .restart none s) := fun st =>
    .of_slots (.changeState s j st .restart none) (changeState_slot_ne _ _ _ _ _ h.symm) (by simp) (by simp)
      (changeState_engine_ne _ _ _ _ _ h.symm)
  have reset : ∀ (v : State) g, v.Beside i (v.modSlot j g) := fun v g =>
    .of_slots (.modSlot v j g) (modSlot_slot_ne _ _ _ _ h.symm) rfl rfl rfl
  unfold Machine.restartMove
  split
  · refine ((moved .vacant).trans (reset _ _)).trans (.of_slots (.clearDeclined _ j) ?_ ?_ ?_ ?_)
    all_goals simp
  · exact moved _
  case h_11 => exact reset s _
  case h_3 | h_4 | h_5 | h_6 | h_7 | h_8 | h_9 | h_10 => exact moved _
  all_goals exact refl s i

theorem restartLink (s : State) (h : j ≠ i) : s.Beside i (Machine.restartLink s j) := by
  refine .of_slots (.restartLink s j) ?_ ?_ ?_ ?_
  all_goals
    unfold Machine.restartLink
    dsimp only
    split
  all_goals simp [h.symm]

theorem restartSurvey (s : State) (h : j ≠ i) : s.Beside i (Machine.restartSurvey s j) := by
  refine .of_slots (.restartSurvey s j) ?_ ?_ ?_ ?_
  all_goals
    unfold Machine.restartSurvey surveyBegin
    split
  all_goals simp [h.symm]

theorem arrival (s : State) (h : j ≠ i) : s.Beside i (Machine.arrival j s) := by
  refine .of_slots (.arrival s j) ?_ ?_ ?_ ?_
  all_goals
    unfold Machine.arrival
    split
  all_goals simp [h.symm]

theorem presenceChange (s : State) (h : j ≠ i) : s.Beside i (Machine.presenceChange j .none s) := by
  unfold Machine.presenceChange
  dsimp only
  split
  · exact arrival s h
  · rw [if_neg fun hn => absurd hn.1 nofun]
    exact refl s i

theorem restartSample (s : State) (h : j ≠ i) : s.Beside i (Machine.restartSample s j) := by
  unfold Machine.restartSample
  split
  · have sampled : ∀ g, s.Beside i (s.modSlot j g) := fun g =>
      .of_slots (.modSlot s j g) (modSlot_slot_ne _ _ _ _ h.symm) rfl rfl rfl
    exact (sampled _).trans (presenceChange _ h)
  · exact refl s i

theorem powerOff (s : State) (h : j ≠ i) : s.Beside i (Machine.powerOff j s) := by
  have ramp : (rampEnded j s).pwr i = s.pwr i ∧ (rampEnded j s).alloc.claims[i] = s.alloc.claims[i] := by
    unfold rampEnded
    dsimp only
    split
    · split
      · exact ⟨rfl, rfl⟩
      · exact ⟨rfl, rfl⟩
    · exact ⟨rfl, rfl⟩
  refine ⟨.powerOff s j, by simp, ?_, ?_, by simpa using Engine.Passes.refl _⟩
  all_goals
    unfold Machine.powerOff
    split
  · rw [modPower_pwr_ne _ _ _ _ h.symm]
    split
    · exact ramp.1
    · rfl
  · rfl
  · split
    · exact ramp.2
    · rfl
  · rfl

theorem isolateSlot (s : State) (i j : SlotId) : s.Beside i (Machine.isolateSlot j s) := by
  have moves : s.Moves (· ∈ slotPorts j) (Machine.isolateSlot j s) := .isolateSlot s fun _ h => h
  exact ⟨.isolateSlot s j, slot_congr moves.slots i, pwr_congr moves.power i, by rw [moves.alloc], State.Passes.isolateSlot s j i⟩

theorem returnClaim (s : State) (h : j ≠ i) : s.Beside i (Machine.returnClaim j s) := by
  refine ⟨.returnClaim s j, returnClaim_slot_ne _ _ h.symm, by simp, ?_, by simpa using Engine.Passes.refl _⟩
  unfold Machine.returnClaim
  dsimp only
  split
  · rfl
  · exact Vector.getElem_set_ne j.isLt i.isLt fun hv => h (Fin.ext hv)

theorem finishActiveIf (s : State) (k : OrderKind) (o : OrderOutcome) (x : Option FaultCause) (h : j ≠ i) :
    s.Beside i (Machine.finishActiveIf k j o x [] s) := by
  refine .of_slots (.finishActiveIf s k j o x []) ?_ (by simp) (by simp) (by simp)
  unfold Machine.finishActiveIf
  split
  · exact finishActive_slot_ne _ _ _ _ _ h.symm
  · rfl

/-- The removal of power at another slot. -/
theorem faultRemove (s : State) (cause : FaultCause) (h : j ≠ i) : s.Beside i (Machine.faultRemove j cause s) := by
  have entered : s.Beside i (changeStateOwn j .faulted .fault s) :=
    .of_slots (.changeStateOwn s j _ _) (changeStateOwn_slot_ne _ _ _ _ h.symm) (by simp) (by simp)
      (changeStateOwn_engine_ne _ _ _ _ h.symm)
  have lost := ((entered.trans (powerOff _ h)).trans (isolateSlot _ i j)).trans (returnClaim _ h)
  have faulted : s.Beside i (s.faulted j) := by
    unfold State.faulted
    dsimp only
    split
    · exact lost
    · exact lost.trans (.of_slots (.modEngine _ j _) rfl rfl rfl (modEngine_engine_ne _ _ _ _ h.symm))
  rw [faultRemove_eq]
  exact ((faulted.trans (finishActiveIf _ _ _ _ h)).trans (finishActiveIf _ _ _ _ h)).trans (.of_slots (.raise _ _) rfl rfl rfl rfl)

theorem restartCheck (s : State) (h : j ≠ i) : s.Beside i (Machine.restartCheck s j) := by
  unfold Machine.restartCheck
  split
  · split
    · refine .of_slots (.askProbe s j _) ?_ ?_ ?_ (askProbe_engine_ne h.symm _ _)
      all_goals simp
    · rw [raiseFault_removes (.inl rfl)]
      have told : s.Beside i (handResumed j .powerLost s) := by
        refine .of_slots (.handNotice s _) ?_ ?_ ?_ ?_
        all_goals simp
      have raised : ∀ v : State, v.Beside i (v.raised j .powerLost) := fun v =>
        .of_slots ((State.Onward.modSlot v j _).trans (.handNotice _ _)) (by simp [State.raised, h.symm])
          (by simp) (by simp) (by simp [State.raised])
      exact (told.trans (raised _)).trans (faultRemove _ _ h)
  · exact refl s i

end State.Beside

end Sys2Proof.Machine

/-! A slot's own steps at a warm restart (R147, R196, R197), and that its moves are told in the gap mask (R169, R174). -/

namespace Sys2Proof.Machine

variable {s t u v w : State} {i j : SlotId} {p q : PortId} {c : ResetCause} {f : Fixed}

/-! ### Moves are told -/

/-- A notice of slot `i` has been folded (R169). -/
def State.Told (s : State) (i : SlotId) : Prop :=
  s.journal.gapMask.getLsbD (i.val + 1) = true ∧ s.journal.gapPending = true

/-- While RUN is clear, a slot whose generation changes is marked in the gap mask. -/
structure State.Tells (s : State) (i : SlotId) (t : State) : Prop where
  onward : s.Onward t
  tells : s.port.run = false → (t.slot i).gen = (s.slot i).gen ∨ t.Told i

theorem State.Told.onward (h : s.Told i) (ht : s.Onward t) (hrun : s.port.run = false) : t.Told i :=
  ⟨(ht.journal hrun).marks _ h.1, (ht.journal hrun).gap h.2⟩

namespace State.Tells

theorem of_gen (h : s.Onward t) (hgen : (t.slot i).gen = (s.slot i).gen) : s.Tells i t := ⟨h, fun _ => .inl hgen⟩

theorem of_beside (h : s.Beside i t) : s.Tells i t := of_gen h.onward (by rw [h.slot])

theorem trans (h : s.Tells i t) (h' : t.Tells i u) : s.Tells i u where
  onward := h.onward.trans h'.onward
  tells hrun := by
    have trun := h.onward.run.trans hrun
    rcases h'.tells trun with hgen | htold
    · rcases h.tells hrun with hgen' | htold
      · exact .inl (hgen.trans hgen')
      · exact .inr (htold.onward h'.onward trun)
    · exact .inr htold

theorem handNotice (s : State) (n : Notice) : s.Tells i (handNotice n s) :=
  of_gen (.handNotice s n) (by simp)

/-- A state change is told. -/
theorem changeState (s : State) (i : SlotId) (st : SlotState) (d : StateDetail) (tag : Option Word16) :
    s.Tells i (Machine.changeState i st d tag s) where
  onward := .changeState s i st d tag
  tells hrun := .inr (by
    have folds := handNotice_folds (s := moveSlot i st s) (slotNotice (moveSlot i st s) i (.state d) tag) hrun
    have journal : (Machine.changeState i st d tag s).journal = _ := folds
    rw [State.Told, journal]
    refine ⟨?_, rfl⟩
    rw [BitVec.getLsbD_or, slot_mark _ rfl]
    simp)

end State.Tells

/-! ### The move of a slot -/

/-- The record of a slot after its move at the restart (R196). -/
def Slot.restarted (now : Time) (x : Slot) : Slot :=
  match x.state with
  | .seating => (x.enter now .vacant).clearBlade
  | .awaitPower => x.enter now .parked
  | .ramping | .booting | .joining | .inService | .leaving | .quiescing | .stamping | .poweringOff => x.enter now .resuming
  | .resuming => { x with agentFault := false }
  | .vacant | .surveying | .parked | .faulted => x

theorem restartMove_own (s : State) (i : SlotId) : (restartMove s i).slot i = (s.slot i).restarted s.time
    ∧ (restartMove s i).power = s.power ∧ (restartMove s i).alloc = s.alloc ∧ (restartMove s i).work = s.work
    ∧ s.Tells i (restartMove s i) := by
  have moved : ∀ st, (changeState i st .restart none s).slot i = (s.slot i).enter s.time st := fun st =>
    changeState_slot_self ..
  unfold restartMove
  split
  all_goals
    rename_i hs
    simp only [Slot.restarted, hs]
  case h_1 =>
    refine ⟨by simp, by simp, by simp, by simp, (State.Tells.changeState s i .vacant .restart none).trans (.of_gen ?_ ?_)⟩
    · exact (State.Onward.modSlot _ i _).trans (.clearDeclined _ i)
    · simp [Slot.clearBlade]
  case h_11 =>
    exact ⟨by rw [modSlot_slot_self, ← hs], rfl, rfl, rfl, .of_gen (.modSlot s i _) (by rw [modSlot_slot_self])⟩
  case h_2 | h_3 | h_4 | h_5 | h_6 | h_7 | h_8 | h_9 | h_10 =>
    exact ⟨moved _, by simp, by simp, by simp, .changeState s i _ .restart none⟩
  all_goals exact ⟨trivial, trivial, trivial, trivial, .of_gen (.refl s) rfl⟩

/-! ### The engine of a slot -/

/-- A restarted engine: its link, and a PROBE of its ALERT test, if there is one (R147). -/
theorem restartLink_own (s : State) (i : SlotId) :
    ((restartLink s i).engine i).link = (if (s.slot i).state = .vacant then .absent else .up)
    ∧ (((restartLink s i).engine i).probing = false ∨ ((restartLink s i).engine i).Carries .probe) := by
  have self : (s.modEngine i (Engine.restart s.time (s.slot i).state)).engine i =
      (s.engine i).restart s.time (s.slot i).state := modEngine_engine_self ..
  unfold restartLink
  dsimp only
  generalize s.modEngine i (Engine.restart s.time (s.slot i).state) = v at *
  have quiet : (v.engine i).probing = false := by rw [self]; rfl
  have link : (v.engine i).link = if (s.slot i).state = .vacant then .absent else .up := by rw [self]; rfl
  split
  · next hup =>
    unfold alertTest
    split
    · rw [askProbe_eq, modEngine_engine_self]
      refine ⟨by rw [probed_link, link], .inr ?_⟩
      have up : (v.engine i).link = .up := of_decide_eq_true hup
      rw [Engine.probed, if_pos ⟨up, quiet⟩]
      exact Engine.Carries.serve _ (.inl ⟨_, List.mem_append_right _ List.mem_cons_self, rfl⟩)
    · exact ⟨link, .inl quiet⟩
  · exact ⟨link, .inl quiet⟩

end Sys2Proof.Machine

/-! The check of a slot's power, its survey and its first samples at a warm restart (R196, R198). -/

namespace Sys2Proof.Machine

variable {s t u v w : State} {i j : SlotId} {p q : PortId}

/-! ### Power found lost -/

/-- The record of a slot whose power is found lost at the restart (R19, R20, R198). -/
def Slot.lost (now : Time) (x : Slot) : Slot :=
  { Slot.enter now .faulted { x with fault := some .powerLost, faultTime := now } with claim := 0 }

/-- What the check leaves of a slot whose power is lost (R198). -/
structure State.Lost (s : State) (i : SlotId) (t : State) : Prop where
  tells : s.Tells i t
  slot : t.slot i = (s.slot i).lost s.time
  pwr : t.pwr i = if (s.pwr i).switchOn then (s.pwr i).turnOff s.time else s.pwr i
  claims : t.alloc.claims[i] = 0
  ports : ∀ p, nodeSlot p = i ∨ hubSlot p = i → t.portOf p = (s.portOf p).isolate
  others : ∀ p, ¬ (nodeSlot p = i ∨ hubSlot p = i) → t.portOf p = s.portOf p
  up : s.linkUp i = true → t.linkUp i = true
  cells : CellsKept s t
  jobs : t.jobs = s.jobs ++ (if s.alloc.claims[i] = 0 then [] else [.examine]) ++ [.start i, .handle i]

theorem losePayload_others (h : ¬ (nodeSlot p = i ∨ hubSlot p = i)) (s : State) :
    (losePayload i s).portOf p = s.portOf p := by
  have moves : (powerOff i s).Moves (· ∈ slotPorts i) (isolateSlot i (powerOff i s)) := .isolateSlot _ fun _ h => h
  rw [losePayload, (returnClaim_reads ..).2.2.2.1, moves.ports p fun hp => h (mem_slotPorts.mp hp)]
  simp

theorem losePayload_onward (s : State) (i : SlotId) : s.Onward (losePayload i s) :=
  ((State.Onward.powerOff s i).trans (.isolateSlot _ i)).trans (.returnClaim _ i)

theorem losePayload_linkUp (s : State) (i j : SlotId) : (losePayload i s).linkUp j = s.linkUp j := by
  have isolate : (isolateSlot i (powerOff i s)).linkUp j = (powerOff i s).linkUp j :=
    congrArg (fun l => decide (l = LinkState.up)) (State.Passes.isolateSlot (powerOff i s) i j).link
  rw [losePayload, (returnClaim_reads ..).2.2.1, isolate, (powerOff_reads ..).2.2.1]

theorem activeKind_idle (h : (s.slot i).orders = []) : s.activeKind i = none := by
  simp only [State.activeKind, h]
  cases (s.slot i).active <;> rfl

/-- The removal of power at a slot without orders (R20). -/
theorem faultRemove_idle {cause : FaultCause} (h : (s.slot i).orders = []) : faultRemove i cause s =
    testNext i (endOwn i (losePayload i (changeStateOwn i .faulted .fault s))) := by
  have idle : s.faulted i = endOwn i (losePayload i (changeStateOwn i .faulted .fault s)) :=
    if_neg (by rw [activeKind_idle h]; exact nofun)
  have orders : ((endOwn i (losePayload i (changeStateOwn i .faulted .fault s))).slot i).orders = [] := by
    simp [losePayload, slot_congr (State.Moves.isolateSlot _ fun _ h => h).slots, h, Slot.enter]
  rw [faultRemove_eq, finishFaulted_eq, idle, activeKind_idle orders, if_neg nofun, if_neg nofun]

/-- The check finds the power of a resuming slot lost (R198). -/
theorem restartCheck_lost (hinv : Inv s) (hheld : s.held = false) (hshelf : s.alloc.shelf = [])
    (horders : (s.slot i).orders = []) (hstate : (s.slot i).state = .resuming)
    (hbad : ((s.pwr i).switchOn && (s.pinsOf i).powerGood) = false) : s.Lost i (restartCheck s i) := by
  have act : restartCheck s i = faultRemove i .powerLost ((handResumed i .powerLost s).raised i .powerLost) := by
    rw [restartCheck, if_pos hstate, if_neg (by simp [hbad]), raiseFault_removes (.inl rfl)]
  have told : s.Tells i ((handResumed i .powerLost s).raised i .powerLost) :=
    (State.Tells.handNotice s _).trans ((State.Tells.of_gen (.modSlot _ i _) (by simp)).trans (.handNotice _ _))
  have uself : ((handResumed i .powerLost s).raised i .powerLost).slot i =
      { s.slot i with fault := some .powerLost, faultTime := s.time } := by
    rw [raised_slot_self]
    simp
  have frame : ((handResumed i .powerLost s).raised i .powerLost).time = s.time
      ∧ ((handResumed i .powerLost s).raised i .powerLost).power = s.power
      ∧ ((handResumed i .powerLost s).raised i .powerLost).alloc = s.alloc
      ∧ ((handResumed i .powerLost s).raised i .powerLost).ports = s.ports
      ∧ ((handResumed i .powerLost s).raised i .powerLost).engines = s.engines
      ∧ ((handResumed i .powerLost s).raised i .powerLost).cells = s.cells
      ∧ ((handResumed i .powerLost s).raised i .powerLost).mem = s.mem
      ∧ ((handResumed i .powerLost s).raised i .powerLost).work = s.work := by simp
  rw [act, faultRemove_idle (by rw [uself]; exact horders)]
  generalize (handResumed i .powerLost s).raised i .powerLost = u at *
  obtain ⟨utime, upower, ualloc, uports, uengines, ucells, umem, uwork⟩ := frame
  have moved := State.Tells.changeState u i .faulted .fault (u.activeTag i)
  have vself : (changeStateOwn i .faulted .fault u).slot i = (u.slot i).enter u.time .faulted :=
    changeStateOwn_slot_self ..
  have vframe : (changeStateOwn i .faulted .fault u).time = s.time
      ∧ (changeStateOwn i .faulted .fault u).power = s.power
      ∧ (changeStateOwn i .faulted .fault u).alloc = s.alloc
      ∧ (changeStateOwn i .faulted .fault u).ports = s.ports
      ∧ (changeStateOwn i .faulted .fault u).cells = s.cells
      ∧ (changeStateOwn i .faulted .fault u).mem = s.mem
      ∧ (changeStateOwn i .faulted .fault u).work = s.work := by
    simp [utime, upower, ualloc, uports, ucells, umem, uwork]
  have vup : (changeStateOwn i .faulted .fault u).linkUp i = s.linkUp i := by simp [linkUp_congr uengines]
  replace moved : u.Tells i (changeStateOwn i .faulted .fault u) := moved
  generalize changeStateOwn i .faulted .fault u = v at *
  obtain ⟨vtime, vpower, valloc, vports, vcells, vmem, vwork⟩ := vframe
  have loss : v.LosesPayload i (losePayload i v) := losePayload_leaves (by rw [vself]; rfl)
    (by rw [valloc, Allocator.timingAtFront, hshelf]) (fun p => by rw [portOf_congr vports]; exact hinv.ports p)
    (by rw [pwr_congr vpower]; exact hheld ▸ hinv.power i) (by rw [valloc]; exact hinv.alloc)
  have lost := State.Tells.of_gen (i := i) (losePayload_onward v i) (by rw [loss.slot])
  have others : ∀ p, ¬ (nodeSlot p = i ∨ hubSlot p = i) → (losePayload i v).portOf p = v.portOf p := fun p hp =>
    losePayload_others hp v
  have link := losePayload_linkUp v i i
  generalize losePayload i v = x at *
  have last : x.Tells i (testNext i (endOwn i x)) :=
    (State.Tells.of_gen (.modEngine x i _) (by simp)).trans (.of_gen (.raise _ _) rfl)
  refine ⟨told.trans (moved.trans (lost.trans last)), ?_, ?_, ?_, fun p hp => ?_, fun p hp => ?_, fun hup => ?_, ?_, ?_⟩
  · simp only [testNext, raise_slot, endOwn_reads, loss.slot, vself, uself, utime, Slot.lost]
  · simp only [testNext, raise_pwr, endOwn_reads]
    cases hon : (s.pwr i).switchOn
    · rw [loss.stays (by rw [pwr_congr vpower]; exact hon), pwr_congr vpower, if_neg nofun]
    · rw [loss.opened (by rw [pwr_congr vpower]; exact hon), pwr_congr vpower, vtime, if_pos rfl]
  · simpa [testNext] using loss.claims
  · simp [testNext, loss.ports p hp, portOf_congr vports]
  · simp [testNext, others p hp, portOf_congr vports]
  · simpa [testNext, link, vup] using hup
  · simp [testNext, CellsKept, loss.cells, loss.mem, vcells, vmem]
  · simp only [testNext, raise_jobs]
    rw [jobs_congr (s := x) (by simp), loss.jobs, valloc, jobs_congr vwork]

/-! ### Steps that write slots and engines alone -/

/-- A step that writes neither ports nor cells, neither power nor allocator, and brings nothing. -/
structure State.Steady (s t : State) : Prop where
  power : t.power = s.power
  alloc : t.alloc = s.alloc
  ports : t.ports = s.ports
  cells : CellsKept s t
  work : t.work = s.work

namespace State.Steady

theorem refl (s : State) : s.Steady s := ⟨rfl, rfl, rfl, .refl s, rfl⟩

theorem trans (h : s.Steady t) (h' : t.Steady u) : s.Steady u :=
  ⟨h'.power.trans h.power, h'.alloc.trans h.alloc, h'.ports.trans h.ports, h.cells.trans h'.cells, h'.work.trans h.work⟩

theorem foldl {α : Type} {f : State → α → State} (hf : ∀ (s : State) a, s.Steady (f s a)) :
    ∀ (l : List α) (s : State), s.Steady (l.foldl f s)
  | [], s => refl s
  | a :: l, s => (hf s a).trans (foldl hf l (f s a))

theorem askProbe (b : Placer) (s : State) (i : SlotId) : s.Steady (Machine.askProbe i b s) := by
  refine ⟨?_, ?_, ?_, ⟨?_, ?_⟩, ?_⟩
  all_goals simp

theorem restartLink (s : State) (i : SlotId) : s.Steady (Machine.restartLink s i) := by
  unfold Machine.restartLink alertTest
  dsimp only
  split
  · split
    · exact (⟨rfl, rfl, rfl, ⟨rfl, rfl⟩, rfl⟩ : s.Steady (s.modEngine i _)).trans (askProbe _ _ i)
    · exact ⟨rfl, rfl, rfl, ⟨rfl, rfl⟩, rfl⟩
  · exact ⟨rfl, rfl, rfl, ⟨rfl, rfl⟩, rfl⟩

theorem restartSurvey (s : State) (i : SlotId) : s.Steady (Machine.restartSurvey s i) := by
  unfold Machine.restartSurvey surveyBegin
  split
  · refine ⟨?_, ?_, ?_, ⟨?_, ?_⟩, ?_⟩
    all_goals simp
  · exact refl s

theorem arrival (s : State) (i : SlotId) : s.Steady (Machine.arrival i s) := by
  unfold Machine.arrival
  split
  · refine ⟨?_, ?_, ?_, ⟨?_, ?_⟩, ?_⟩
    all_goals simp
  · exact refl s

theorem restartSample (s : State) (i : SlotId) : s.Steady (Machine.restartSample s i) := by
  unfold Machine.restartSample firstSample presenceChange
  dsimp only
  split
  · have sampled : ∀ g, s.Steady (s.modSlot i g) := fun g => ⟨rfl, rfl, rfl, ⟨rfl, rfl⟩, rfl⟩
    split
    · exact (sampled _).trans (arrival _ i)
    · rw [if_neg fun h => absurd h.1 nofun]
      exact sampled _
  · exact refl s

end State.Steady

/-! ### The other branches -/

/-- A slot that is not resuming is not checked. -/
theorem restartCheck_else (h : (s.slot i).state ≠ .resuming) : restartCheck s i = s := if_neg h

/-- The check finds the power of a resuming slot there and asks for a PROBE (R198). -/
theorem restartCheck_probes (hstate : (s.slot i).state = .resuming)
    (hgood : ((s.pwr i).switchOn && (s.pinsOf i).powerGood) = true) : restartCheck s i = askProbe i .sequencer s := by
  rw [restartCheck, if_pos hstate, if_pos hgood]

theorem carries_probe (hup : s.linkUp i = true)
    (hprobe : (s.engine i).probing = false ∨ (s.engine i).Carries .probe) (b : Placer) :
    ((askProbe i b s).engine i).Carries .probe := by
  rcases hprobe with hquiet | hcarries
  · have up : (s.engine i).link = .up := of_decide_eq_true hup
    rw [askProbe_eq, modEngine_engine_self, Engine.probed, if_pos ⟨up, hquiet⟩]
    exact Engine.Carries.serve _ (.inl ⟨_, List.mem_append_right _ List.mem_cons_self, rfl⟩)
  · exact carries_askProbe hcarries b

theorem restartSurvey_else (h : (s.slot i).state ≠ .surveying) : restartSurvey s i = s := if_neg h

/-- A slot left in SURVEYING begins its survey afresh (R196). -/
theorem restartSurvey_begins (hstate : (s.slot i).state = .surveying) (hup : s.linkUp i = true) :
    (restartSurvey s i).slot i = { (s.slot i).clearIdentity with survey := some ⟨.page0, none, []⟩ }
    ∧ (restartSurvey s i).linkUp i = true ∧ ((restartSurvey s i).engine i).Carries (.identPage 0) := by
  rw [restartSurvey, if_pos hstate]
  have begins := surveyBegin_leaves (s := s.modSlot i Slot.clearIdentity) (i := i) (by simpa using hup)
  rwa [modSlot_slot_self] at begins

theorem restartSample_else (h : (s.slot i).state ≠ .vacant) : restartSample s i = s := if_neg h

/-- The record of a slot that takes its first samples (R191, R196). -/
def Slot.sampled (now : Time) (pins : SlotPins) (x : Slot) : Slot :=
  let y := { x with long := pins.long, short := pins.short, handleOpen := pins.handleOpen }
  if pins.long && pins.short then y.seats now else y

/-- A slot left in VACANT takes its first samples (R196). -/
theorem restartSample_samples (hstate : (s.slot i).state = .vacant) :
    (restartSample s i).slot i = (s.slot i).sampled s.time (s.pinsOf i)
    ∧ ((restartSample s i).engine i).link = (s.engine i).link ∧ s.Tells i (restartSample s i) := by
  let v := s.modSlot i fun x =>
    { x with long := (s.pinsOf i).long, short := (s.pinsOf i).short, handleOpen := (s.pinsOf i).handleOpen }
  have self : v.slot i = { s.slot i with
      long := (s.pinsOf i).long, short := (s.pinsOf i).short, handleOpen := (s.pinsOf i).handleOpen } :=
    modSlot_slot_self s i fun x =>
      { x with long := (s.pinsOf i).long, short := (s.pinsOf i).short, handleOpen := (s.pinsOf i).handleOpen }
  have sampled : s.Tells i v := .of_gen (.modSlot s i _) (by rw [self])
  have act : restartSample s i = presenceChange i .none v := by rw [restartSample, if_pos hstate]; rfl
  have time : v.time = s.time := rfl
  have engine : (v.engine i).link = (s.engine i).link := rfl
  have presence : (v.slot i).presence = .both ↔ ((s.pinsOf i).long && (s.pinsOf i).short) = true := by
    rw [self, Slot.presence]
    cases (s.pinsOf i).long <;> cases (s.pinsOf i).short <;> simp
  rw [act]
  generalize v = w at *
  unfold presenceChange
  dsimp only
  split
  · next hboth =>
    have seated := presence.mp hboth.1
    rw [arrival, if_pos (by rw [self]; exact hstate)]
    refine ⟨?_, by simp [engine], sampled.trans ((State.Tells.changeState w i _ _ _).trans (.of_gen (.modSlot _ i _) (by simp)))⟩
    rw [modSlot_slot_self, changeStateOwn_slot_self, self, time, Slot.sampled]
    simp only [seated, if_true]
    rfl
  · next hnot =>
    have absent : ¬((s.pinsOf i).long && (s.pinsOf i).short) = true := fun h => hnot ⟨presence.mpr h, nofun⟩
    rw [if_neg fun h => absurd h.1 nofun]
    refine ⟨?_, engine, sampled⟩
    rw [self, Slot.sampled, if_neg absent]

end Sys2Proof.Machine

/-! A slot through the stages of a warm restart (R194 to R198). -/

namespace Sys2Proof.Machine

variable {s t u v w b : State} {i j : SlotId} {p q : PortId} {c : ResetCause} {x : Slot} {r : Power} {n : Nat}

/-! ### The stages -/

/-- The work let go and the slots moved (R194 to R196). -/
def State.warmMoved (s : State) (c : ResetCause) : State := allSlots.foldl restartMove (restartBlocks c s)

/-- The Port Map rebuilt (R124). -/
def State.warmRebuilt (s : State) (c : ResetCause) : State := allPorts.foldl rebuildPort (s.warmMoved c)

/-- The detached orders of the slots finished (R195). -/
def State.warmAbandoned (s : State) (c : ResetCause) : State :=
  allSlots.foldl (abandonSlot (s.slots.map (·.orders))) (s.warmRebuilt c)

/-- The detached orders of the shelf finished too (R72). -/
def State.warmFreed (s : State) (c : ResetCause) : State := abandonShelf s.alloc.shelf (s.warmAbandoned c)

/-- The engines restarted (R147). -/
def State.warmLinked (s : State) (c : ResetCause) : State := allSlots.foldl restartLink (s.warmFreed c)

/-- The resuming slots checked (R198). -/
def State.warmChecked (s : State) (c : ResetCause) : State := allSlots.foldl restartCheck (s.warmLinked c)

/-- The surveys begun afresh (R196). -/
def State.warmSurveyed (s : State) (c : ResetCause) : State := allSlots.foldl restartSurvey (s.warmChecked c)

theorem warmRestart_eq (c : ResetCause) (s : State) :
    warmRestart c s = allSlots.foldl restartSample (s.warmSurveyed c) := rfl

theorem allSlots_nodup : allSlots.Nodup := by decide

theorem allPorts_nodup : allPorts.Nodup := by decide

theorem mem_allPorts : ∀ p : PortId, p ∈ allPorts
  | ⟨node, hub⟩ => by revert node hub; decide

/-! ### What a stage leaves of a slot -/

/-- Slot `i` in `u`, some way after `b`. -/
structure State.At (b u : State) (i : SlotId) (x : Slot) (r : Power) (n : Nat) : Prop where
  tells : b.Tells i u
  slot : u.slot i = x
  pwr : u.pwr i = r
  claim : u.alloc.claims[i] = n

namespace State.At

theorem beside (h : b.At u i x r n) (hv : u.Beside i v) : b.At v i x r n :=
  ⟨h.tells.trans (.of_beside hv), hv.slot.trans h.slot, hv.pwr.trans h.pwr, hv.claim.trans h.claim⟩

theorem steady (h : b.At u i x r n) (ht : u.Tells i v) (hv : u.Steady v) {y : Slot} (hslot : v.slot i = y) : b.At v i y r n :=
  ⟨h.tells.trans ht, hslot, (pwr_congr hv.power i).trans h.pwr, by rw [hv.alloc, h.claim]⟩

end State.At

theorem State.Beside.foldl {α : Type} {f : State → α → State} (hf : ∀ (s : State) a, s.Beside i (f s a)) :
    ∀ (l : List α) (s : State), s.Beside i (l.foldl f s)
  | [], s => refl s i
  | a :: l, s => (hf s a).trans (foldl hf l (f s a))

/-- The turn of slot `i` in a walk over all slots. -/
theorem State.Beside.turn (i : SlotId) {f : State → SlotId → State} (hf : ∀ (s : State) j i, j ≠ i → s.Beside i (f s j))
    (s : State) : ∃ v, s.Beside i v ∧ (f v i).Beside i (allSlots.foldl f s) := by
  obtain ⟨v, -, turn⟩ := foldl_turn (K := fun _ => True) hf (fun _ _ _ => trivial) allSlots s allSlots_nodup
    (mem_allSlots i) trivial
  exact ⟨v, turn⟩

theorem State.Beside.rebuildPort (s : State) (p : PortId) : s.Beside i (Machine.rebuildPort s p) :=
  .of_slots (.rebuildPort s p) rfl rfl rfl rfl

theorem State.Beside.abandonSlot (l : Vector (List OrderEntry) 16) (s : State) (j : SlotId) :
    s.Beside i (Machine.abandonSlot l s j) := by
  refine .of_slots (.finishEntries j _ _ s) ?_ ?_ ?_ ?_
  all_goals simp [Machine.abandonSlot]

theorem State.Beside.abandonShelf : ∀ (l : List OrderEntry) (s : State), s.Beside i (Machine.abandonShelf l s)
  | [], s => refl s i
  | e :: l, s => by
    refine State.Beside.trans (.of_slots (.writeResult s _ _ _) ?_ ?_ ?_ ?_) (abandonShelf l _)
    all_goals simp

/-- The record of a slot after the moves. -/
def State.movedSlot (s : State) (i : SlotId) : Slot := (s.slot i).letGo.restarted s.time

/-- A slot's power after the blocks' own part. -/
def State.restartedPower (s : State) (i : SlotId) : Power :=
  (s.pwr i).restart s.time (s.slot i).state (s.pinsOf i).powerGood

theorem warmMoved_at (c : ResetCause) (s : State) (i : SlotId) : (restartBlocks c s).At (s.warmMoved c) i
    (s.movedSlot i) (s.restartedPower i) s.alloc.claims[i] := by
  obtain ⟨v, before, after⟩ := State.Beside.turn i (f := restartMove) (fun s _ _ h => .restartMove s h) (restartBlocks c s)
  obtain ⟨slot, power, alloc, -, tells⟩ := restartMove_own v i
  have start : (restartBlocks c s).At v i (s.slot i).letGo (s.restartedPower i) s.alloc.claims[i] :=
    State.At.beside ⟨.of_gen (.refl _) rfl, restartBlocks_slot c s i, restartBlocks_pwr c s i, rfl⟩ before
  have moved : (restartBlocks c s).At (restartMove v i) i (s.movedSlot i) (s.restartedPower i) s.alloc.claims[i] :=
    ⟨start.tells.trans tells, by rw [slot, start.slot, start.tells.onward.time]; rfl, (pwr_congr power i).trans start.pwr,
      by rw [alloc, start.claim]⟩
  exact moved.beside after

theorem warmFreed_at (c : ResetCause) (s : State) (i : SlotId) : (restartBlocks c s).At (s.warmFreed c) i
    (s.movedSlot i) (s.restartedPower i) s.alloc.claims[i] :=
  (((warmMoved_at c s i).beside (.foldl (fun s p => .rebuildPort s p) _ _)).beside
    (.foldl (fun s j => .abandonSlot _ s j) _ _)).beside (.abandonShelf _ _)

/-! ### The engines -/

/-- A restarted engine (R147). -/
structure Engine.Restarted (e : Engine) (absent : Bool) : Prop where
  link : e.link = if absent then .absent else .up
  probe : e.probing = false ∨ e.Carries .probe

theorem Engine.Restarted.passes {e e' : Engine} {a : Bool} (h : e.Restarted a) (he : e.Passes e') : e'.Restarted a :=
  ⟨he.link.trans h.link, h.probe.imp he.probing (he.carries .probe rfl)⟩

theorem warmLinked_at (c : ResetCause) (s : State) (i : SlotId) : (restartBlocks c s).At (s.warmLinked c) i
      (s.movedSlot i) (s.restartedPower i) s.alloc.claims[i]
    ∧ ((s.warmLinked c).engine i).Restarted (decide ((s.movedSlot i).state = .vacant)) := by
  obtain ⟨v, before, after⟩ := State.Beside.turn i (f := restartLink) (fun s _ _ h => .restartLink s h) (s.warmFreed c)
  have start := (warmFreed_at c s i).beside before
  have steady := State.Steady.restartLink v i
  have slot : (restartLink v i).slot i = v.slot i := by
    unfold restartLink
    dsimp only
    split
    all_goals simp
  obtain ⟨link, probe⟩ := restartLink_own v i
  rw [start.slot] at link slot
  have linked : ((restartLink v i).engine i).Restarted (decide ((s.movedSlot i).state = .vacant)) :=
    ⟨by simpa using link, probe⟩
  exact ⟨(start.steady (.of_gen (.restartLink v i) (by rw [slot, start.slot])) steady slot).beside after,
    linked.passes after.engine⟩

/-! ### The check, the survey and the samples -/

/-- The power of slot `i` is found there at the restart (R198). -/
def State.powered (s : State) (i : SlotId) : Bool := (s.restartedPower i).switchOn && (s.pinsOf i).powerGood

theorem movedSlot_orders (s : State) (i : SlotId) : (s.movedSlot i).orders = [] := by
  unfold State.movedSlot Slot.restarted
  split
  all_goals rfl

theorem kept_warmLinked (h : Inv s) (c : ResetCause) : Kept (restartBlocks c s).fixed (s.warmLinked c) := by
  unfold State.warmLinked State.warmFreed State.warmAbandoned State.warmRebuilt State.warmMoved
  refine Kept.foldl (fun _ _ h => h.restartLink) _ _ (Kept.abandonShelf ?_)
  refine Kept.foldl (fun _ _ h => h.abandonSlot) _ _ (Kept.foldl (fun _ _ h => h.rebuildPort) _ _ ?_)
  exact Kept.foldl (fun _ _ h => h.restartMove) _ _ (.refl (inv_restartBlocks h))

/-- A slot at the restart's check of its power (R198). -/
theorem warmCheck_turn (h : Inv s) (c : ResetCause) (i : SlotId) : ∃ v, Kept (restartBlocks c s).fixed v
    ∧ (s.warmLinked c).Beside i v ∧ (restartCheck v i).Beside i (s.warmChecked c)
    ∧ (restartBlocks c s).At v i (s.movedSlot i) (s.restartedPower i) s.alloc.claims[i]
    ∧ (v.engine i).Restarted (decide ((s.movedSlot i).state = .vacant))
    ∧ ((v.pwr i).switchOn && (v.pinsOf i).powerGood) = s.powered i
    ∧ (v.slot i).orders = [] ∧ v.time = s.time ∧ v.alloc.shelf = [] ∧ v.held = false := by
  obtain ⟨v, kept, before, after⟩ := State.Beside.foldl_turn (i := i) (f := restartCheck)
    (K := fun v => Kept (restartBlocks c s).fixed v) (fun s _ _ h => .restartCheck s h) (fun _ _ h => h.restartCheck)
    allSlots (s.warmLinked c) allSlots_nodup (mem_allSlots i) (kept_warmLinked h c)
  obtain ⟨linked, engine⟩ := warmLinked_at c s i
  have here := linked.beside before
  have onward := here.tells.onward
  have pins : v.pinsOf i = s.pinsOf i := by rw [State.pinsOf, onward.pins]; rfl
  exact ⟨v, kept, before, after, here, engine.passes before.engine, by rw [here.pwr, pins]; rfl,
    by rw [here.slot, movedSlot_orders], onward.time, onward.lists.2, congrArg Fixed.held kept.fixed⟩

/-- A slot whose power is lost, after the checks. -/
theorem warmChecked_lost (h : Inv s) (c : ResetCause) (hstate : (s.movedSlot i).state = .resuming) (hbad : s.powered i = false) :
    (restartBlocks c s).At (s.warmChecked c) i ((s.movedSlot i).lost s.time)
      (if (s.restartedPower i).switchOn then (s.restartedPower i).turnOff s.time else s.restartedPower i) 0
    ∧ (s.warmChecked c).linkUp i = true := by
  obtain ⟨v, kept, -, after, here, engine, good, orders, time, shelf, held⟩ := warmCheck_turn h c i
  have lost := restartCheck_lost kept.inv held shelf orders (by rw [here.slot, hstate]) (good.trans hbad)
  have up : v.linkUp i = true := decide_eq_true (by simpa [hstate] using engine.link)
  have link : (s.warmChecked c).linkUp i = (restartCheck v i).linkUp i :=
    congrArg (fun l => decide (l = LinkState.up)) after.engine.link
  exact ⟨State.At.beside ⟨here.tells.trans lost.tells, by rw [lost.slot, here.slot, time],
    by rw [lost.pwr, here.pwr, time], lost.claims⟩ after, link.trans (lost.up up)⟩

/-- A resuming slot whose power is there, after the checks. -/
theorem warmChecked_probes (h : Inv s) (c : ResetCause) (hstate : (s.movedSlot i).state = .resuming)
    (hgood : s.powered i = true) : (restartBlocks c s).At (s.warmChecked c) i (s.movedSlot i) (s.restartedPower i)
      s.alloc.claims[i]
    ∧ (s.warmChecked c).linkUp i = true ∧ ((s.warmChecked c).engine i).Carries .probe := by
  obtain ⟨v, -, -, after, here, engine, good, -, -, -, -⟩ := warmCheck_turn h c i
  have act := restartCheck_probes (by rw [here.slot, hstate]) (good.trans hgood)
  have up : v.linkUp i = true := decide_eq_true (by simpa [hstate] using engine.link)
  rw [act] at after
  have link : (s.warmChecked c).linkUp i = (askProbe i .sequencer v).linkUp i :=
    congrArg (fun l => decide (l = LinkState.up)) after.engine.link
  refine ⟨(here.steady (.of_gen (.askProbe v i _) (by simp)) (.askProbe _ v i) (by simp [here.slot])).beside after,
    link.trans (by simpa using up), after.engine.carries .probe rfl (carries_probe up engine.probe _)⟩

/-- A slot that is not resuming passes the checks. -/
theorem warmChecked_else (h : Inv s) (c : ResetCause) (hstate : (s.movedSlot i).state ≠ .resuming) :
    (restartBlocks c s).At (s.warmChecked c) i (s.movedSlot i) (s.restartedPower i) s.alloc.claims[i]
    ∧ ((s.warmChecked c).engine i).Restarted (decide ((s.movedSlot i).state = .vacant)) := by
  obtain ⟨v, -, -, after, here, engine, -, -, -, -, -⟩ := warmCheck_turn h c i
  rw [restartCheck_else (by rw [here.slot]; exact hstate)] at after
  exact ⟨here.beside after, engine.passes after.engine⟩

/-! ### What the restart leaves of a slot -/

/-- The turn of a slot that the survey step does not begin a survey of. -/
theorem warmSurveyed_besides (c : ResetCause) (h : ((s.warmChecked c).slot i).state ≠ .surveying) :
    (s.warmChecked c).Beside i (s.warmSurveyed c) := by
  obtain ⟨v, before, after⟩ := State.Beside.turn i (f := restartSurvey) (fun s _ _ h => .restartSurvey s h) (s.warmChecked c)
  rw [restartSurvey_else (by rw [before.slot]; exact h)] at after
  exact before.trans after

/-- The turn of a slot that takes no samples. -/
theorem warmRestart_besides (c : ResetCause) (h : ((s.warmSurveyed c).slot i).state ≠ .vacant) :
    (s.warmSurveyed c).Beside i (warmRestart c s) := by
  obtain ⟨v, before, after⟩ := State.Beside.turn i (f := restartSample) (fun s _ _ h => .restartSample s h) (s.warmSurveyed c)
  rw [restartSample_else (by rw [before.slot]; exact h), ← warmRestart_eq] at after
  exact before.trans after

theorem State.Beside.up (h : s.Beside i t) (hup : s.linkUp i = true) : (t.engine i).link = .up :=
  h.engine.link.trans (of_decide_eq_true hup)

/-- A slot whose power is lost (R198). -/
theorem warmRestart_lost (h : Inv s) (c : ResetCause) (hstate : (s.movedSlot i).state = .resuming) (hbad : s.powered i = false) :
    (restartBlocks c s).At (warmRestart c s) i ((s.movedSlot i).lost s.time)
      (if (s.restartedPower i).switchOn then (s.restartedPower i).turnOff s.time else s.restartedPower i) 0
    ∧ ((warmRestart c s).engine i).link = .up := by
  obtain ⟨checked, up⟩ := warmChecked_lost h c hstate hbad
  have survey := warmSurveyed_besides (s := s) (i := i) c (by rw [checked.slot]; exact nofun)
  have rest := survey.trans (warmRestart_besides c (by rw [survey.slot, checked.slot]; exact nofun))
  exact ⟨checked.beside rest, rest.up up⟩

/-- A resuming slot whose power is there is probed (R198). -/
theorem warmRestart_probes (h : Inv s) (c : ResetCause) (hstate : (s.movedSlot i).state = .resuming)
    (hgood : s.powered i = true) :
    (restartBlocks c s).At (warmRestart c s) i (s.movedSlot i) (s.restartedPower i) s.alloc.claims[i]
    ∧ ((warmRestart c s).engine i).link = .up ∧ ((warmRestart c s).engine i).Carries .probe := by
  obtain ⟨checked, up, probe⟩ := warmChecked_probes h c hstate hgood
  have survey := warmSurveyed_besides (s := s) (i := i) c (by rw [checked.slot, hstate]; exact nofun)
  have rest := survey.trans (warmRestart_besides c (by rw [survey.slot, checked.slot, hstate]; exact nofun))
  exact ⟨checked.beside rest, rest.up up, rest.engine.carries .probe rfl probe⟩

/-- A slot that is neither resuming nor surveyed nor sampled. -/
theorem warmRestart_rests (h : Inv s) (c : ResetCause) (hresuming : (s.movedSlot i).state ≠ .resuming)
    (hsurveying : (s.movedSlot i).state ≠ .surveying) (hvacant : (s.movedSlot i).state ≠ .vacant) :
    (restartBlocks c s).At (warmRestart c s) i (s.movedSlot i) (s.restartedPower i) s.alloc.claims[i]
    ∧ ((warmRestart c s).engine i).link = .up := by
  obtain ⟨checked, engine⟩ := warmChecked_else h c hresuming
  have survey := warmSurveyed_besides (s := s) (i := i) c (by rw [checked.slot]; exact hsurveying)
  have rest := survey.trans (warmRestart_besides c (by rw [survey.slot, checked.slot]; exact hvacant))
  exact ⟨checked.beside rest, rest.engine.link.trans (by simpa [hvacant] using engine.link)⟩

/-- The record of a slot whose survey begins afresh (R151, R196). -/
def Slot.resurveyed (x : Slot) : Slot := { x.clearIdentity with survey := some ⟨.page0, none, []⟩ }

/-- A slot left in SURVEYING (R196). -/
theorem warmRestart_surveys (h : Inv s) (c : ResetCause) (hstate : (s.movedSlot i).state = .surveying) :
    (restartBlocks c s).At (warmRestart c s) i (s.movedSlot i).resurveyed (s.restartedPower i) s.alloc.claims[i]
    ∧ ((warmRestart c s).engine i).link = .up ∧ ((warmRestart c s).engine i).Carries (.identPage 0) := by
  obtain ⟨checked, engine⟩ := warmChecked_else h c (by rw [hstate]; exact nofun)
  obtain ⟨v, before, after⟩ := State.Beside.turn i (f := restartSurvey) (fun s _ _ h => .restartSurvey s h) (s.warmChecked c)
  have here := checked.beside before
  have up : v.linkUp i = true := decide_eq_true (by simpa [hstate] using (engine.passes before.engine).link)
  obtain ⟨slot, up, page⟩ := restartSurvey_begins (by rw [here.slot, hstate]) up
  have begun := here.steady (.of_gen (.restartSurvey v i) (by rw [slot]; rfl)) (.restartSurvey v i)
    (slot.trans (congrArg Slot.resurveyed here.slot))
  have rest := after.trans (warmRestart_besides c (by
    rw [show ((s.warmSurveyed c).slot i) = _ from (begun.beside after).slot]
    exact fun hv => nomatch hstate.symm.trans hv))
  exact ⟨begun.beside rest, rest.up up, rest.engine.carries _ rfl page⟩

/-- A slot left in VACANT (R191, R196). -/
theorem warmRestart_samples (h : Inv s) (c : ResetCause) (hstate : (s.movedSlot i).state = .vacant) :
    (restartBlocks c s).At (warmRestart c s) i ((s.movedSlot i).sampled s.time (s.pinsOf i)) (s.restartedPower i)
      s.alloc.claims[i]
    ∧ ((warmRestart c s).engine i).link = .absent := by
  obtain ⟨checked, engine⟩ := warmChecked_else h c (by rw [hstate]; exact nofun)
  have survey := warmSurveyed_besides (s := s) (i := i) c (by rw [checked.slot, hstate]; exact nofun)
  obtain ⟨v, before, after⟩ := State.Beside.turn i (f := restartSample) (fun s _ _ h => .restartSample s h) (s.warmSurveyed c)
  have here := checked.beside (survey.trans before)
  have onward := here.tells.onward
  have pins : v.pinsOf i = s.pinsOf i := by rw [State.pinsOf, onward.pins]; rfl
  obtain ⟨slot, link, tells⟩ := restartSample_samples (by rw [here.slot, hstate])
  rw [here.slot, onward.time, pins] at slot
  have engine := (engine.passes (survey.trans before).engine).link
  rw [decide_eq_true hstate, if_pos rfl] at engine
  exact ⟨(here.steady tells (.restartSample v i) slot).beside after, after.engine.link.trans (link.trans engine)⟩

end Sys2Proof.Machine

/-! The Port Map at a warm restart (R104, R106, R124). -/

namespace Sys2Proof.Machine

variable {s t u v w b : State} {i j : SlotId} {p q : PortId} {c : ResetCause}

/-- A walk over the slots in which each slot of `B` does the same to the ports it joins. -/
theorem foldl_portOf {f : State → SlotId → State} {g : Port → Port} (hg : ∀ x, g (g x) = g x) {B : SlotId → Prop}
    {I : List SlotId → State → Prop} (hI : ∀ j l s, I (j :: l) s → I l (f s j))
    (hhit : ∀ j l s, I (j :: l) s → (nodeSlot p = j ∨ hubSlot p = j) → B j → (f s j).portOf p = g (s.portOf p))
    (hmiss : ∀ j l s, I (j :: l) s → ¬((nodeSlot p = j ∨ hubSlot p = j) ∧ B j) → (f s j).portOf p = s.portOf p) :
    ∀ (l : List SlotId) (s : State), I l s →
      ((∃ j ∈ l, (nodeSlot p = j ∨ hubSlot p = j) ∧ B j) → (l.foldl f s).portOf p = g (s.portOf p))
      ∧ ((∀ j ∈ l, ¬((nodeSlot p = j ∨ hubSlot p = j) ∧ B j)) → (l.foldl f s).portOf p = s.portOf p)
  | [], s, _ => ⟨fun ⟨_, hj, _⟩ => absurd hj List.not_mem_nil, fun _ => rfl⟩
  | j :: l, s, hs => by
    obtain ⟨hit, miss⟩ := foldl_portOf hg hI hhit hmiss l (f s j) (hI j l s hs)
    refine ⟨fun h => ?_, fun h => ?_⟩
    · rw [List.foldl_cons]
      by_cases hj : (nodeSlot p = j ∨ hubSlot p = j) ∧ B j
      · have first := hhit j l s hs hj.1 hj.2
        by_cases hl : ∃ k ∈ l, (nodeSlot p = k ∨ hubSlot p = k) ∧ B k
        · rw [hit hl, first, hg]
        · rw [miss fun k hk hB => hl ⟨k, hk, hB⟩, first]
      · obtain ⟨k, hk, hB⟩ := h
        have later : k ∈ l := (List.mem_cons.mp hk).resolve_left fun heq => hj (heq ▸ hB)
        rw [hit ⟨k, later, hB⟩, hmiss j l s hs hj]
    · rw [List.foldl_cons, miss fun k hk => h k (List.mem_cons_of_mem _ hk), hmiss j l s hs (h j List.mem_cons_self)]

/-! ### The flags of a slot that is vacated -/

/-- The declined flag and the attempt count cleared (R106). -/
def Port.cleared (x : Port) : Port := { x with declined := false, attempts := 0 }

theorem restartMove_cleared (hp : nodeSlot p = i ∨ hubSlot p = i) (hstate : (s.slot i).state = .seating) :
    (restartMove s i).portOf p = (s.portOf p).cleared := by
  unfold restartMove
  split
  case h_1 =>
    rw [clearDeclined_portOf (mem_slotPorts.mpr hp)]
    simp [Port.cleared]
  all_goals
    rename_i hs
    exact nomatch hstate.symm.trans hs

theorem restartMove_portOf (h : ¬((nodeSlot p = i ∨ hubSlot p = i) ∧ (s.slot i).state = .seating)) :
    (restartMove s i).portOf p = s.portOf p := by
  unfold restartMove
  split
  case h_1 =>
    rename_i hs
    have moves := State.Moves.clearDeclined ((changeState i .vacant .restart none s).modSlot i Slot.clearBlade)
      (M := (· ∈ slotPorts i)) fun _ h => h
    rw [moves.ports p fun hp => h ⟨mem_slotPorts.mp hp, hs⟩]
    simp
  all_goals simp

/-- The slots still to be moved stand as they were. -/
structure State.ToMove (s : State) (l : List SlotId) (v : State) : Prop where
  nodup : l.Nodup
  slots : ∀ j ∈ l, (v.slot j).state = (s.slot j).state

theorem State.ToMove.next {l : List SlotId} (h : s.ToMove (j :: l) v) : s.ToMove l (restartMove v j) := by
  obtain ⟨hj, hl⟩ := List.nodup_cons.mp h.nodup
  refine ⟨hl, fun k hk => ?_⟩
  rw [(State.Beside.restartMove v (i := k) (j := j) fun heq => hj (heq ▸ hk)).slot]
  exact h.slots k (List.mem_cons_of_mem _ hk)

/-- Either slot of the port satisfies `B`. -/
theorem exists_slot_iff {B : SlotId → Prop} :
    (∃ j ∈ allSlots, (nodeSlot p = j ∨ hubSlot p = j) ∧ B j) ↔ B (nodeSlot p) ∨ B (hubSlot p) := by
  constructor
  · rintro ⟨j, -, rfl | rfl, hB⟩
    · exact .inl hB
    · exact .inr hB
  · rintro (hB | hB)
    · exact ⟨_, mem_allSlots _, .inl rfl, hB⟩
    · exact ⟨_, mem_allSlots _, .inr rfl, hB⟩

theorem warmMoved_portOf (c : ResetCause) (s : State) (p : PortId) : (s.warmMoved c).portOf p =
    if (s.slot (nodeSlot p)).state = .seating ∨ (s.slot (hubSlot p)).state = .seating then (s.portOf p).cleared
    else s.portOf p := by
  have start : s.ToMove allSlots (restartBlocks c s) :=
    ⟨allSlots_nodup, fun j _ => by rw [restartBlocks_slot]; rfl⟩
  obtain ⟨hit, miss⟩ := foldl_portOf (p := p) (f := restartMove) (g := Port.cleared) (fun _ => rfl)
    (B := fun j => (s.slot j).state = .seating) (I := s.ToMove) (fun _ _ _ h => h.next)
    (fun j l v h hp hB => restartMove_cleared hp ((h.slots j List.mem_cons_self).trans hB))
    (fun j l v h hB => restartMove_portOf fun hs => hB ⟨hs.1, (h.slots j List.mem_cons_self).symm.trans hs.2⟩)
    allSlots (restartBlocks c s) start
  split
  · next h => exact hit (exists_slot_iff.mpr h)
  · next h => exact miss fun j hj hB => h (exists_slot_iff (B := fun j => (s.slot j).state = .seating) |>.mp ⟨j, hj, hB⟩)

/-! ### The rebuild from the gate latch -/

/-- The gate of port `p` when its slots are found as they stand (R124). -/
def State.gateKept (s : State) (p : PortId) : Bool :=
  (s.portOf p).gate && decide ((s.slot (nodeSlot p)).state = .resuming) && decide ((s.slot (hubSlot p)).state = .resuming)

/-- A port rebuilt with its gate as `kept` says. -/
def Port.rebuilt (kept : Bool) (x : Port) : Port :=
  { x with state := if kept then .opened else .isolated, gate := kept, deadline := none }

theorem rebuildPort_self (s : State) (p : PortId) : (rebuildPort s p).portOf p = (s.portOf p).rebuilt (s.gateKept p) :=
  modPort_portOf_self ..

theorem rebuildPort_ne (h : q ≠ p) (s : State) : (rebuildPort s p).portOf q = s.portOf q := modPort_portOf_ne _ _ _ _ h

theorem foldl_rebuildPort_other : ∀ (l : List PortId) (s : State), p ∉ l → (l.foldl rebuildPort s).portOf p = s.portOf p
  | [], _, _ => rfl
  | q :: l, s, h => by
    rw [List.foldl_cons, foldl_rebuildPort_other l _ fun hp => h (List.mem_cons_of_mem _ hp),
      rebuildPort_ne (p := q) fun heq => h (heq ▸ List.mem_cons_self)]

theorem foldl_rebuildPort : ∀ (l : List PortId) (s : State), l.Nodup → p ∈ l →
    (l.foldl rebuildPort s).portOf p = (s.portOf p).rebuilt (s.gateKept p)
  | [], _, _, hp => absurd hp List.not_mem_nil
  | q :: l, s, hnodup, hp => by
    obtain ⟨hq, hl⟩ := List.nodup_cons.mp hnodup
    rw [List.foldl_cons]
    by_cases h : p = q
    · subst h
      rw [foldl_rebuildPort_other l _ hq, rebuildPort_self]
    · rw [foldl_rebuildPort l _ hl ((List.mem_cons.mp hp).resolve_left h), State.gateKept, rebuildPort_ne h]
      rfl

/-! ### The ports of a slot whose power is lost -/

/-- The slots still to be checked stand as the engines' restart left them. -/
structure State.ToCheck (s : State) (c : ResetCause) (l : List SlotId) (v : State) : Prop where
  nodup : l.Nodup
  kept : Kept (restartBlocks c s).fixed v
  onward : (restartBlocks c s).Onward v
  slots : ∀ j ∈ l, v.slot j = s.movedSlot j ∧ v.pwr j = s.restartedPower j

theorem State.ToCheck.next {l : List SlotId} (h : s.ToCheck c (j :: l) v) : s.ToCheck c l (restartCheck v j) := by
  obtain ⟨hj, hl⟩ := List.nodup_cons.mp h.nodup
  refine ⟨hl, h.kept.restartCheck, h.onward.trans (.restartCheck v j), fun k hk => ?_⟩
  have beside := State.Beside.restartCheck v (i := k) (j := j) fun heq => hj (heq ▸ hk)
  obtain ⟨slot, pwr⟩ := h.slots k (List.mem_cons_of_mem _ hk)
  exact ⟨beside.slot.trans slot, beside.pwr.trans pwr⟩

theorem State.ToCheck.start (h : Inv s) (c : ResetCause) : s.ToCheck c allSlots (s.warmLinked c) :=
  ⟨allSlots_nodup, kept_warmLinked h c, (warmLinked_at c s 0).1.tells.onward,
    fun j _ => ⟨(warmLinked_at c s j).1.slot, (warmLinked_at c s j).1.pwr⟩⟩

/-- Slot `i` is resuming and its power is lost (R198). -/
def State.Loses (s : State) (i : SlotId) : Prop := (s.movedSlot i).state = .resuming ∧ s.powered i = false

namespace State.ToCheck

variable {l : List SlotId}

theorem powered (h : s.ToCheck c (j :: l) v) : ((v.pwr j).switchOn && (v.pinsOf j).powerGood) = s.powered j := by
  obtain ⟨-, pwr⟩ := h.slots j List.mem_cons_self
  have pins : v.pinsOf j = s.pinsOf j := by rw [State.pinsOf, h.onward.pins]; rfl
  rw [pwr, pins]
  rfl

theorem lost (h : s.ToCheck c (j :: l) v) (hj : s.Loses j) : v.Lost j (restartCheck v j) := by
  obtain ⟨slot, -⟩ := h.slots j List.mem_cons_self
  obtain ⟨state, bad⟩ := hj
  exact restartCheck_lost h.kept.inv (congrArg Fixed.held h.kept.fixed) h.onward.lists.2
    (by rw [slot, movedSlot_orders]) (by rw [slot, state]) (h.powered.trans bad)

theorem steady (h : s.ToCheck c (j :: l) v) (hj : ¬s.Loses j) : v.Steady (restartCheck v j) := by
  obtain ⟨slot, -⟩ := h.slots j List.mem_cons_self
  by_cases hs : (s.movedSlot j).state = .resuming
  · have good : s.powered j = true := by
      cases hp : s.powered j
      · exact absurd ⟨hs, hp⟩ hj
      · rfl
    rw [restartCheck_probes (by rw [slot, hs]) (h.powered.trans good)]
    exact .askProbe _ v j
  · rw [restartCheck_else (by rw [slot]; exact hs)]
    exact .refl v

end State.ToCheck

theorem warmChecked_portOf (h : Inv s) (c : ResetCause) (p : PortId) :
    (s.Loses (nodeSlot p) ∨ s.Loses (hubSlot p) → (s.warmChecked c).portOf p = ((s.warmLinked c).portOf p).isolate)
    ∧ (¬(s.Loses (nodeSlot p) ∨ s.Loses (hubSlot p)) → (s.warmChecked c).portOf p = (s.warmLinked c).portOf p) := by
  obtain ⟨hit, miss⟩ := foldl_portOf (p := p) (f := restartCheck) (g := Port.isolate) (fun _ => rfl) (B := s.Loses)
    (I := s.ToCheck c) (fun _ _ _ h => h.next) (fun j l v h hp hB => (h.lost hB).ports p hp)
    (fun j l v h hB => by
      by_cases hj : s.Loses j
      · exact (h.lost hj).others p fun hp => hB ⟨hp, hj⟩
      · exact portOf_congr (h.steady hj).ports p)
    allSlots (s.warmLinked c) (.start h c)
  exact ⟨fun h => hit (exists_slot_iff.mpr h), fun h => miss fun j hj hB => h (exists_slot_iff.mp ⟨j, hj, hB⟩)⟩

/-! ### The whole way of a port -/

theorem warmLinked_portOf (c : ResetCause) (s : State) (p : PortId) : (s.warmLinked c).portOf p =
    ((s.warmMoved c).portOf p).rebuilt ((s.warmMoved c).gateKept p) := by
  have links : (s.warmLinked c).portOf p = (s.warmFreed c).portOf p :=
    portOf_congr (State.Steady.foldl .restartLink allSlots _).ports p
  have shelf : ∀ (l : List OrderEntry) (v : State), (abandonShelf l v).portOf p = v.portOf p := fun l => by
    induction l with
    | nil => exact fun _ => rfl
    | cons e l ih =>
      intro v
      rw [abandonShelf, ih]
      simp
  have orders : ∀ (l : List SlotId) (a : Vector (List OrderEntry) 16) (v : State),
      (l.foldl (abandonSlot a) v).portOf p = v.portOf p := fun l a => by
    induction l with
    | nil => exact fun _ => rfl
    | cons j l ih =>
      intro v
      rw [List.foldl_cons, ih, abandonSlot]
      simp
  rw [links, State.warmFreed, shelf, State.warmAbandoned, orders, State.warmRebuilt,
    foldl_rebuildPort _ _ allPorts_nodup (mem_allPorts p)]

theorem rebuilt_isolate (kept : Bool) (x : Port) : (x.rebuilt kept).isolate = x.rebuilt false := rfl

/-- The ports are restarted from their gate latches (R104, R106, R124, R198). -/
theorem warmRestart_portOf (h : Inv s) (c : ResetCause) (p : PortId) :
    (¬(s.Loses (nodeSlot p) ∨ s.Loses (hubSlot p)) →
      (warmRestart c s).portOf p = ((s.warmMoved c).portOf p).rebuilt ((s.warmMoved c).gateKept p))
    ∧ (s.Loses (nodeSlot p) ∨ s.Loses (hubSlot p) →
      (warmRestart c s).portOf p = ((s.warmMoved c).portOf p).rebuilt false) := by
  have last : (warmRestart c s).portOf p = (s.warmChecked c).portOf p :=
    portOf_congr ((State.Steady.foldl .restartSurvey allSlots (s.warmChecked c)).trans
      (.foldl .restartSample allSlots _)).ports p
  obtain ⟨hit, miss⟩ := warmChecked_portOf h c p
  rw [last, ← warmLinked_portOf c s p]
  refine ⟨miss, fun hl => ?_⟩
  rw [hit hl, warmLinked_portOf, rebuilt_isolate]

end Sys2Proof.Machine

/-! The order cells and the follow-up work at a warm restart (R46, R59, R195). -/

namespace Sys2Proof.Machine

variable {s t u v w b : State} {i j : SlotId} {p q : PortId} {c : ResetCause} {d : CellId} {e : OrderEntry}

/-! ### The orders of the slots -/

/-- The orders of another cell are finished, or none (R195). -/
theorem foldl_abandonSlot_stands {lists : Vector (List OrderEntry) 16} : ∀ (l : List SlotId) (v : State),
    Memory.wf v.mem = true → (∀ j ∈ l, ∀ e ∈ lists[j], e.cell ≠ d) → CellStands d v (l.foldl (abandonSlot lists) v)
  | [], v, _, _ => .refl d v
  | j :: l, v, hm, h => by
    have first : CellStands d v (abandonSlot lists v j) :=
      finishEntries_stands .abandoned _ hm (h j List.mem_cons_self)
    exact first.trans (foldl_abandonSlot_stands l _ (finishEntries_wf .abandoned _ hm) fun k hk => h k (List.mem_cons_of_mem _ hk))

theorem finishEntries_attention (o : OrderOutcome) (v : State) : ∀ (l : List OrderEntry), l ≠ [] →
    (finishEntries i o l v).port.attention &&& Attention.orderDone.mask = Attention.orderDone.mask
  | [], h => absurd rfl h
  | e :: l, _ => by
    have first : (finishCell e.cell i o e.taken none [] v).port.attention &&& Attention.orderDone.mask =
        Attention.orderDone.mask := by
      rw [finishCell, writeResult_attention, BitVec.or_comm]
      exact and_or_mask _ BitVec.and_self
    exact (State.Onward.finishEntries i o l _).attention _ first

/-- A detached order's cell shows that it was abandoned (R46, R195). -/
theorem foldl_abandonSlot_finished {lists : Vector (List OrderEntry) 16} (he : e ∈ lists[i])
    (hother : ∀ j, j ≠ i → ∀ d ∈ lists[j], d.cell ≠ e.cell) : ∀ (l : List SlotId) (v : State),
    Memory.wf v.mem = true → l.Nodup → i ∈ l →
    (l.foldl (abandonSlot lists) v).Finished e.cell OrderOutcome.abandoned.code 0 (v.slot i).state.code (v.slot i).gen
    ∧ (l.foldl (abandonSlot lists) v).port.attention &&& Attention.orderDone.mask = Attention.orderDone.mask
  | [], _, _, _, hi => absurd hi List.not_mem_nil
  | j :: l, v, hm, hnodup, hi => by
    obtain ⟨hj, hl⟩ := List.nodup_cons.mp hnodup
    have wf : Memory.wf (abandonSlot lists v j).mem = true := finishEntries_wf .abandoned _ hm
    rw [List.foldl_cons]
    by_cases h : i = j
    · subst h
      have done := finishEntries_finished (i := i) .abandoned lists[i] hm e he
      have latched := finishEntries_attention (i := i) .abandoned v lists[i] (List.ne_nil_of_mem he)
      have rest := foldl_abandonSlot_stands (d := e.cell) (lists := lists) l (abandonSlot lists v i) wf
        fun k hk => hother k fun heq => hj (heq ▸ hk)
      have onward := State.Onward.foldl (fun s k => State.Onward.finishEntries k .abandoned lists[k] s) l (abandonSlot lists v i)
      exact ⟨done.of_stands rest, onward.attention _ latched⟩
    · have slot := (State.Beside.abandonSlot lists v j (i := i)).slot
      have rest := foldl_abandonSlot_finished he hother l (abandonSlot lists v j) wf hl ((List.mem_cons.mp hi).resolve_left h)
      rwa [slot] at rest

/-! ### The orders of the shelf -/

theorem finishShelfCell_wf (hm : Memory.wf v.mem = true) (c : CellId) (o : OrderOutcome) (taken : Time) :
    Memory.wf (finishShelfCell c o taken v).mem = true := by
  rw [finishShelfCell, writeResult_mem]
  exact Memory.wf_writeList _ _ _ hm

theorem abandonShelf_stands : ∀ (l : List OrderEntry) (v : State), Memory.wf v.mem = true → (∀ e ∈ l, e.cell ≠ d) →
    CellStands d v (abandonShelf l v)
  | [], _, _, _ => .refl d _
  | e :: l, _, hm, h =>
    ((finishShelfCell_finished hm e.cell .abandoned e.taken).2.2.stands (h e List.mem_cons_self).symm).trans
      (abandonShelf_stands l _ (finishShelfCell_wf hm _ _ _) fun e he => h e (List.mem_cons_of_mem _ he))

theorem abandonShelf_keeps : ∀ (l : List OrderEntry) (v : State), Memory.wf v.mem = true →
    v.Finished d OrderOutcome.abandoned.code 0 0xFF 0 → (abandonShelf l v).Finished d OrderOutcome.abandoned.code 0 0xFF 0
  | [], _, _, h => h
  | e :: l, v, hm, h => by
    obtain ⟨done, -, others⟩ := finishShelfCell_finished hm e.cell .abandoned e.taken
    refine abandonShelf_keeps l _ (finishShelfCell_wf hm _ _ _) ?_
    by_cases hd : d = e.cell
    · exact hd ▸ done
    · exact h.of_other others hd

/-- A detached shelf order's cell shows that it was abandoned (R59, R72). -/
theorem abandonShelf_finished : ∀ (l : List OrderEntry) (v : State), Memory.wf v.mem = true → ∀ e ∈ l,
    (abandonShelf l v).Finished e.cell OrderOutcome.abandoned.code 0 0xFF 0
    ∧ (abandonShelf l v).port.attention &&& Attention.orderDone.mask = Attention.orderDone.mask
  | [], _, _, _, he => absurd he List.not_mem_nil
  | x :: l, v, hm, e, he => by
    have wf := finishShelfCell_wf hm x.cell .abandoned x.taken
    rcases List.mem_cons.mp he with rfl | hl
    · have latched : (finishShelfCell e.cell .abandoned e.taken v).port.attention &&& Attention.orderDone.mask =
          Attention.orderDone.mask := by
        rw [finishShelfCell, writeResult_attention, BitVec.or_comm]
        exact and_or_mask _ BitVec.and_self
      exact ⟨abandonShelf_keeps l _ wf (finishShelfCell_finished hm e.cell .abandoned e.taken).1,
        (State.Onward.abandonShelf l _).attention _ latched⟩
    · exact abandonShelf_finished l _ wf e hl

/-! ### The follow-up work of the checks -/

/-- The jobs that a power loss brings (R11, R20, R28, R71). -/
def Job.OfLoss (j : Job) : Prop := j = .examine ∨ ∃ k, j = .start k ∨ j = .handle k

/-- What the checks bring, and that they write no cell (R198). -/
theorem foldl_restartCheck_jobs : ∀ (l : List SlotId) (v : State), s.ToCheck c l v →
    CellsKept v (l.foldl restartCheck v)
    ∧ ∃ js, (l.foldl restartCheck v).jobs = v.jobs ++ js ∧ js.length ≤ 3 * l.length ∧ ∀ j ∈ js, j.OfLoss
  | [], v, _ => ⟨.refl v, [], by simp⟩
  | k :: l, v, h => by
    obtain ⟨cells, js, jobs, len, ofLoss⟩ := foldl_restartCheck_jobs l (restartCheck v k) h.next
    rw [List.foldl_cons]
    by_cases hk : s.Loses k
    · have lost := h.lost hk
      refine ⟨lost.cells.trans cells, _, by rw [jobs, lost.jobs, List.append_assoc, List.append_assoc], ?_, fun j hj => ?_⟩
      · have : (if v.alloc.claims[k] = 0 then [] else [Job.examine]).length ≤ 1 := by split <;> simp
        simp only [List.length_append, List.length_cons, List.length_nil]
        omega
      · rcases List.mem_append.mp hj with hj | hj
        · split at hj
          · exact absurd hj List.not_mem_nil
          · exact .inl (List.mem_singleton.mp hj)
        · rcases List.mem_append.mp hj with hj | hj
          · simp only [List.mem_cons, List.not_mem_nil, or_false] at hj
            exact .inr ⟨k, hj⟩
          · exact ofLoss j hj
    · have steady := h.steady hk
      refine ⟨steady.cells.trans cells, js, by rw [jobs, jobs_congr steady.work], ?_, ofLoss⟩
      rw [List.length_cons]
      omega

/-! ### The whole restart -/

/-- The moves and the rebuild of the ports write no cell and bring nothing. -/
theorem warmRebuilt_keeps (c : ResetCause) (s : State) : CellsKept s (s.warmRebuilt c) ∧ (s.warmRebuilt c).work = s.work := by
  have moves : ∀ (l : List SlotId) (v : State), CellsKept v (l.foldl restartMove v) ∧ (l.foldl restartMove v).work = v.work :=
    fun l => by
      induction l with
      | nil => exact fun v => ⟨.refl v, rfl⟩
      | cons j l ih =>
        intro v
        have step : CellsKept v (restartMove v j) := by
          unfold restartMove CellsKept
          split
          all_goals simp
        obtain ⟨cells, work⟩ := ih (restartMove v j)
        exact ⟨step.trans cells, work.trans (restartMove_own v j).2.2.2.1⟩
  have ports : ∀ (l : List PortId) (v : State), CellsKept v (l.foldl rebuildPort v) ∧ (l.foldl rebuildPort v).work = v.work :=
    fun l => by
      induction l with
      | nil => exact fun v => ⟨.refl v, rfl⟩
      | cons p l ih => exact fun v => ih (rebuildPort v p)
  obtain ⟨moved, work⟩ := moves allSlots (restartBlocks c s)
  obtain ⟨rebuilt, work'⟩ := ports allPorts (s.warmMoved c)
  exact ⟨moved.trans rebuilt, work'.trans work⟩

/-- The finishes of the detached orders bring nothing. -/
theorem warmFreed_work (c : ResetCause) (s : State) : (s.warmFreed c).work = s.work := by
  have shelf : ∀ (l : List OrderEntry) (v : State), (abandonShelf l v).work = v.work := fun l => by
    induction l with
    | nil => exact fun _ => rfl
    | cons e l ih => exact fun v => (ih _).trans (by simp)
  have orders : ∀ (l : List SlotId) (a : Vector (List OrderEntry) 16) (v : State),
      (l.foldl (abandonSlot a) v).work = v.work := fun l a => by
    induction l with
    | nil => exact fun _ => rfl
    | cons j l ih => exact fun v => (ih _).trans (by simp [abandonSlot])
  rw [State.warmFreed, shelf, State.warmAbandoned, orders, (warmRebuilt_keeps c s).2]

/-- What follows the finishes writes no cell and brings the jobs of the losses alone. -/
theorem warmRestart_keeps (h : Inv s) (c : ResetCause) : CellsKept (s.warmFreed c) (warmRestart c s)
    ∧ (s.warmFreed c).Onward (warmRestart c s)
    ∧ ∃ js, (warmRestart c s).jobs = s.jobs ++ js ∧ js.length ≤ 48 ∧ ∀ j ∈ js, j.OfLoss := by
  have links := State.Steady.foldl State.Steady.restartLink allSlots (s.warmFreed c)
  obtain ⟨cells, js, jobs, len, ofLoss⟩ := foldl_restartCheck_jobs allSlots (s.warmLinked c) (.start h c)
  have last := (State.Steady.foldl State.Steady.restartSurvey allSlots (s.warmChecked c)).trans
    (.foldl .restartSample allSlots _)
  refine ⟨(links.cells.trans cells).trans last.cells, ?_, js, ?_, len, ofLoss⟩
  · have survey := State.Onward.foldl State.Onward.restartSurvey allSlots (s.warmChecked c)
    exact ((State.Onward.foldl State.Onward.restartLink allSlots _).trans (.foldl .restartCheck allSlots _)).trans
      (survey.trans (.foldl .restartSample allSlots _))
  · have before : (s.warmLinked c).jobs = s.jobs := jobs_congr (links.work.trans (warmFreed_work c s))
    exact (jobs_congr last.work).trans (jobs.trans (by rw [before]))

theorem ordersOf (s : State) (i : SlotId) : (s.slots.map (·.orders))[i] = (s.slot i).orders := by
  simp [State.slot]

theorem warmRebuilt_wf (h : Inv s) (c : ResetCause) : Memory.wf (s.warmRebuilt c).mem = true := by
  rw [(warmRebuilt_keeps c s).1.2]
  exact h.mem

theorem foldl_abandonSlot_wf {lists : Vector (List OrderEntry) 16} : ∀ (l : List SlotId) (v : State),
    Memory.wf v.mem = true → Memory.wf (l.foldl (abandonSlot lists) v).mem = true
  | [], _, hm => hm
  | _ :: l, _, hm => foldl_abandonSlot_wf l _ (finishEntries_wf .abandoned _ hm)

/-- A cell of no detached order stands (R195). -/
theorem warmRestart_stands (h : Inv s) (c : ResetCause) (hshelf : ∀ e ∈ s.alloc.shelf, e.cell ≠ d)
    (hslots : ∀ j, ∀ e ∈ (s.slot j).orders, e.cell ≠ d) : CellStands d s (warmRestart c s) := by
  have wf := warmRebuilt_wf h c
  have orders : CellStands d (s.warmRebuilt c) (s.warmAbandoned c) :=
    foldl_abandonSlot_stands allSlots _ wf fun j _ => by rw [ordersOf]; exact hslots j
  have shelf : CellStands d (s.warmAbandoned c) (s.warmFreed c) :=
    abandonShelf_stands _ _ (foldl_abandonSlot_wf allSlots _ wf) hshelf
  exact (((warmRebuilt_keeps c s).1.stands d).trans orders).trans (shelf.trans ((warmRestart_keeps h c).1.stands d))

/-- A detached order of a slot is abandoned, with its slot as the moves left it (R59, R195). -/
theorem warmRestart_abandons (h : Inv s) (c : ResetCause) (he : e ∈ (s.slot i).orders)
    (hshelf : ∀ d ∈ s.alloc.shelf, d.cell ≠ e.cell) (hother : ∀ j, ∀ d ∈ (s.slot j).orders, d.cell = e.cell → j = i) :
    (warmRestart c s).Finished e.cell OrderOutcome.abandoned.code 0 (s.movedSlot i).state.code (s.movedSlot i).gen
    ∧ (warmRestart c s).port.attention &&& Attention.orderDone.mask = Attention.orderDone.mask := by
  have wf := warmRebuilt_wf h c
  obtain ⟨done, latched⟩ := foldl_abandonSlot_finished (lists := s.slots.map (·.orders)) (by rw [ordersOf]; exact he)
    (fun j hj d hd heq => hj (hother j d (by rwa [ordersOf] at hd) heq)) allSlots (s.warmRebuilt c) wf allSlots_nodup
    (mem_allSlots i)
  have slot : (s.warmRebuilt c).slot i = s.movedSlot i :=
    ((warmMoved_at c s i).beside (.foldl (fun s p => .rebuildPort s p) _ _)).slot
  have shelf := abandonShelf_stands (d := e.cell) s.alloc.shelf (s.warmAbandoned c) (foldl_abandonSlot_wf allSlots _ wf) hshelf
  obtain ⟨kept, onward, -⟩ := warmRestart_keeps h c
  rw [slot] at done
  exact ⟨(done.of_stands shelf).of_kept kept,
    ((State.Onward.abandonShelf s.alloc.shelf (s.warmAbandoned c)).trans onward).attention _ latched⟩

/-- A detached order of the shelf is abandoned (R59, R72). -/
theorem warmRestart_abandonsShelf (h : Inv s) (c : ResetCause) (he : e ∈ s.alloc.shelf) :
    (warmRestart c s).Finished e.cell OrderOutcome.abandoned.code 0 0xFF 0
    ∧ (warmRestart c s).port.attention &&& Attention.orderDone.mask = Attention.orderDone.mask := by
  obtain ⟨done, latched⟩ := abandonShelf_finished s.alloc.shelf (s.warmAbandoned c)
    (foldl_abandonSlot_wf allSlots _ (warmRebuilt_wf h c)) e he
  obtain ⟨kept, onward, -⟩ := warmRestart_keeps h c
  exact ⟨done.of_kept kept, onward.attention _ latched⟩

end Sys2Proof.Machine

/-! The end of the event of a warm restart, and what it shows of a slot (R94, R97, R196). -/

namespace Sys2Proof.Machine

variable {s t u v w b : State} {i j : SlotId} {p q : PortId} {c : ResetCause} {x : Slot} {r : Power} {n : Nat}

/-! ### The record of a slot -/

section
variable (s) (i)

theorem movedSlot_vacated (h : (s.slot i).state = .seating) :
    s.movedSlot i = ((s.slot i).letGo.enter s.time .vacant).clearBlade := by
  simp only [State.movedSlot, Slot.restarted, show (s.slot i).letGo.state = .seating from h]

theorem movedSlot_parks (h : (s.slot i).state = .awaitPower) : s.movedSlot i = (s.slot i).letGo.enter s.time .parked := by
  simp only [State.movedSlot, Slot.restarted, show (s.slot i).letGo.state = .awaitPower from h]

theorem movedSlot_resumes (h : (s.slot i).state.payloadOn = true) (hne : (s.slot i).state ≠ .resuming) :
    s.movedSlot i = (s.slot i).letGo.enter s.time .resuming := by
  have state : (s.slot i).letGo.state = (s.slot i).state := rfl
  cases hs : (s.slot i).state
  case resuming => exact absurd hs hne
  case vacant | seating | surveying | parked | awaitPower | faulted => rw [hs] at h; exact nomatch h
  all_goals simp only [State.movedSlot, Slot.restarted, state, hs]

theorem movedSlot_resuming (h : (s.slot i).state = .resuming) :
    s.movedSlot i = { (s.slot i).letGo with agentFault := false } := by
  have state : (s.slot i).letGo.state = .resuming := h
  simp only [State.movedSlot, Slot.restarted, state]

theorem movedSlot_stays (h : (s.slot i).state = .vacant ∨ (s.slot i).state = .surveying ∨ (s.slot i).state = .parked
    ∨ (s.slot i).state = .faulted) : s.movedSlot i = (s.slot i).letGo := by
  have state : (s.slot i).letGo.state = (s.slot i).state := rfl
  rcases h with h | h | h | h
  all_goals simp only [State.movedSlot, Slot.restarted, state, h]

end

/-- What the moves make of a state (R196). -/
def SlotState.moved (st : SlotState) : SlotState :=
  if st.payloadOn then .resuming else if st = .seating then .vacant else if st = .awaitPower then .parked else st

theorem movedSlot_state (s : State) (i : SlotId) : (s.movedSlot i).state = (s.slot i).state.moved := by
  have state : (s.slot i).letGo.state = (s.slot i).state := rfl
  unfold State.movedSlot Slot.restarted
  rw [state]
  split
  all_goals
    rename_i hs
    simp [SlotState.moved, hs, SlotState.payloadOn, Slot.clearBlade, Slot.enter, Slot.letGo]

theorem movedSlot_gen (s : State) (i : SlotId) : (s.movedSlot i).gen =
    if (s.slot i).state.moved = (s.slot i).state then (s.slot i).gen else nextGeneration (s.slot i).gen := by
  have state : (s.slot i).letGo.state = (s.slot i).state := rfl
  unfold State.movedSlot Slot.restarted
  rw [state]
  split
  all_goals
    rename_i hs
    simp [SlotState.moved, hs, SlotState.payloadOn, Slot.clearBlade, Slot.enter, Slot.letGo]

theorem moved_resuming {st : SlotState} : st.moved = .resuming ↔ st.payloadOn = true := by
  cases st
  all_goals decide

theorem moved_vacant {st : SlotState} : st.moved = .vacant ↔ st = .vacant ∨ st = .seating := by
  cases st
  all_goals decide

theorem moved_surveying {st : SlotState} : st.moved = .surveying ↔ st = .surveying := by
  cases st
  all_goals decide

/-- No slot joins, leaves, waits for power or serves after the moves. -/
def SlotState.AtRest (st : SlotState) : Prop := st ≠ .joining ∧ st ≠ .leaving ∧ st ≠ .awaitPower ∧ st ≠ .inService

theorem moved_atRest (st : SlotState) : st.moved.AtRest := by
  unfold SlotState.AtRest
  cases st
  all_goals decide

/-- A record without work, in a state in which no job and no test acts (R195). -/
structure Slot.Idles (x : Slot) (policy : Policy) : Prop where
  orders : x.orders = []
  active : x.active = false
  policy : x.policy = policy
  state : x.state.AtRest

theorem movedSlot_idles (s : State) (i : SlotId) : (s.movedSlot i).Idles (s.slot i).policy := by
  refine ⟨movedSlot_orders s i, ?_, ?_, movedSlot_state s i ▸ moved_atRest _⟩
  all_goals
    unfold State.movedSlot Slot.restarted
    split
    all_goals rfl

namespace Slot.Idles

variable {policy : Policy}

theorem lost (h : x.Idles policy) (now : Time) : (x.lost now).Idles policy :=
  ⟨h.orders, h.active, h.policy, nofun, nofun, nofun, nofun⟩

theorem resurveyed (h : x.Idles policy) : x.resurveyed.Idles policy := ⟨h.orders, h.active, h.policy, h.state⟩

theorem sampled (h : x.Idles policy) (now : Time) (pins : SlotPins) : (x.sampled now pins).Idles policy := by
  unfold Slot.sampled
  dsimp only
  split
  · exact ⟨h.orders, h.active, h.policy, nofun, nofun, nofun, nofun⟩
  · exact ⟨h.orders, h.active, h.policy, h.state⟩

end Slot.Idles

/-- The link of a slot's engine after the restart (R147). -/
def linkAfter (st : SlotState) : LinkState := if st = .vacant ∨ st = .seating then .absent else .up

/-- Every slot is idle after the restart, with its link as R147 says. -/
theorem warmRestart_idles (h : Inv s) (c : ResetCause) (i : SlotId) :
    ((warmRestart c s).slot i).Idles (s.slot i).policy
    ∧ ((warmRestart c s).engine i).link = linkAfter (s.slot i).state
    ∧ (restartBlocks c s).Tells i (warmRestart c s) := by
  have idle := movedSlot_idles s i
  have state := movedSlot_state s i
  have up : (s.movedSlot i).state ≠ .vacant → linkAfter (s.slot i).state = .up := fun hv =>
    if_neg fun hs => hv (state.trans (moved_vacant.mpr hs))
  by_cases hresuming : (s.movedSlot i).state = .resuming
  · have hup := up (by rw [hresuming]; exact nofun)
    cases hp : s.powered i
    · obtain ⟨here, link⟩ := warmRestart_lost h c hresuming hp
      exact ⟨by rw [here.slot]; exact idle.lost _, link.trans hup.symm, here.tells⟩
    · obtain ⟨here, link, -⟩ := warmRestart_probes h c hresuming hp
      exact ⟨by rw [here.slot]; exact idle, link.trans hup.symm, here.tells⟩
  · by_cases hsurveying : (s.movedSlot i).state = .surveying
    · obtain ⟨here, link, -⟩ := warmRestart_surveys h c hsurveying
      exact ⟨by rw [here.slot]; exact idle.resurveyed, link.trans (up (by rw [hsurveying]; exact nofun)).symm, here.tells⟩
    · by_cases hvacant : (s.movedSlot i).state = .vacant
      · obtain ⟨here, link⟩ := warmRestart_samples h c hvacant
        exact ⟨by rw [here.slot]; exact idle.sampled _ _,
          link.trans (if_pos (moved_vacant.mp (state.symm.trans hvacant))).symm, here.tells⟩
      · obtain ⟨here, link⟩ := warmRestart_rests h c hresuming hsurveying hvacant
        exact ⟨by rw [here.slot]; exact idle, link.trans (up hvacant).symm, here.tells⟩

/-! ### The event -/

/-- An event ends with its act when nothing that the act brings acts. -/
theorem event_ends {act : State → State} (hr : s.Ready) (hact : act s = u) (h : u.AtEnd 4096) :
    ∃ l b, event act s = u.ended l b := by
  obtain ⟨l, b, -, he⟩ := event_quiet hr h.room h.jobs h.tests
  refine ⟨l, b, ?_⟩
  rw [← he, event, event, hact]

/-- Work that a power loss brings does nothing where every slot is idle and nothing waits for power. -/
theorem atEnd_of_losses {js : List Job} (hjobs : u.jobs = js) (hlen : js.length ≤ 48) (hjs : ∀ j ∈ js, j.OfLoss)
    (hqueue : u.alloc.queue = []) (hlate : u.LateWithin fun _ => True)
    (hidle : ∀ i, (u.slot i).orders = [] ∧ (u.slot i).state.AtRest) : u.AtEnd 4096 := by
  refine hlate.atEnd hjobs (fun j hj => ?_) (fun j _ => lateIdle_elsewhere (hidle j).2.1 (hidle j).2.2.1) (by omega)
  obtain rfl | ⟨k, rfl | rfl⟩ := hjs j hj
  · exact hqueue
  · exact .inl (hidle k).1
  · exact handleActs_elsewhere (hidle k).2.2.2.1 (hidle k).2.2.2.2

/-- The restart brings nothing that acts: its event ends with it. -/
theorem warmRestart_event (h : Inv s) (hr : s.Ready) (c : ResetCause) : ∃ l b,
    event (warmRestart c) s = (warmRestart c s).ended l b := by
  obtain ⟨-, -, js, jobs, len, ofLoss⟩ := warmRestart_keeps h c
  have onward := (warmRestart_idles h c 0).2.2.onward
  have idles := fun i => (warmRestart_idles h c i).1
  have late := onward.late (.of_nil hr.late)
  refine event_ends hr rfl (atEnd_of_losses jobs ?_ ?_ onward.lists.1 late fun i => ⟨(idles i).orders, (idles i).state⟩)
  · rw [jobs_nil hr.work, List.nil_append]
    exact len
  · rw [jobs_nil hr.work, List.nil_append]
    exact ofLoss

end Sys2Proof.Machine

/-! What a warm restart shows of a slot and of a port (R94, R97, R124, R196 to R198). -/

namespace Sys2Proof.Machine

variable {s t u v w b : State} {i j : SlotId} {p q : PortId} {c : ResetCause} {x : Slot} {r : Power} {n : Nat}

/-! ### Payload Power Control -/

theorem keepRef_eq (now : Time) (ref : Option Time) (time : Time) : keepRef now ref time =
    if ref = none ∨ 60000 ≤ (now - time).toNat then none else some (after time 60000) := by
  unfold keepRef refPassed
  cases ref
  · rfl
  · simp only [Option.isNone_some, Bool.false_or, decide_eq_true_eq, reduceCtorEq, false_or]
    rfl

theorem restart_switchOn (now : Time) (st : SlotState) (good : Bool) (r : Power) :
    (r.restart now st good).switchOn = r.switchOn := by
  unfold Power.restart
  dsimp only
  split
  · split <;> rfl
  · split
    · split <;> rfl
    · rfl

theorem restart_onRef (now : Time) (st : SlotState) (good : Bool) (r : Power) : (r.restart now st good).onRef =
    if (r.switchOn && good) = true ∧ st = .ramping then some (after now 60000) else keepRef now r.onRef r.goodTime := by
  unfold Power.restart
  cases hon : r.switchOn <;> cases good <;> by_cases hst : st = .ramping
  all_goals
    simp [Power.restartKeep, hon, hst, Config.horizon]
  all_goals
    split
    all_goals rfl

theorem restart_offRef (now : Time) (st : SlotState) (good : Bool) (r : Power) : (r.restart now st good).offRef =
    if st.payloadOn = true ∧ r.switchOn = false then some (after now 60000) else keepRef now r.offRef r.offTime := by
  unfold Power.restart
  cases hon : r.switchOn <;> cases good <;> by_cases hst : st.payloadOn = true
  all_goals
    simp [Power.restartKeep, hon, hst, Config.horizon]
  all_goals
    split
    all_goals rfl

theorem restartedPower_switchOn (s : State) (i : SlotId) : (s.restartedPower i).switchOn = (s.pwr i).switchOn :=
  restart_switchOn ..

theorem powered_eq (s : State) (i : SlotId) : s.powered i = ((s.pwr i).switchOn && (s.pinsOf i).powerGood) := by
  rw [State.powered, restartedPower_switchOn]

theorem loses_iff (s : State) (i : SlotId) : s.Loses i ↔ (s.slot i).state.payloadOn = true ∧ s.powered i = false := by
  rw [State.Loses, movedSlot_state, moved_resuming]

/-- The power of a slot whose power is not lost. -/
theorem warmRestart_stays (h : Inv s) (c : ResetCause) (hl : ¬s.Loses i) :
    (warmRestart c s).pwr i = s.restartedPower i ∧ (warmRestart c s).alloc.claims[i] = s.alloc.claims[i] := by
  by_cases hresuming : (s.movedSlot i).state = .resuming
  · have good : s.powered i = true := by
      cases hp : s.powered i
      · exact absurd ⟨hresuming, hp⟩ hl
      · rfl
    obtain ⟨here, -, -⟩ := warmRestart_probes h c hresuming good
    exact ⟨here.pwr, here.claim⟩
  · by_cases hsurveying : (s.movedSlot i).state = .surveying
    · obtain ⟨here, -, -⟩ := warmRestart_surveys h c hsurveying
      exact ⟨here.pwr, here.claim⟩
    · by_cases hvacant : (s.movedSlot i).state = .vacant
      · obtain ⟨here, -⟩ := warmRestart_samples h c hvacant
        exact ⟨here.pwr, here.claim⟩
      · obtain ⟨here, -⟩ := warmRestart_rests h c hresuming hsurveying hvacant
        exact ⟨here.pwr, here.claim⟩

/-- The RECENT references after the restart (R94, R97). -/
theorem warmRestart_refs (h : Inv s) (c : ResetCause) (i : SlotId) :
    ((warmRestart c s).pwr i).onRef = (if s.powered i = true ∧ (s.slot i).state = .ramping then some (after s.time 60000)
      else keepRef s.time (s.pwr i).onRef (s.pwr i).goodTime)
    ∧ ((warmRestart c s).pwr i).offRef = (if (s.slot i).state.payloadOn = true ∧ s.powered i = false
      then some (after s.time 60000) else keepRef s.time (s.pwr i).offRef (s.pwr i).offTime) := by
  have onRef : (s.restartedPower i).onRef = _ := restart_onRef s.time (s.slot i).state (s.pinsOf i).powerGood (s.pwr i)
  have offRef : (s.restartedPower i).offRef = _ := restart_offRef s.time (s.slot i).state (s.pinsOf i).powerGood (s.pwr i)
  rw [← powered_eq] at onRef
  by_cases hl : s.Loses i
  · obtain ⟨here, -⟩ := warmRestart_lost h c hl.1 hl.2
    have lost := (loses_iff s i).mp hl
    rw [here.pwr, if_pos lost]
    cases hon : (s.restartedPower i).switchOn
    · refine ⟨onRef, ?_⟩
      rw [restartedPower_switchOn] at hon
      exact offRef.trans (if_pos ⟨lost.1, hon⟩)
    · exact ⟨onRef, rfl⟩
  · rw [(warmRestart_stays h c hl).1, if_neg fun hn => hl ((loses_iff s i).mpr hn)]
    refine ⟨onRef, offRef.trans (if_neg fun hn => hl ((loses_iff s i).mpr ⟨hn.1, ?_⟩))⟩
    rw [powered_eq, hn.2]
    rfl

/-! ### The ports -/

/-- Both slots of a port are found resuming with their power there (R124, R198). -/
def State.resumes (s : State) (i : SlotId) : Bool :=
  (s.slot i).state.payloadOn && (s.pwr i).switchOn && (s.pinsOf i).powerGood

theorem resumes_eq (s : State) (i : SlotId) : s.resumes i = ((s.slot i).state.payloadOn && s.powered i) := by
  rw [State.resumes, powered_eq, Bool.and_assoc]

theorem warmMoved_gateKept (c : ResetCause) (s : State) (p : PortId) : (s.warmMoved c).gateKept p =
    ((s.portOf p).gate && (s.slot (nodeSlot p)).state.payloadOn && (s.slot (hubSlot p)).state.payloadOn) := by
  have gate : ((s.warmMoved c).portOf p).gate = (s.portOf p).gate := by
    rw [warmMoved_portOf]
    split <;> rfl
  have resuming : ∀ i, decide (((s.warmMoved c).slot i).state = .resuming) = (s.slot i).state.payloadOn := fun i => by
    rw [(warmMoved_at c s i).slot, movedSlot_state]
    exact Bool.eq_iff_iff.mpr (decide_eq_true_iff.trans moved_resuming)
  rw [State.gateKept, gate, resuming, resuming]

/-- A port after the restart (R106, R124, R198). -/
theorem warmRestart_port (h : Inv s) (c : ResetCause) (p : PortId) :
    let kept := (s.portOf p).gate && s.resumes (nodeSlot p) && s.resumes (hubSlot p)
    let cleared := (s.slot (nodeSlot p)).state = .seating ∨ (s.slot (hubSlot p)).state = .seating
    (warmRestart c s).portOf p = ⟨if kept then .opened else .isolated,
      if cleared then false else (s.portOf p).declined, if cleared then 0 else (s.portOf p).attempts, none, kept⟩ := by
  intro kept cleared
  have moved : ∀ k, ((s.warmMoved c).portOf p).rebuilt k = ⟨if k then .opened else .isolated,
      if cleared then false else (s.portOf p).declined, if cleared then 0 else (s.portOf p).attempts, none, k⟩ := fun k => by
    rw [warmMoved_portOf]
    by_cases hc : cleared
    · rw [if_pos hc, if_pos hc, if_pos hc]
      rfl
    · rw [if_neg hc, if_neg hc, if_neg hc]
      rfl
  obtain ⟨miss, hit⟩ := warmRestart_portOf h c p
  rw [← moved]
  by_cases hl : s.Loses (nodeSlot p) ∨ s.Loses (hubSlot p)
  · rw [hit hl]
    have shut : kept = false := by
      rcases hl with hl | hl
      all_goals
        obtain ⟨on, bad⟩ := (loses_iff ..).mp hl
        simp [kept, resumes_eq, bad]
    rw [shut]
  · rw [miss hl, warmMoved_gateKept]
    have stays : ∀ i, ¬s.Loses i → s.resumes i = (s.slot i).state.payloadOn := fun i hi => by
      rw [resumes_eq]
      cases hon : (s.slot i).state.payloadOn
      · rfl
      · cases hp : s.powered i
        · exact absurd ((loses_iff s i).mpr ⟨hon, hp⟩) hi
        · rfl
    obtain ⟨hnode, hhub⟩ := not_or.mp hl
    simp only [kept, stays _ hnode, stays _ hhub]

end Sys2Proof.Machine

/-! What the end of a warm restart's event shows of each slot (R196 to R198). -/

namespace Sys2Proof.Machine

variable {s t u v w b : State} {i j : SlotId} {c : ResetCause} {x : Slot}

/-! ### Records -/

/-- The record of a vacant slot after its first samples (R191, R196). -/
theorem sampled_vacant (now : Time) (pins : SlotPins) (hstate : x.state = .vacant) (hsettle : x.settle = none) :
    let y := x.sampled now pins
    let seated := pins.long && pins.short
    y.state = (if seated then .seating else .vacant) ∧ y.gen = (if seated then nextGeneration x.gen else x.gen)
    ∧ y.settle = (if seated then some (after now 200) else none)
    ∧ y.long = pins.long ∧ y.short = pins.short ∧ y.handleOpen = pins.handleOpen
    ∧ y.prev = (if seated then .vacant else x.prev)
    ∧ y.hold = x.hold ∧ (x.latch = false → y.latch = false) ∧ y.fault = x.fault ∧ y.idStatus = x.idStatus ∧ y.ident = x.ident := by
  intro y seated
  by_cases hseat : (pins.long && pins.short) = true
  · have record : y = Slot.seats { x with long := pins.long, short := pins.short, handleOpen := pins.handleOpen } now :=
      if_pos hseat
    rw [record]
    simp only [seated, if_pos hseat]
    exact ⟨rfl, rfl, rfl, rfl, rfl, rfl, hstate, rfl, fun hl => by simp [Slot.seats, Slot.enter, hl], rfl, rfl, rfl⟩
  · have record : y = { x with long := pins.long, short := pins.short, handleOpen := pins.handleOpen } := if_neg hseat
    rw [record]
    simp only [seated, if_neg hseat]
    exact ⟨hstate, trivial, hsettle, trivial, trivial, trivial, trivial, trivial, id, trivial, trivial, trivial⟩

theorem ended_slot (u : State) (l : List SlotId) (b : Option Word16) (i : SlotId) :
    ∃ n, (u.ended l b).slot i = { u.slot i with upd := n } := by
  rw [(ended_reads u l b).1, Slot.written]
  split
  · exact ⟨_, rfl⟩
  · exact ⟨_, rfl⟩

/-! ### Slots -/

section
variable (h : Inv s) (c : ResetCause) (l : List SlotId) (b : Option Word16)
include h

/-- A slot left without a blade, or left SEATING (R196). -/
theorem restarted_empty (hstate : (s.slot i).state = .vacant ∨ (s.slot i).state = .seating) :
    let t := (warmRestart c s).ended l b
    let seated := (s.pinsOf i).long && (s.pinsOf i).short
    let gen := if (s.slot i).state = .vacant then (s.slot i).gen else nextGeneration (s.slot i).gen
    (t.slot i).state = (if seated then .seating else .vacant)
    ∧ (t.slot i).gen = (if seated then nextGeneration gen else gen)
    ∧ (t.slot i).settle = (if seated then some (after s.time 200) else none)
    ∧ (t.slot i).long = (s.pinsOf i).long ∧ (t.slot i).short = (s.pinsOf i).short
    ∧ (t.slot i).handleOpen = (s.pinsOf i).handleOpen
    ∧ ((s.slot i).state = .seating → (t.slot i).prev = (if seated then .vacant else .seating)
      ∧ (t.slot i).hold = false ∧ (t.slot i).latch = false ∧ (t.slot i).fault = none
      ∧ (t.slot i).idStatus = .none ∧ (t.slot i).ident = Identity.zero) := by
  have vacant : (s.movedSlot i).state = .vacant := (movedSlot_state s i).trans (moved_vacant.mpr hstate)
  obtain ⟨n, hn⟩ := ended_slot (warmRestart c s) l b i
  rw [(warmRestart_samples h c vacant).1.slot] at hn
  intro t seated gen
  have record : (s.movedSlot i).settle = none ∧ (s.movedSlot i).gen = gen
      ∧ ((s.slot i).state = .seating → (s.movedSlot i).prev = .seating ∧ (s.movedSlot i).hold = false
        ∧ (s.movedSlot i).latch = false ∧ (s.movedSlot i).fault = none ∧ (s.movedSlot i).idStatus = .none
        ∧ (s.movedSlot i).ident = Identity.zero) := by
    rcases hstate with hs | hs
    · rw [movedSlot_stays s i (.inl hs)]
      exact ⟨rfl, (if_pos hs).symm, fun h => nomatch hs.symm.trans h⟩
    · rw [movedSlot_vacated s i hs]
      exact ⟨rfl, (if_neg (by rw [hs]; exact nofun)).symm, fun _ => ⟨hs, rfl, rfl, rfl, rfl, rfl⟩⟩
  obtain ⟨settle, hgen, cleared⟩ := record
  obtain ⟨ystate, ygen, ysettle, ylong, yshort, yhandle, yprev, yhold, ylatch, yfault, yid, yident⟩ :=
    sampled_vacant s.time (s.pinsOf i) vacant settle
  rw [hn]
  refine ⟨ystate, ygen.trans (by rw [hgen]), ysettle, ylong, yshort, yhandle, fun hs => ?_⟩
  obtain ⟨prev, hold, latch, fault, idStatus, ident⟩ := cleared hs
  exact ⟨yprev.trans (by rw [prev]), yhold.trans hold, ylatch latch, yfault.trans fault, yid.trans idStatus,
    yident.trans ident⟩

/-- A slot left SURVEYING (R196). -/
theorem restarted_surveying (hstate : (s.slot i).state = .surveying) :
    let t := (warmRestart c s).ended l b
    (t.slot i).state = .surveying ∧ (t.slot i).prev = (s.slot i).prev
    ∧ (t.slot i).gen = (s.slot i).gen ∧ (t.slot i).idStatus = .none
    ∧ (t.slot i).ident = Identity.zero ∧ (t.slot i).survey = some ⟨.page0, none, []⟩
    ∧ (t.engine i).Carries (.identPage 0) := by
  have moved : (s.movedSlot i).state = .surveying := (movedSlot_state s i).trans (moved_surveying.mpr hstate)
  obtain ⟨here, -, page⟩ := warmRestart_surveys h c moved
  obtain ⟨n, hn⟩ := ended_slot (warmRestart c s) l b i
  rw [here.slot, movedSlot_stays s i (.inr (.inl hstate))] at hn
  intro t
  rw [hn, (ended_reads _ l b).2.2.1]
  exact ⟨hstate, rfl, rfl, rfl, rfl, rfl, page⟩

/-- A slot whose power is lost (R198). -/
theorem restarted_lost (hl : s.Loses i) :
    let t := (warmRestart c s).ended l b
    (t.slot i).state = .faulted ∧ (t.slot i).prev = .resuming
    ∧ (t.slot i).gen = nextGeneration (s.movedSlot i).gen
    ∧ (t.slot i).fault = some .powerLost ∧ (t.slot i).faultTime = s.time
    ∧ (t.slot i).claim = 0 ∧ t.alloc.claims[i] = 0 ∧ (t.pwr i).switchOn = false := by
  obtain ⟨here, -⟩ := warmRestart_lost h c hl.1 hl.2
  obtain ⟨n, hn⟩ := ended_slot (warmRestart c s) l b i
  have off : ((warmRestart c s).pwr i).switchOn = false := by
    rw [here.pwr]
    split
    · rfl
    · next hoff => exact Bool.eq_false_iff.mpr hoff
  rw [here.slot] at hn
  intro t
  rw [hn, (ended_reads _ l b).2.1]
  refine ⟨rfl, hl.1, rfl, rfl, rfl, rfl, ?_, off⟩
  have alloc : t.alloc = (warmRestart c s).alloc := by simp [t]
  rw [alloc]
  exact here.claim

/-- A resuming slot whose power is there (R198). -/
theorem restarted_probes (hon : (s.slot i).state.payloadOn = true) (hgood : s.powered i = true) :
    let t := (warmRestart c s).ended l b
    (∃ n, t.slot i = { s.movedSlot i with upd := n }) ∧ t.alloc.claims[i] = s.alloc.claims[i]
    ∧ (t.pwr i).switchOn = true ∧ (t.engine i).Carries .probe := by
  obtain ⟨here, -, probe⟩ := warmRestart_probes h c ((movedSlot_state s i).trans (moved_resuming.mpr hon)) hgood
  obtain ⟨n, hn⟩ := ended_slot (warmRestart c s) l b i
  rw [here.slot] at hn
  intro t
  rw [(ended_reads _ l b).2.1, (ended_reads _ l b).2.2.1, here.pwr]
  refine ⟨⟨n, hn⟩, ?_, (Bool.and_eq_true_iff.mp hgood).1, probe⟩
  have alloc : t.alloc = (warmRestart c s).alloc := by simp [t]
  rw [alloc]
  exact here.claim

/-- A slot that moves to PARKED, or stays PARKED or FAULTED. -/
theorem restarted_rests (hstate : (s.slot i).state = .parked ∨ (s.slot i).state = .faulted ∨ (s.slot i).state = .awaitPower) :
    ∃ n, ((warmRestart c s).ended l b).slot i = { s.movedSlot i with upd := n } := by
  have moved := movedSlot_state s i
  obtain ⟨n, hn⟩ := ended_slot (warmRestart c s) l b i
  have rests : (s.movedSlot i).state = .parked ∨ (s.movedSlot i).state = .faulted := by
    rw [moved]
    rcases hstate with hs | hs | hs
    all_goals
      rw [hs]
      decide
  have away : (s.movedSlot i).state ≠ .resuming ∧ (s.movedSlot i).state ≠ .surveying ∧ (s.movedSlot i).state ≠ .vacant := by
    rcases rests with hs | hs
    all_goals
      rw [hs]
      exact ⟨nofun, nofun, nofun⟩
  rw [(warmRestart_rests h c away.1 away.2.1 away.2.2).1.slot] at hn
  exact ⟨n, hn⟩

end

end Sys2Proof.Machine

/-! The warm restart (R194 to R198). -/

namespace Sys2Proof.Machine

variable {s t u v w b : State} {i j : SlotId} {c : ResetCause} {d : CellId}

/-- What the end of a restart's event shows of the parts that belong to no one slot (R72, R174, R194). -/
structure State.WarmFrame (s : State) (c : ResetCause) (t : State) : Prop where
  held : t.held = false
  resetLine : t.resetLine = s.resetLine
  port : t.port.run = false ∧ t.port.noticeEnable = false ∧ t.port.enable = 0 ∧ t.port.cause = c
  pointer : t.pointer = 0
  restarted : t.port.attention &&& Attention.restarted.mask = Attention.restarted.mask
  stands : t.time = s.time ∧ t.straps = s.straps ∧ t.pending = s.pending ∧ t.pins = s.pins ∧ t.feedALow = s.feedALow
    ∧ t.feedBLow = s.feedBLow
  debounceFrom : t.debounceFrom = DebounceTimes.all s.time
  limits : t.alloc.capacity = s.alloc.capacity ∧ t.alloc.hubReserve = s.alloc.hubReserve
    ∧ t.alloc.feedALost = s.alloc.feedALost ∧ t.alloc.feedBLost = s.alloc.feedBLost
  lists : t.alloc.queue = [] ∧ t.alloc.shelf = [] ∧ t.alloc.ramping = []
  settings : t.settings = s.settings
  journal : s.journal.Folds t.journal

theorem warmRestart_frame (h : Inv s) (c : ResetCause) (l : List SlotId) (b : Option Word16) :
    s.WarmFrame c ((warmRestart c s).ended l b) := by
  have fixed := (kept_warmRestart (c := c) h).fixed
  have onward := (warmRestart_idles h c 0).2.2.onward
  have restarted : (restartBlocks c s).port.attention &&& Attention.restarted.mask = Attention.restarted.mask :=
    BitVec.and_self
  have attention := onward.attention _ restarted
  have journal := onward.journal rfl
  generalize warmRestart c s = u at *
  have frame := ended_frame (u := u) l b
  refine ⟨?_, ?_, ?_, ?_, ?_, ?_, ?_, ?_, ?_, ?_, ?_⟩
  all_goals simp only [frame]
  · exact congrArg Fixed.held fixed
  · exact congrArg Fixed.resetLine fixed
  · exact ⟨congrArg Fixed.run fixed, congrArg Fixed.noticeEnable fixed,
      congrArg Fixed.enable fixed, congrArg Fixed.cause fixed⟩
  · exact congrArg Fixed.pointer fixed
  · exact attention
  · exact ⟨onward.time, congrArg Fixed.straps fixed, congrArg Fixed.pending fixed, onward.pins,
      congrArg Fixed.feedALow fixed, congrArg Fixed.feedBLow fixed⟩
  · exact congrArg Fixed.debounceFrom fixed
  · exact onward.limits
  · exact ⟨onward.lists.1, onward.lists.2, onward.ramping rfl⟩
  · exact onward.settings
  · exact journal

/-- A cell's bytes stand where the cell stands. -/
theorem CellStands.read (h : CellStands d s t) {a : Nat} (hlo : cellOffset d ≤ a) (hhi : a < cellOffset d + 128) :
    Memory.read t.mem a = Memory.read s.mem a := by
  have byte := h.2 (a - cellOffset d) (by omega)
  rwa [State.rd8, State.rd8, Nat.add_sub_cancel' hlo] at byte

/-! ### Cells, notices and slots at the end of the event -/

theorem powered_of (hon : (s.pwr i).switchOn = true) (hgood : (s.pinsOf i).powerGood = true) : s.powered i = true := by
  rw [powered_eq, hon, hgood]
  rfl

theorem not_powered_of (h : (s.pwr i).switchOn = false ∨ (s.pinsOf i).powerGood = false) : s.powered i = false := by
  rw [powered_eq]
  exact Bool.and_eq_false_iff.mpr h

theorem ended_gen (u : State) (l : List SlotId) (b : Option Word16) (i : SlotId) :
    ((u.ended l b).slot i).gen = (u.slot i).gen := by
  obtain ⟨n, hn⟩ := ended_slot u l b i
  rw [hn]

theorem Slot.Idles.ended {policy : Policy} (h : (u.slot i).Idles policy) (l : List SlotId) (b : Option Word16) :
    ((u.ended l b).slot i).Idles policy := by
  obtain ⟨n, hn⟩ := ended_slot u l b i
  rw [hn]
  exact ⟨h.orders, h.active, h.policy, h.state⟩

section
variable (h : Inv s) (c : ResetCause) (l : List SlotId) (b : Option Word16)
include h

/-- A slot whose generation changes is told of in the gap mask (R169, R174). -/
theorem ended_told (hgen : (((warmRestart c s).ended l b).slot i).gen ≠ (s.slot i).gen) :
    ((warmRestart c s).ended l b).journal.gapMask.getLsbD (i.val + 1) = true
    ∧ ((warmRestart c s).ended l b).journal.gapPending = true := by
  rw [ended_gen] at hgen
  have told : (warmRestart c s).Told i := ((warmRestart_idles h c i).2.2.tells rfl).resolve_left fun hsame =>
    hgen (hsame.trans (by rw [restartBlocks_slot]; rfl))
  have journal : ((warmRestart c s).ended l b).journal = (warmRestart c s).journal := by simp
  rw [journal]
  exact told

/-- A detached order of a slot at the end of the event (R59, R195). -/
theorem ended_abandons {e : OrderEntry} (he : e ∈ (s.slot i).orders) (hshelf : ∀ d ∈ s.alloc.shelf, d.cell ≠ e.cell)
    (hother : ∀ j, ∀ d ∈ (s.slot j).orders, d.cell = e.cell → j = i) :
    let t := (warmRestart c s).ended l b
    let moved := (s.slot i).state.moved
    t.cell e.cell = .finished ∧ t.rd8 e.cell 0x1C = OrderOutcome.abandoned.code ∧ t.rd8 e.cell 0x1E = moved.code
    ∧ t.rd16 e.cell 0x28 = (if moved = (s.slot i).state then (s.slot i).gen else nextGeneration (s.slot i).gen)
    ∧ t.port.attention &&& Attention.orderDone.mask = Attention.orderDone.mask := by
  obtain ⟨done, latched⟩ := warmRestart_abandons h c he hshelf hother
  have done := done.of_kept (ended_cellsKept _ l b)
  have port : ((warmRestart c s).ended l b).port = (warmRestart c s).port := by simp
  exact ⟨done.cell, done.code, done.state.trans (congrArg SlotState.code (movedSlot_state s i)),
    done.gen.trans (movedSlot_gen s i), by rw [port]; exact latched⟩

/-- A detached order of the shelf at the end of the event (R59, R72). -/
theorem ended_abandonsShelf {e : OrderEntry} (he : e ∈ s.alloc.shelf) :
    let t := (warmRestart c s).ended l b
    t.cell e.cell = .finished ∧ t.rd8 e.cell 0x1C = OrderOutcome.abandoned.code ∧ t.rd8 e.cell 0x1E = 0xFF
    ∧ t.rd16 e.cell 0x28 = 0 ∧ t.port.attention &&& Attention.orderDone.mask = Attention.orderDone.mask := by
  obtain ⟨done, latched⟩ := warmRestart_abandonsShelf h c he
  have done := done.of_kept (ended_cellsKept _ l b)
  have port : ((warmRestart c s).ended l b).port = (warmRestart c s).port := by simp
  exact ⟨done.cell, done.code, done.state, done.gen, by rw [port]; exact latched⟩

/-- Every slot is idle at the end of the event. -/
theorem ended_idles (i : SlotId) : (((warmRestart c s).ended l b).slot i).Idles (s.slot i).policy
    ∧ (((warmRestart c s).ended l b).engine i).link = linkAfter (s.slot i).state := by
  obtain ⟨idle, link, -⟩ := warmRestart_idles h c i
  refine ⟨idle.ended l b, ?_⟩
  rw [(ended_reads _ l b).2.2.1]
  exact link

/-- A slot left RESUMING is judged afresh (R198, R199). -/
theorem restarted_resuming (hstate : (s.slot i).state = .resuming) :
    let t := (warmRestart c s).ended l b
    ((s.pwr i).switchOn = true → (s.pinsOf i).powerGood = true →
      (t.slot i).state = .resuming ∧ (t.slot i).prev = (s.slot i).prev ∧ (t.slot i).gen = (s.slot i).gen
      ∧ (t.slot i).claim = (s.slot i).claim ∧ (t.pwr i).switchOn = true ∧ (t.engine i).Carries .probe)
    ∧ ((s.pwr i).switchOn = false ∨ (s.pinsOf i).powerGood = false →
      (t.slot i).state = .faulted ∧ (t.slot i).prev = .resuming ∧ (t.slot i).gen = nextGeneration (s.slot i).gen
      ∧ (t.slot i).fault = some .powerLost ∧ (t.slot i).faultTime = s.time
      ∧ (t.slot i).claim = 0 ∧ t.alloc.claims[i] = 0 ∧ (t.pwr i).switchOn = false) := by
  have payload : (s.slot i).state.payloadOn = true := by rw [hstate]; rfl
  have record := movedSlot_resuming s i hstate
  refine ⟨fun hon hpg => ?_, fun hbad => ?_⟩
  · obtain ⟨⟨n, hn⟩, -, on, probe⟩ := restarted_probes h c l b payload (powered_of hon hpg)
    rw [hn, record]
    exact ⟨hstate, rfl, rfl, rfl, on, probe⟩
  · have lost := restarted_lost h c l b ((loses_iff s i).mpr ⟨payload, not_powered_of hbad⟩)
    rw [record] at lost
    exact lost

/-- A slot left PARKED or FAULTED stays so (R196). -/
theorem restarted_parked (hstate : (s.slot i).state = .parked ∨ (s.slot i).state = .faulted) :
    (((warmRestart c s).ended l b).slot i).state = (s.slot i).state
    ∧ (((warmRestart c s).ended l b).slot i).gen = (s.slot i).gen := by
  obtain ⟨n, hn⟩ := restarted_rests h c l b (hstate.imp_right .inl)
  rw [hn, movedSlot_stays s i (.inr (.inr hstate))]
  exact ⟨rfl, rfl⟩

/-- A slot left AWAIT-POWER is PARKED (R196). -/
theorem restarted_awaitPower (hstate : (s.slot i).state = .awaitPower) :
    (((warmRestart c s).ended l b).slot i).state = .parked
    ∧ (((warmRestart c s).ended l b).slot i).gen = nextGeneration (s.slot i).gen
    ∧ (((warmRestart c s).ended l b).slot i).waitReason = none := by
  obtain ⟨n, hn⟩ := restarted_rests h c l b (.inr (.inr hstate))
  rw [hn, movedSlot_parks s i hstate]
  exact ⟨rfl, rfl, if_pos hstate⟩

/-- A slot with payload power resumes, or its power is lost (R196, R198). -/
theorem restarted_payload (hpayload : (s.slot i).state.payloadOn = true) (hne : (s.slot i).state ≠ .resuming) :
    let t := (warmRestart c s).ended l b
    ((s.pwr i).switchOn = true → (s.pinsOf i).powerGood = true →
      (t.slot i).state = .resuming ∧ (t.slot i).prev = (s.slot i).state
      ∧ (t.slot i).gen = nextGeneration (s.slot i).gen
      ∧ (t.slot i).claim = (s.slot i).claim ∧ t.alloc.claims[i] = s.alloc.claims[i]
      ∧ (t.pwr i).switchOn = true ∧ (t.engine i).Carries .probe)
    ∧ ((s.pwr i).switchOn = false ∨ (s.pinsOf i).powerGood = false →
      (t.slot i).state = .faulted ∧ (t.slot i).prev = .resuming
      ∧ (t.slot i).gen = nextGeneration (nextGeneration (s.slot i).gen)
      ∧ (t.slot i).fault = some .powerLost ∧ (t.slot i).faultTime = s.time
      ∧ (t.slot i).claim = 0 ∧ t.alloc.claims[i] = 0 ∧ (t.pwr i).switchOn = false) := by
  have record := movedSlot_resumes s i hpayload hne
  refine ⟨fun hon hpg => ?_, fun hbad => ?_⟩
  · obtain ⟨⟨n, hn⟩, claim, on, probe⟩ := restarted_probes h c l b hpayload (powered_of hon hpg)
    rw [hn, record]
    exact ⟨rfl, rfl, rfl, rfl, claim, on, probe⟩
  · have lost := restarted_lost h c l b ((loses_iff s i).mpr ⟨hpayload, not_powered_of hbad⟩)
    rw [record] at lost
    exact lost

end

/-! ### The two commands -/

/-- RESTART and the release of the RESET line are one warm restart, which in the second case finds no asserted line. -/
theorem exec_warmRestart {k : Instr} (h : k = .restart ∧ s.held = false ∧ c = .restartBit
    ∨ k = .resetLineRelease ∧ s.held = true ∧ c = .resetLine) : ∃ line,
    exec k s = .next (event (warmRestart c) { s with resetLine := line }) ∧ line = (if k = .restart then s.resetLine else none) := by
  rcases h with ⟨rfl, hheld, rfl⟩ | ⟨rfl, hheld, rfl⟩
  · have bit : (mergeWord s.control 4 0xF).getLsbD 2 = true := by simp [mergeWord]
    have act : writeWord 0x4000 4 0xF s = warmRestart .restartBit s := by
      rw [writeWord, hheld]
      exact if_pos bit
    refine ⟨s.resetLine, congrArg Host.Outcome.next ?_, rfl⟩
    rw [event, event, act]
  · exact ⟨none, congrArg Host.Outcome.next (if_pos hheld), rfl⟩

/-- Settles O55. -/
theorem warmRestarts : Obligations.WarmRestart := by
  intro s₀ k cause hinv₀ hready₀ hcommand
  obtain ⟨line, hexec, hline⟩ := exec_warmRestart hcommand
  let s : State := { s₀ with resetLine := line }
  have h : Inv s := ⟨hinv₀.mem, hinv₀.journal, hinv₀.alloc, hinv₀.history, hinv₀.slots, hinv₀.ports, hinv₀.power,
    hinv₀.engines⟩
  have hready : s.Ready := ⟨hready₀.work, hready₀.late, hready₀.shelf, hready₀.changed, hready₀.broughtBy⟩
  obtain ⟨l, b, hevent⟩ := warmRestart_event h hready cause
  have frame := warmRestart_frame h cause l b
  obtain ⟨run, noticeEnable, enable, hcause⟩ := frame.port
  obtain ⟨time, straps, pending, pins, feedA, feedB⟩ := frame.stands
  obtain ⟨capacity, hubReserve, feedALost, feedBLost⟩ := frame.limits
  obtain ⟨queue, shelf, ramping⟩ := frame.lists
  obtain ⟨entries, writeCount, readCount, marks, -⟩ := frame.journal
  refine ⟨(warmRestart cause s).ended l b, hexec.trans (congrArg Host.Outcome.next hevent), frame.held,
    frame.resetLine.trans hline, run, noticeEnable, enable, hcause, frame.pointer, frame.restarted, time, straps, pending,
    pins, feedA, feedB, frame.debounceFrom, feedALost, feedBLost, capacity, hubReserve, queue, shelf, ramping, frame.settings,
    fun i => ?refs, entries, writeCount, readCount, marks, fun i hgen => ended_told h cause l b hgen,
    fun i e he hshelf hother => ended_abandons h cause l b he hshelf hother,
    fun e he _ => ended_abandonsShelf h cause l b he, fun d hshelf hslots => ?cells, fun p => ?ports, fun i => ?slots⟩
  case refs =>
    have refs := warmRestart_refs h cause i
    simp only [keepRef_eq, powered_eq] at refs
    rw [(ended_reads _ l b).2.1]
    exact refs
  case cells =>
    have stands := (warmRestart_stands h cause hshelf hslots).trans ((ended_cellsKept _ l b).stands d)
    exact ⟨stands.1, fun a hlo hhi => stands.read hlo hhi⟩
  case ports =>
    rw [(ended_reads _ l b).2.2.2.2.1]
    exact warmRestart_port h cause p
  case slots =>
    obtain ⟨idle, link⟩ := ended_idles h cause l b i
    exact ⟨idle.orders, idle.active, idle.policy, link, restarted_empty h cause l b, restarted_surveying h cause l b,
      restarted_resuming h cause l b, restarted_parked h cause l b, restarted_awaitPower h cause l b,
      restarted_payload h cause l b⟩

end Sys2Proof.Machine
